-- ==== Sys2Proof/Word.lean ====
section
/-!
DEFINITION. The tagged word of the GX-960 (spec 03, R79, R80): a 64-bit payload and one of the fifteen
assigned tags. The tag codes themselves are in Decode.lean (`Tag.code`, `Tag.ofCode`).
-/
namespace Sys2Proof

/-- A 64-bit payload, special register or virtual address. -/
abbrev W64 := BitVec 64
/-- One 32-bit instruction word. -/
abbrev W32 := BitVec 32
/-- One byte of memory or of an instruction field. -/
abbrev Byte := BitVec 8
/-- The number a register field holds. -/
abbrev Reg := BitVec 8
/-- One bit per lane of the widest warp (R127: 128 lanes). -/
abbrev LaneMask := BitVec 128

/-- The assigned tags (R80). Every other code is reserved and never appears in a register (R81). -/
inductive Tag where
  | nil | bool | int | f64 | f32 | f16 | bf16 | bits | ref | tile | sym | hdr | hdrc | fwd | poison
  deriving DecidableEq, Repr, Inhabited

/-- A word: a payload together with its tag (R79). -/
structure Word where
  tag : Tag
  pay : W64
  deriving DecidableEq, Repr

/-- NIL: what every register of a new warp holds (R84, R257). -/
def Word.nil : Word := ⟨.nil, 0⟩

end Sys2Proof
end

