-- ==== Sys2Proof/Syntax.lean ====
section
/-!
DEFINITION. The syntax of the GX-960: one constructor of `Instr` per row of the opcode table. The first
constructors are the units a split executes (spec 02, R48 to R61); the others are the events of the machine
that the opcode table lists beside them (spec 95 and the rules it names), which have no encoding: they are
what the machine, the firmware, the hypervisor or the outside world does between the steps of the splits.
A register field holds the number its field of the word holds; WellFormed.lean says which numbers are legal.
-/
namespace Sys2Proof

/-- The guard of a long instruction (R37): predicate p0 to p7 and its negation. -/
structure Guard where
  p : BitVec 3
  neg : Bool
  deriving DecidableEq, Repr

/-- PG = 7, PN = 0: unguarded (R37). -/
def Guard.always : Guard := ⟨7, false⟩

/-- SUB of MOVK (R51). -/
inductive MovkK where
  | int | f32 | bits | sym
  deriving DecidableEq, Repr

/-- SUB of MOVH (R51). -/
inductive MovhK where
  | keep | int | f64 | bits
  deriving DecidableEq, Repr

/-- The condition list (R50). -/
inductive Cond where
  | eq | ne | lt | le | gt | ge | uo | or
  deriving DecidableEq, Repr

/-- Signedness (R50). -/
inductive Sgn where
  | s | u
  deriving DecidableEq, Repr

/-- SUB of SHI (R52). -/
inductive ShiftK where
  | l | r | a
  deriving DecidableEq, Repr

/-- SUB of ROT (R52). -/
inductive Side where
  | l | r
  deriving DecidableEq, Repr

/-- SUB of ISAT (R52). -/
inductive SatW where
  | b8 | b16 | b32
  deriving DecidableEq, Repr

/-- The float format list (R50). -/
inductive FFmt where
  | f64 | f32 | f16 | bf16
  deriving DecidableEq, Repr

/-- Source formats of FCVT (R53). -/
inductive SrcFmt where
  | f64 | f32 | f16 | bf16 | e4m3 | e5m2
  deriving DecidableEq, Repr

/-- Rounding modes (R40), and MOD8 of FRND (R53). -/
inductive RMode where
  | rn | rz | rp | rm | rna
  deriving DecidableEq, Repr

/-- SUB of the packed instructions (R53). -/
inductive PkFmt where
  | f32x2 | f16x4 | bf16x4
  deriving DecidableEq, Repr

/-- Formats of PCVT (R53). -/
inductive PcFmt where
  | f32x2 | f16x4 | bf16x4 | e4m3x8 | e5m2x8
  deriving DecidableEq, Repr

/-- SUB of QPACK and QUNPK (R53). -/
inductive GxFmt where
  | gx4 | gx6 | gx9
  deriving DecidableEq, Repr

/-- SUB of SHFL (R54). -/
inductive ShflK where
  | idx | up | down | xor
  deriving DecidableEq, Repr

/-- SUB of VOTE (R54). -/
inductive VoteK where
  | all | any | uni | ballot
  deriving DecidableEq, Repr

/-- The reduction op list (R50). -/
inductive RedOp where
  | add | min | max | and | or | xor
  deriving DecidableEq, Repr

/-- MOD8 of SALU (R54). -/
inductive SaluOp where
  | add | sub | and | or | xor | shl | shr | mul
  deriving DecidableEq, Repr

/-- The base of an L.M form, "v/s" (R47): B[7] selects a warp scalar register. -/
structure MBase where
  scalar : Bool
  reg : Reg
  deriving DecidableEq, Repr

/-- Access size and type code (R55), the legal pairs only. -/
inductive MemTy where
  | w | i1 | i2 | i4 | i8 | z1 | z2 | z4 | f2 | f4 | f8 | bf | bits
  deriving DecidableEq, Repr

/-- D of ATOM (R55). -/
inductive AtomOp where
  | iadd | fadd | smin | smax | umin | umax | and | or | xor | xchg | fmin | fmax
  deriving DecidableEq, Repr

/-- SUB of ATOM and CAS (R55): 4 or 8 bytes. -/
inductive ASize where
  | b4 | b8
  deriving DecidableEq, Repr

/-- B of CCTL (R55): write back, invalidate, both. -/
inductive CctlOp where
  | wb | inv | wbinv
  deriving DecidableEq, Repr

/-- SUB of ACPY (R57): memory and scratchpad as source and destination. -/
inductive CopyDir where
  | m2s | s2m | s2s | m2m
  deriving DecidableEq, Repr

/-- SUB of HCPY (R57). -/
inductive HDir where
  | h2d | d2h | h2s | s2h
  deriving DecidableEq, Repr

/-- MOD8[2:0] of ACOLL (R57). -/
inductive CollOp where
  | add | min | max
  deriving DecidableEq, Repr

/-- MOD8[5:4] of ACOLL (R57). -/
inductive CollTy where
  | f32 | bf16 | int
  deriving DecidableEq, Repr

/-- Formats of SXPD, SPACK and DRAIN (R57; the two lists number them differently). -/
inductive TFmt where
  | gx4 | gx6 | gx9 | e4m3 | e5m2 | bf16 | fp16 | f32
  deriving DecidableEq, Repr

/-- Descriptor kinds of TDESC (R164). -/
inductive Kind where
  | c16 | c24 | f32 | bf16
  deriving DecidableEq, Repr

/-- Warp widths (R127, R271). -/
inductive Width where
  | w16 | w32 | w64 | w128
  deriving DecidableEq, Repr

/-- Network virtual channels (R318). -/
inductive VC where
  | mgmt | inv | rsp | req | bulk | upd
  deriving DecidableEq, Repr

/-- What a packet is a request of: an access in flight, a command of an engine context of a task, or neither. -/
inductive PktSrc where
  | none
  | access (id : Nat)
  | command (task eng num : Nat)
  deriving DecidableEq, Repr

/-- A network packet as an output port sees it (R317, R320): the output it waits at and those behind it on its way, context id
(R310), partition (16 for firmware), requester port, memory-side port (64 where it goes to none), service class, channel, bytes,
flits, the congestion mark, and what it belongs to. -/
structure Packet where
  output : Nat
  route : List Nat
  ctx : Nat
  part : Nat
  port : Nat
  mport : Nat
  cls : Nat
  vc : VC
  bytes : Nat
  flits : Nat
  marked : Bool
  src : PktSrc
  deriving DecidableEq, Repr

/-- What an access of the fabric does at an address (R180, R228, R229, R340): it reads or writes bytes, reads or writes a whole word
with its tag, or is an ATOM or CAS of 4 or 8 bytes. -/
inductive FabricOp where
  | read
  | write (bs : List Byte)
  | readWord
  | writeWord (x : Word)
  | atom (op : AtomOp) (x : Word)
  | cas (e x : Word)
  deriving DecidableEq, Repr

/-- Where an uncorrectable error strikes (R367); `l2Line` is a clean line of the L2. -/
inductive ErrLoc where
  | vreg (warp lane reg : Nat)
  | sreg (warp reg : Nat)
  | breg (task reg : Nat)
  | memory (key : Nat)
  | l2Line (line : Nat)
  | cacheLine (core line : Nat)
  | scratch (task word : Nat)
  | acc (task slot : Nat)
  | translation (idx : Nat) (stage2 : Bool)
  | instrLine (core idx : Nat)
  | state (vf : Nat)
  | firmware
  deriving DecidableEq, Repr

/-- A DOMAIN collective part that another member sends (R340, R246): with its op, type and element count. -/
structure CollMsg where
  dom : Nat
  member : Nat
  seq : Nat
  op : CollOp
  ty : CollTy
  count : Nat
  payload : List Byte
  deriving DecidableEq, Repr

/-- The instructions and events of the GX-960: one constructor per row of the opcode table. -/
inductive Instr where
  /-- NOP: R48. -/
  | nop
  /-- MOV: R119. -/
  | mov (d a : Reg)
  /-- ADD: R116, R118. -/
  | add (d a b : Reg)
  /-- SUB: R116, R118. -/
  | sub (d a b : Reg)
  /-- MUL: R116, R118. -/
  | mul (d a b : Reg)
  /-- MIN: R116, R118. -/
  | min (d a b : Reg)
  /-- MAX: R116, R118. -/
  | max (d a b : Reg)
  /-- NEG: R116. -/
  | neg (d a : Reg)
  /-- IADD: R122. -/
  | iadd (d a b : Reg)
  /-- ISUB: R122. -/
  | isub (d a b : Reg)
  /-- AND: R122. -/
  | and (d a b : Reg)
  /-- OR: R122. -/
  | or (d a b : Reg)
  /-- XOR: R122. -/
  | xor (d a b : Reg)
  /-- SHL: R122. -/
  | shl (d a b : Reg)
  /-- SHR: R122. -/
  | shr (d a b : Reg)
  /-- SAR: R122. -/
  | sar (d a b : Reg)
  /-- MOVI: R119: imm16 = A x 256 + B. -/
  | movi (d : Reg) (imm : BitVec 16)
  /-- ADDI: R116: imm read as signed. -/
  | addi (d a : Reg) (imm : Byte)
  /-- TAGOF: R119. -/
  | tagof (d a : Reg)
  /-- LANEID: R119. -/
  | laneid (d : Reg)
  /-- JOIN: R287. -/
  | join
  /-- YIELD: R291. -/
  | yield
  /-- EXIT: R292. -/
  | exit
  /-- BAR: R290: barrier 0 to 15. -/
  | bar (n : Byte)
  /-- SERB: R288. -/
  | serb
  /-- SERE: R288. -/
  | sere
  /-- RET: R286: a names a scalar register. -/
  | ret (a : Reg)
  /-- RETL: R114. -/
  | retl (a : Reg)
  /-- TXEND: R236. -/
  | txend
  /-- SHFLX: R128: lane xor mask 0 to 127. -/
  | shflx (d a : Reg) (m : Byte)
  /-- NOT: R122. -/
  | not (d a : Reg)
  /-- ABS: R116. -/
  | abs (d a : Reg)
  /-- IADD32: R61, retired. -/
  | iadd32 (d a b : Reg)
  /-- ISUB32: R61, retired. -/
  | isub32 (d a b : Reg)
  /-- IMUL32: R61, retired. -/
  | imul32 (d a b : Reg)
  /-- MOVT: R61, retired. -/
  | movt (d a : Reg)
  /-- SYNCW: R61, retired. -/
  | syncw
  /-- BALLOT32: R61, retired. -/
  | ballot32 (d a : Reg)
  /-- SHFL32: R61, retired. -/
  | shfl32 (d a b : Reg)
  /-- TAGEQ: R61, retired. -/
  | tageq (d a b : Reg)
  /-- MOVK: R119. -/
  | movk (g : Guard) (k : MovkK) (d : Reg) (imm : W32)
  /-- MOVH: R119. -/
  | movh (g : Guard) (k : MovhK) (d : Reg) (imm : W32)
  /-- RETAG: R119. -/
  | retag (g : Guard) (d a : Reg) (t : Tag)
  /-- CHKTAG: R119. -/
  | chktag (g : Guard) (a : Reg) (t : Tag) (m : Byte)
  /-- TESTTAG: R119: d names a predicate. -/
  | testtag (g : Guard) (d a : Reg) (t : Tag) (m : Byte)
  /-- SEL: R119: c names a predicate. -/
  | sel (g : Guard) (d a b c : Reg)
  /-- FMA: R116. -/
  | fma (g : Guard) (d a b c : Reg)
  /-- DIV: R117. -/
  | div (g : Guard) (d a b : Reg)
  /-- REM: R117. -/
  | rem (g : Guard) (d a b : Reg)
  /-- CMP: R118: d names a predicate. -/
  | cmp (g : Guard) (cc : Cond) (d a b : Reg)
  /-- EQV: R119: d names a predicate. -/
  | eqv (g : Guard) (d a b : Reg)
  /-- CVT: R120. -/
  | cvt (g : Guard) (d a : Reg) (t : Tag)
  /-- HASHV: R121. -/
  | hashv (g : Guard) (d a : Reg)
  /-- IMUL: R122. -/
  | imul (g : Guard) (d a b : Reg)
  /-- IMULH: R122. -/
  | imulh (g : Guard) (sg : Sgn) (d a b : Reg)
  /-- IMAD: R122. -/
  | imad (g : Guard) (d a b c : Reg)
  /-- IDIV: R122. -/
  | idiv (g : Guard) (sg : Sgn) (d a b : Reg)
  /-- IREM: R122. -/
  | irem (g : Guard) (sg : Sgn) (d a b : Reg)
  /-- IMIN: R122. -/
  | imin (g : Guard) (sg : Sgn) (d a b : Reg)
  /-- IMAX: R122. -/
  | imax (g : Guard) (sg : Sgn) (d a b : Reg)
  /-- ICMP: R122: d names a predicate; eq to ge only. -/
  | icmp (g : Guard) (sg : Sgn) (cc : Cond) (d a b : Reg)
  /-- IADDI: R122. -/
  | iaddi (g : Guard) (d a : Reg) (imm : W32)
  /-- ANDI: R122. -/
  | andi (g : Guard) (d a : Reg) (imm : W32)
  /-- ORI: R122. -/
  | ori (g : Guard) (d a : Reg) (imm : W32)
  /-- XORI: R122. -/
  | xori (g : Guard) (d a : Reg) (imm : W32)
  /-- SHI: R122: n is 0 to 63. -/
  | shi (g : Guard) (k : ShiftK) (d a : Reg) (n : Byte)
  /-- ROT: R122. -/
  | rot (g : Guard) (k : Side) (d a b : Reg)
  /-- POPC: R122. -/
  | popc (g : Guard) (d a : Reg)
  /-- CLZ: R122. -/
  | clz (g : Guard) (d a : Reg)
  /-- BFX: R122: 1 <= len, pos + len <= 64. -/
  | bfx (g : Guard) (sx : Bool) (d a : Reg) (pos len : Byte)
  /-- BFI: R122: limits as BFX. -/
  | bfi (g : Guard) (d a : Reg) (pos len : Byte)
  /-- LEA: R122. -/
  | lea (g : Guard) (d a b : Reg) (sh : BitVec 3)
  /-- IADDC: R122: c names a predicate, carry in and out. -/
  | iaddc (g : Guard) (d a b c : Reg)
  /-- BREV: R122. -/
  | brev (g : Guard) (d a : Reg)
  /-- ISAT: R122. -/
  | isat (g : Guard) (w : SatW) (u : Bool) (d a : Reg)
  /-- FADD: R123. -/
  | fadd (g : Guard) (f : FFmt) (d a b : Reg)
  /-- FSUB: R123. -/
  | fsub (g : Guard) (f : FFmt) (d a b : Reg)
  /-- FMUL: R123. -/
  | fmul (g : Guard) (f : FFmt) (d a b : Reg)
  /-- FFMA: R123. -/
  | ffma (g : Guard) (f : FFmt) (d a b c : Reg)
  /-- FDIV: R123. -/
  | fdiv (g : Guard) (f : FFmt) (d a b : Reg)
  /-- FSQRT: R123. -/
  | fsqrt (g : Guard) (f : FFmt) (d a : Reg)
  /-- FRCP: R123. -/
  | frcp (g : Guard) (f : FFmt) (d a : Reg)
  /-- FRSQ: R123. -/
  | frsq (g : Guard) (f : FFmt) (d a : Reg)
  /-- FMIN: R123. -/
  | fmin (g : Guard) (f : FFmt) (d a b : Reg)
  /-- FMAX: R123. -/
  | fmax (g : Guard) (f : FFmt) (d a b : Reg)
  /-- FCMP: R123: d names a predicate. -/
  | fcmp (g : Guard) (f : FFmt) (cc : Cond) (d a b : Reg)
  /-- FCLASS: R123. -/
  | fclass (g : Guard) (f : FFmt) (d a : Reg)
  /-- FEXP2: R123. -/
  | fexp2 (g : Guard) (f : FFmt) (d a : Reg)
  /-- FLOG2: R123. -/
  | flog2 (g : Guard) (f : FFmt) (d a : Reg)
  /-- FSIN: R123. -/
  | fsin (g : Guard) (f : FFmt) (d a : Reg)
  /-- FCOS: R123. -/
  | fcos (g : Guard) (f : FFmt) (d a : Reg)
  /-- FCVT: R123. -/
  | fcvt (g : Guard) (f : FFmt) (src : SrcFmt) (d a : Reg)
  /-- I2F: R123. -/
  | i2f (g : Guard) (f : FFmt) (u : Bool) (d a : Reg)
  /-- F2I: R123. -/
  | f2i (g : Guard) (f : FFmt) (u : Bool) (d a : Reg)
  /-- FRND: R123. -/
  | frnd (g : Guard) (f : FFmt) (m : RMode) (d a : Reg)
  /-- PADD: R124. -/
  | padd (g : Guard) (k : PkFmt) (d a b : Reg)
  /-- PMUL: R124. -/
  | pmul (g : Guard) (k : PkFmt) (d a b : Reg)
  /-- PFMA: R124. -/
  | pfma (g : Guard) (k : PkFmt) (d a b c : Reg)
  /-- PDOT: R124: bf selects bf16x4, else f16x4. -/
  | pdot (g : Guard) (bf : Bool) (d a b c : Reg)
  /-- PMAX: R124. -/
  | pmax (g : Guard) (k : PkFmt) (d a b : Reg)
  /-- PCVT: R124: equal formats are ILLEGAL. -/
  | pcvt (g : Guard) (src dst : PcFmt) (d a : Reg)
  /-- QPACK: R125: d names a group of k registers. -/
  | qpack (g : Guard) (k : GxFmt) (d a : Reg)
  /-- QUNPK: R125: a names a group of k registers. -/
  | qunpk (g : Guard) (k : GxFmt) (d a : Reg)
  /-- SHFL: R128: with imm, b is an immediate 0 to 127. -/
  | shfl (g : Guard) (k : ShflK) (imm : Bool) (d a b : Reg)
  /-- VOTE: R129: d names a predicate, for ballot a scalar pair; a a predicate. -/
  | vote (g : Guard) (k : VoteK) (d a : Reg)
  /-- RDX: R130. -/
  | rdx (g : Guard) (op : RedOp) (d a : Reg)
  /-- SCAN: R130. -/
  | scan (g : Guard) (op : RedOp) (excl : Bool) (d a : Reg)
  /-- SEGRDX: R130: c names a predicate. -/
  | segrdx (g : Guard) (op : RedOp) (d a c : Reg)
  /-- MATCH: R128. -/
  | matchv (g : Guard) (d a : Reg)
  /-- BCAST: R128: lane 0 to 127. -/
  | bcast (g : Guard) (d a : Reg) (lane : Byte)
  /-- SMOV: R131: scalar to scalar. -/
  | smov (g : Guard) (d a : Reg)
  /-- SMOV_FROM_LANE: R131: d scalar, a lane register, lane 0 to 127. -/
  | smovFromLane (g : Guard) (d a : Reg) (lane : Byte)
  /-- SMOV_TO_LANES: R131: d lane register, a scalar. -/
  | smovToLanes (g : Guard) (d a : Reg)
  /-- SALU: R131. -/
  | salu (g : Guard) (op : SaluOp) (d a b : Reg)
  /-- SCMP: R131: d names a predicate; a, b scalars; eq to ge only. -/
  | scmp (g : Guard) (sg : Sgn) (cc : Cond) (d a b : Reg)
  /-- BRD: R131: a names a block register. -/
  | brd (g : Guard) (toV : Bool) (d a : Reg)
  /-- BWR: R131, R132: d names a block register, a a scalar. -/
  | bwr (g : Guard) (d a : Reg)
  /-- LANESEL: R129: d names a predicate, a a scalar pair. -/
  | lanesel (g : Guard) (d a : Reg)
  /-- LD: R217 to R220. -/
  | ld (g : Guard) (ty : MemTy) (d : Reg) (base : MBase) (imm : BitVec 24)
  /-- ST: R217 to R220. -/
  | st (g : Guard) (ty : MemTy) (d : Reg) (base : MBase) (imm : BitVec 24)
  /-- LDINV: R217 to R220. -/
  | ldinv (g : Guard) (ty : MemTy) (d : Reg) (base : MBase) (imm : BitVec 24)
  /-- LDS: R217 to R220. -/
  | lds (g : Guard) (ty : MemTy) (d : Reg) (base : MBase) (imm : BitVec 24)
  /-- STS: R217 to R220. -/
  | sts (g : Guard) (ty : MemTy) (d : Reg) (base : MBase) (imm : BitVec 24)
  /-- LDREF: R222. -/
  | ldref (g : Guard) (d : Reg) (base : MBase) (imm : BitVec 24)
  /-- LDF: R223. -/
  | ldf (g : Guard) (d a : Reg) (idx : BitVec 24)
  /-- STF: R223: d holds the data. -/
  | stf (g : Guard) (d a : Reg) (idx : BitVec 24)
  /-- HDRLD: R224. -/
  | hdrld (g : Guard) (d a : Reg)
  /-- NALLOC: R227. -/
  | nalloc (g : Guard) (d a b : Reg)
  /-- NSET: R226: scalars. -/
  | nset (g : Guard) (a b : Reg)
  /-- ATOM: R228: b is operand and old value. -/
  | atom (g : Guard) (op : AtomOp) (sz : ASize) (a b : Reg) (imm : BitVec 24)
  /-- CAS: R229: d new value, b expected and old value. -/
  | cas (g : Guard) (sz : ASize) (d a b : Reg) (imm : BitVec 24)
  /-- FENCE: R230, R56. -/
  | fence (g : Guard) (pred succ : BitVec 4) (scope : BitVec 3)
  /-- WAITC: R231, R194. -/
  | waitc (g : Guard) (ld st cp tile : Byte)
  /-- WAITP: R231: a names a scalar, path 0 to 5. -/
  | waitp (g : Guard) (a : Reg) (path : Byte)
  /-- PREF: R232. -/
  | pref (g : Guard) (l2 : Bool) (base : MBase) (imm : BitVec 24)
  /-- CCTL: R233. -/
  | cctl (g : Guard) (op : CctlOp) (base : MBase) (imm : BitVec 24)
  /-- TXBEGIN: R234. -/
  | txbegin (g : Guard) (d : Reg) (off : W32)
  /-- TXABORT: R237. -/
  | txabort (g : Guard) (code : Byte)
  /-- TXSTAT: R238. -/
  | txstat (g : Guard) (d : Reg)
  /-- LDX: R219. -/
  | ldx (g : Guard) (ty : MemTy) (d a b : Reg) (sh : BitVec 3)
  /-- ACPY: R242: d names a timeline; a, b, c scalars. -/
  | acpy (g : Guard) (dir : CopyDir) (d a b c : Reg)
  /-- AMCAST: R243. -/
  | amcast (g : Guard) (d a b c : Reg)
  /-- AGATH: R244: c names a scalar pair. -/
  | agath (g : Guard) (esz : BitVec 2) (d a b c : Reg)
  /-- ASCAT: R244. -/
  | ascat (g : Guard) (esz : BitVec 2) (d a b c : Reg)
  /-- HCPY: R245. -/
  | hcpy (g : Guard) (dir : HDir) (d a b c : Reg)
  /-- ACOLL: R246. -/
  | acoll (g : Guard) (dom : Bool) (op : CollOp) (ty : CollTy) (d a b c : Reg)
  /-- TLBIND: R247. -/
  | tlbind (g : Guard) (d a : Reg)
  /-- TLWAIT: R248. -/
  | tlwait (g : Guard) (d a : Reg)
  /-- TLREAD: R248: d scalar, a timeline. -/
  | tlread (g : Guard) (d a : Reg)
  /-- TLSIG: R249: a scalar destination. -/
  | tlsig (g : Guard) (d a : Reg)
  /-- ACANCEL: R250. -/
  | acancel (g : Guard) (d a : Reg)
  /-- SXPD: R168: b names a descriptor pair. -/
  | sxpd (g : Guard) (f : TFmt) (d a b c : Reg)
  /-- SPACK: R169: a names a descriptor pair. -/
  | spack (g : Guard) (f : TFmt) (d a b c : Reg)
  /-- TDESC: R164: d names a scalar pair. -/
  | tdesc (g : Guard) (k : Kind) (rot : BitVec 4) (d a b : Reg)
  /-- TALLOC: R165. -/
  | talloc (g : Guard) (d : Reg)
  /-- TFREE: R165. -/
  | tfree (g : Guard) (a : Reg)
  /-- MMAZ: R166: ad, bd select scratchpad descriptors. -/
  | mmaz (g : Guard) (ad bd : Bool) (d a b : Reg)
  /-- MMA: R166: ad, bd select scratchpad descriptors. -/
  | mma (g : Guard) (ad bd : Bool) (d a b : Reg)
  /-- MMAG: R166: ad, bd select scratchpad descriptors. -/
  | mmag (g : Guard) (ad bd : Bool) (d a b : Reg)
  /-- GANGSET: R167. -/
  | gangset (g : Guard) (a : Reg)
  /-- DRAIN: R158, R170. -/
  | drain (g : Guard) (f : TFmt) (mem : Bool) (d a : Reg)
  /-- DRAIN_T: R160. -/
  | drainT (g : Guard) (f : TFmt) (mem : Bool) (d a b : Reg)
  /-- DRAIN_ADD: R161: f is f32 or bf16. -/
  | drainAdd (g : Guard) (f : TFmt) (mem : Bool) (d a : Reg)
  /-- ACCLD: R171: a names a descriptor pair. -/
  | accld (g : Guard) (d a : Reg)
  /-- ACCRD: R171: d names a group of sixteen; blk 0 to 3. -/
  | accrd (g : Guard) (d a : Reg) (blk : Byte)
  /-- BRA: R282. -/
  | bra (g : Guard) (off : W32)
  /-- BRX: R284. -/
  | brx (g : Guard) (a : Reg)
  /-- CALL: R285. -/
  | call (g : Guard) (d : Reg) (off : W32)
  /-- CALLX: R285. -/
  | callx (g : Guard) (d a : Reg)
  /-- INTERVAL: R293. -/
  | interval (g : Guard) (d : Reg) (m : W32)
  /-- SPLITW: R296: 16, 32 or 64. -/
  | splitw (g : Guard) (w : Width) (d : Reg)
  /-- FUSEW: R297: 32, 64 or 128. -/
  | fusew (g : Guard) (w : Width) (d : Reg)
  /-- WIDTH: R294. -/
  | width (g : Guard) (d : Reg)
  /-- LEGACY_ENTER: R298. -/
  | legacyEnter (g : Guard)
  /-- LEGACY_LEAVE: R298. -/
  | legacyLeave (g : Guard)
  /-- BARC: R290. -/
  | barc (g : Guard) (n : Byte) (a : Reg)
  /-- SPAWN: R299: a scalar, b lane register. -/
  | spawn (g : Guard) (uni : Bool) (d a b : Reg)
  /-- LAUNCHP: R301. -/
  | launchp (g : Guard) (d a b c : Reg)
  /-- SHAPE: R302. -/
  | shape (g : Guard) (a b : Reg)
  /-- SPECQ: R303. -/
  | specq (g : Guard) (d : Reg)
  /-- TRAP: R304. -/
  | trap (g : Guard) (code : W32)
  /-- BRU: R283. -/
  | bru (g : Guard) (off : W32)
  /-- SYSRD: R351. -/
  | sysrd (g : Guard) (d : Reg) (num : BitVec 12)
  /-- SYSWR: R351. -/
  | syswr (g : Guard) (a : Reg) (num : BitVec 12)
  /-- TIME: R352. -/
  | time (g : Guard) (d : Reg)
  /-- CLOCK: R352. -/
  | clock (g : Guard) (d : Reg)
  /-- ICINV: R353. -/
  | icinv (g : Guard) (a : Reg)
  /-- ICINV_ALL: R353. -/
  | icinvAll (g : Guard)
  /-- VQPUSH: R354. -/
  | vqpush (g : Guard) (a b : Reg)
  /-- RETT: R355. -/
  | rett (g : Guard)
  /-- HCALL: R356. -/
  | hcall (g : Guard) (n : W32)
  /-- PERF: R357: n 0 to 7. -/
  | perf (g : Guard) (d : Reg) (n : Byte)
  /-- FMAD: R61, retired. -/
  | fmad (g : Guard) (d a b c : Reg)
  /-- MMA16: R61, retired. -/
  | mma16 (g : Guard) (d a b : Reg)
  /-- MMA32: R61, retired. -/
  | mma32 (g : Guard) (d a b : Reg)
  /-- XPAND: R61, retired. -/
  | xpand (g : Guard) (d a : Reg)
  /-- ALLOCW: R61, retired. -/
  | allocw (g : Guard) (d a b : Reg)
  /-- LDBAR: R61, retired. -/
  | ldbar (g : Guard) (d : Reg) (base : MBase) (imm : BitVec 24)
  /-- GCMARK: R61, retired. -/
  | gcmark (g : Guard) (a : Reg)
  /-- FENCEG: R61, retired. -/
  | fenceg (g : Guard)
  /-- FENCES: R61, retired. -/
  | fences (g : Guard)
  /-- SPAWN1: R61, retired: a names a scalar register. -/
  | spawn1 (g : Guard) (d a b : Reg)
  /-- WAITALL: R61, retired. -/
  | waitall (g : Guard)
  /-- CVTQ8: R61, retired. -/
  | cvtq8 (g : Guard) (d a : Reg)
  /-- SQRT64: R61, retired. -/
  | sqrt64 (g : Guard) (d a : Reg)
  /-- LDG32: R61, retired. -/
  | ldg32 (g : Guard) (d : Reg) (base : MBase) (imm : BitVec 24)
  /-- STG32: R61, retired. -/
  | stg32 (g : Guard) (d : Reg) (base : MBase) (imm : BitVec 24)
  /-- BCASTW: R61, retired. -/
  | bcastw (g : Guard) (d a : Reg)
  /-- FUSEW_TIMEOUT: R273: warp w has waited 1,024 cycles. -/
  | fusewTimeout (w : Nat)
  /-- TASK_PLACE: R258: the head unit of partition p. -/
  | taskPlace (p : Nat)
  /-- TASK_END: R251: task t. -/
  | taskEnd (t : Nat)
  /-- LOAD_COMPLETE: R193: access id; marked, its response carried a congestion mark. -/
  | loadComplete (id : Nat) (marked : Bool)
  /-- STORE_PERFORMED: R193: access id. -/
  | storePerformed (id : Nat)
  /-- ATOMIC_COMPLETE: R228: access id. -/
  | atomicComplete (id : Nat)
  /-- ENGINE_COMMAND_START: R240: engine context e of task t. -/
  | engineCommandStart (t e : Nat)
  /-- ENGINE_COMMAND_COMPLETE: R195: command n. -/
  | engineCommandComplete (t e n : Nat)
  /-- TILE_OP_ACCEPT: R143: tile operation id. -/
  | tileOpAccept (id : Nat)
  /-- TILE_OP_COMPLETE: R143. -/
  | tileOpComplete (id : Nat)
  /-- TROWEL_UPDATE: R161: the add-on-store id. -/
  | trowelUpdate (id : Nat)
  /-- LAUNCH_RESOLUTION_COMPLETE: R278. -/
  | launchResolutionComplete (l : Nat)
  /-- LAUNCH_COMPLETE: R188. -/
  | launchComplete (l : Nat)
  /-- QUEUE_ENTRY_ACCEPT: R326. -/
  | queueEntryAccept (vf n : Nat)
  /-- QUEUE_MAP: R328. -/
  | queueMap (vf n : Nat)
  /-- PACKET_ADMIT: R320. -/
  | packetAdmit (pkt : Packet)
  /-- CASTLING_GO: R332: partition p. -/
  | castlingGo (p : Nat)
  /-- PACKET_SEND: R317: network output o. -/
  | packetSend (o : Nat)
  /-- HBM_REQUEST_SERVE: R315: memory-side port m. -/
  | hbmRequestServe (m : Nat)
  /-- CASTLING_SWEEP_COMPLETE: R332: partition p. -/
  | castlingSweepComplete (p : Nat)
  /-- CASTLING_CGRACE_EXPIRY: R332: partition p. -/
  | castlingCgraceExpiry (p : Nat)
  /-- CASTLING_SCRUB: R332: partition p. -/
  | castlingScrub (p : Nat)
  /-- CASTLING_COMMIT: R332: partition p. -/
  | castlingCommit (p : Nat)
  /-- SAVE_AREA_PROBE: R360. -/
  | saveAreaProbe (vf : Nat)
  /-- SLICE_EXPIRY: R337. -/
  | sliceExpiry (vf : Nat)
  /-- GRACE_EXPIRY: R337. -/
  | graceExpiry (vf : Nat)
  /-- KILL_EXPIRY: R337. -/
  | killExpiry (vf : Nat)
  /-- SAVE_COMPLETE: R361. -/
  | saveComplete (vf : Nat)
  /-- RESTORE_COMPLETE: R362. -/
  | restoreComplete (vf : Nat)
  /-- S2_INVALIDATE_COMPLETE: R359. -/
  | s2InvalidateComplete (vf : Nat)
  /-- EVENT_RING_POST: R358. -/
  | eventRingPost
  /-- CLEAN_LINE_REFETCH: R183. -/
  | cleanLineRefetch (core line : Nat)
  /-- BLOCK_WAKE: R30: block b. -/
  | blockWake (b : Nat)
  /-- ENCODING_NOT_INSTRUCTION: R60. -/
  | encodingNotInstruction
  /-- UNIT_FETCH_FAULT: R34: the word at addr cannot be fetched. -/
  | unitFetchFault (addr : W64) (kind : Nat)
  /-- WORKING_SET_STAGED: R269. -/
  | workingSetStaged (w : Nat)
  /-- SPLIT_TURN_EXPIRY: R262: a fresh choice in warp w. -/
  | splitTurnExpiry (w : Nat)
  /-- WARP_DUE: R261: warp w becomes due. -/
  | warpDue (w : Nat)
  /-- ENGINE_COMMAND_FAIL: R241: command n fails at addr. -/
  | engineCommandFail (t e n : Nat) (addr : W64)
  /-- DOORBELL: R324. -/
  | doorbell (vf n : Nat)
  /-- S1INV: R324. -/
  | s1inv (vf : Nat)
  /-- RATE_RECOVERY: R320. -/
  | rateRecovery
  /-- ALLOT_WRITE: R320. -/
  | allotWrite (p : Nat) (v : BitVec 16)
  /-- VF_ENABLE: R360. -/
  | vfEnable (vf : Nat)
  /-- CMD_STOP_SAVE: R361. -/
  | cmdStopSave (vf : Nat)
  /-- CMD_RESTORE: R362. -/
  | cmdRestore (vf : Nat)
  /-- CMD_KILL: R337. -/
  | cmdKill (vf : Nat)
  /-- CMD_CONTINUE: R363. -/
  | cmdContinue (vf : Nat)
  /-- S2_INVALIDATE: R359. -/
  | s2Invalidate (vf : Nat)
  /-- HV_ACTION_RETRY: R358. -/
  | hvActionRetry (vf ref : Nat)
  /-- HV_ACTION_CONVERT: R358. -/
  | hvActionConvert (vf ref : Nat)
  /-- HV_ACTION_HCALL: R356. -/
  | hvActionHcall (vf ref : Nat)
  /-- HOST_WINDOW_ACCESS: R339. -/
  | hostWindowAccess (off len : Nat) (wr : Option (List Byte))
  /-- FABRIC_MEMORY_ACCESS: R340. -/
  | fabricMemoryAccess (dom gpa len : Nat) (op : FabricOp)
  /-- FABRIC_LAUNCH_PACKET: R341. -/
  | fabricLaunchPacket (dom : Nat) (desc : W64) (pkg blocks : Nat)
  /-- VF_FLR: R338. -/
  | vfFlr (vf : Nat)
  /-- DEVICE_RESET: R371. -/
  | deviceReset
  /-- FIRMWARE_IMAGE_LOAD: R371. -/
  | firmwareImageLoad (img : List Byte)
  /-- ATTEST_DEVICE_REPORT: R372. -/
  | attestDeviceReport
  /-- ATTEST_VF_REPORT: R372. -/
  | attestVfReport (vf : Nat)
  /-- UNCORRECTABLE_ERROR: R367. -/
  | uncorrectableError (loc : ErrLoc)
  /-- CORRECTED_ERROR: R367. -/
  | correctedError
  /-- PATROL_SCRUB: R367. -/
  | patrolScrub
  /-- FREQUENCY_CHANGE: R31: block b runs at f MHz. -/
  | frequencyChange (b f : Nat)
  /-- SWIENEK_TRANSLATE: R76, R77. -/
  | swienekTranslate (vf : Nat) (img : List Byte)
  /-- REGISTER_WRITE: R11: in the physical function's BAR0, or with bar that VF's. -/
  | registerWrite (bar : Option Nat) (off : Nat) (v : W64) (pl : Nat)
  /-- BLOCK_GATING: R30. -/
  | blockGating (b : Nat)
  /-- FABRIC_COLLECTIVE_TRAFFIC: R340. -/
  | fabricCollectiveTraffic (msg : CollMsg)
  deriving DecidableEq, Repr

end Sys2Proof
end

