-- ==== Sys2Proof/Machine/Float.lean ====
section
/-!
DEFINITION. Number formats and rounding (spec 03, R92 to R105): exact rational values, RoundFmt, and the exact
operations the float instructions round once. Roots are taken exactly (with a sticky bit), and the four
transcendental functions by enclosures that are narrowed until both ends round alike (log entry 13).
-/
namespace Sys2Proof

/-- The parameters of a format (R92): exponent bits, fraction bits, and whether it has infinities (E4M3 has none). -/
structure FSpec where
  eb : Nat
  fb : Nat
  hasInf : Bool
  deriving DecidableEq, Repr

/-- The formats of R92. -/
def FSpec.f64 : FSpec := ⟨11, 52, true⟩
def FSpec.f32 : FSpec := ⟨8, 23, true⟩
def FSpec.f16 : FSpec := ⟨5, 10, true⟩
def FSpec.bf16 : FSpec := ⟨8, 7, true⟩
def FSpec.e4m3 : FSpec := ⟨4, 3, false⟩
def FSpec.e5m2 : FSpec := ⟨5, 2, true⟩
def FSpec.c16 : FSpec := ⟨9, 6, true⟩
def FSpec.c24 : FSpec := ⟨9, 14, true⟩

/-- Bias of the exponent field. -/
def FSpec.bias (f : FSpec) : Nat := 2 ^ (f.eb - 1) - 1
/-- Bits of an encoding. -/
def FSpec.width (f : FSpec) : Nat := 1 + f.eb + f.fb
/-- The magnitude encoding of the largest finite value. -/
def FSpec.maxMag (f : FSpec) : Nat := if f.hasInf then (2 ^ f.eb - 1) * 2 ^ f.fb - 1 else 2 ^ (f.eb + f.fb) - 2
/-- The magnitude encoding of infinity. -/
def FSpec.infMag (f : FSpec) : Nat := (2 ^ f.eb - 1) * 2 ^ f.fb
/-- The canonical NaN (R94). -/
def FSpec.nan (f : FSpec) : Nat :=
  if f.hasInf then f.infMag + 2 ^ (f.fb - 1) else 2 ^ (f.eb + f.fb) - 1
/-- The weight of the sign bit. -/
def FSpec.signBit (f : FSpec) : Nat := 2 ^ (f.eb + f.fb)

/-- An exact value: NaN, an infinity, or a signed rational num / den (zero keeps its sign). -/
inductive FVal where
  | nan
  | inf (neg : Bool)
  | fin (neg : Bool) (num den : Nat)
  deriving DecidableEq, Repr

/-- Zero of a sign. -/
def FVal.zero (neg : Bool) : FVal := .fin neg 0 1
/-- The value of an integer. -/
def FVal.ofInt (i : Int) : FVal := .fin (decide (i < 0)) i.natAbs 1
/-- Whether the value is a zero. -/
def FVal.isZero : FVal → Bool
  | .fin _ n _ => n == 0
  | _ => false
/-- The sign of a value (of a NaN: positive). -/
def FVal.sign : FVal → Bool
  | .nan => false
  | .inf s => s
  | .fin s _ _ => s

/-- The value of an encoding (R92, R93). -/
def decodeF (f : FSpec) (x : Nat) : FVal :=
  let neg := decide (x / f.signBit % 2 = 1)
  let mag := x % f.signBit
  let ex := mag / 2 ^ f.fb
  let fr := mag % 2 ^ f.fb
  if f.hasInf && ex == 2 ^ f.eb - 1 then (if fr = 0 then .inf neg else .nan)
  else if !f.hasInf && mag == f.signBit - 1 then .nan
  else if ex = 0 then .fin neg fr (2 ^ (f.fb + f.bias - 1))
  else if f.bias + f.fb ≤ ex then .fin neg ((2 ^ f.fb + fr) * 2 ^ (ex - f.bias - f.fb)) 1
  else .fin neg (2 ^ f.fb + fr) (2 ^ (f.bias + f.fb - ex))

/-- An operand of a unit: under FTZ a subnormal is read as zero of its sign (R97). -/
def readF (f : FSpec) (ftz : Bool) (x : Nat) : FVal :=
  if ftz && x % f.signBit / 2 ^ f.fb == 0 then .zero (decide (x / f.signBit % 2 = 1)) else decodeF f x

/-- floor(log2 (num / den)) of a positive rational. -/
def floorLog2 (num den : Nat) : Int :=
  let e : Int := (Nat.log2 num : Int) - Nat.log2 den
  let ge := if 0 ≤ e then decide (den * 2 ^ e.toNat ≤ num) else decide (den ≤ num * 2 ^ (-e).toNat)
  if ge then e else e - 1

/-- RoundInt of R96: num / den rounded to an integer. -/
def roundInt (rd : RMode) (neg : Bool) (num den : Nat) : Nat :=
  let q := num / den
  let r := num % den
  match rd with
  | .rz => q
  | .rp => if !neg && decide (0 < r) then q + 1 else q
  | .rm => if neg && decide (0 < r) then q + 1 else q
  | .rn => if decide (den < 2 * r) || (decide (2 * r = den) && decide (q % 2 = 1)) then q + 1 else q
  | .rna => if decide (den ≤ 2 * r) then q + 1 else q

/-- num / den divided by 2^k and rounded. -/
def roundAt (rd : RMode) (neg : Bool) (num den : Nat) (k : Int) : Nat :=
  if 0 ≤ k then roundInt rd neg num (den * 2 ^ k.toNat) else roundInt rd neg (num * 2 ^ (-k).toNat) den

/-- The magnitude of OverflowResult (R96). -/
def overflowMag (f : FSpec) (rd : RMode) (neg : Bool) : Nat :=
  let toInf := match rd with
    | .rn | .rna => true
    | .rz => false
    | .rp => !neg
    | .rm => neg
  if toInf then (if f.hasInf then f.infMag else f.nan) else f.maxMag

/-- RoundFmt (R96): the encoding of an exact value. -/
def roundFmt (f : FSpec) (rd : RMode) (sat ftz : Bool) : FVal → Nat
  | .nan => f.nan
  | .inf neg =>
    let s := if neg then f.signBit else 0
    if f.hasInf then s + f.infMag
    else if sat then s + f.maxMag else f.nan
  | .fin neg num den =>
    let s := if neg then f.signBit else 0
    if num = 0 then s
    else
      let emin : Int := 1 - (f.bias : Int)
      let e0 := floorLog2 num den
      let e := if e0 < emin then emin else e0
      let q := roundAt rd neg num den (e - f.fb)
      let mag := if q < 2 ^ f.fb then q else (e + f.bias).toNat * 2 ^ f.fb + (q - 2 ^ f.fb)
      if f.maxMag < mag then
        if sat then s + f.maxMag
        else
          let m := overflowMag f rd neg
          if !f.hasInf && m == f.nan then f.nan else s + m
      else if ftz && decide (e0 < emin) &&
          (decide (e0 < emin - 1) || decide (roundAt rd neg num den (e0 - f.fb) < 2 ^ (f.fb + 1))) then s
      else s + mag

/-! ### Exact operations -/

/-- The exact sum (the sign of a zero sum is that of R96). -/
def FVal.add (rd : RMode) : FVal → FVal → FVal
  | .nan, _ => .nan
  | _, .nan => .nan
  | .inf a, .inf b => if a = b then .inf a else .nan
  | .inf a, .fin _ _ _ => .inf a
  | .fin _ _ _, .inf b => .inf b
  | .fin s n d, .fin s' n' d' =>
    if n = 0 ∧ n' = 0 then .zero (if s = s' then s else decide (rd = .rm))
    else
      let x : Int := (if s then -(n * d' : Int) else n * d') + (if s' then -(n' * d : Int) else n' * d)
      if x = 0 then .zero (decide (rd = .rm)) else .fin (decide (x < 0)) x.natAbs (d * d')

/-- The negated value; a NaN stays NaN. -/
def FVal.neg : FVal → FVal
  | .nan => .nan
  | .inf s => .inf !s
  | .fin s n d => .fin (!s) n d

/-- The magnitude; a NaN stays NaN. -/
def FVal.abs : FVal → FVal
  | .nan => .nan
  | .inf _ => .inf false
  | .fin _ n d => .fin false n d

/-- The exact product. -/
def FVal.mul : FVal → FVal → FVal
  | .nan, _ => .nan
  | _, .nan => .nan
  | .inf a, .inf b => .inf (a != b)
  | .inf a, .fin s n _ => if n = 0 then .nan else .inf (a != s)
  | .fin s n _, .inf b => if n = 0 then .nan else .inf (s != b)
  | .fin s n d, .fin s' n' d' => .fin (s != s') (n * n') (d * d')

/-- The exact quotient (R117): x ÷ 0 is an infinity for finite non-zero x, NaN for 0 ÷ 0. -/
def FVal.div : FVal → FVal → FVal
  | .nan, _ => .nan
  | _, .nan => .nan
  | .inf _, .inf _ => .nan
  | .inf a, .fin s _ _ => .inf (a != s)
  | .fin s _ _, .inf b => .zero (s != b)
  | .fin s n d, .fin s' n' d' =>
    if n' = 0 then (if n = 0 then .nan else .inf (s != s'))
    else .fin (s != s') (n * d') (d * n')

/-- The exact remainder of R117: y = 0 or x infinite gives NaN, y infinite gives x, the sign is that of x. -/
def FVal.rem : FVal → FVal → FVal
  | .nan, _ => .nan
  | _, .nan => .nan
  | .inf _, _ => .nan
  | .fin s n d, .inf _ => .fin s n d
  | .fin s n d, .fin _ n' d' => if n' = 0 then .nan else .fin s (n * d' % (n' * d)) (d * d')

/-- Order of two exact values: none when a NaN makes them unordered (R118). -/
def FVal.cmp : FVal → FVal → Option Ordering
  | .nan, _ => none
  | _, .nan => none
  | .inf a, .inf b => some (if a = b then .eq else if a then .lt else .gt)
  | .inf a, .fin _ _ _ => some (if a then .lt else .gt)
  | .fin _ _ _, .inf b => some (if b then .gt else .lt)
  | .fin s n d, .fin s' n' d' =>
    let x : Int := (if s then -(n * d' : Int) else n * d')
    let y : Int := (if s' then -(n' * d : Int) else n' * d)
    some (if x < y then .lt else if x = y then .eq else .gt)

/-- The conditions of R118. -/
def condHolds (c : Cond) : Option Ordering → Bool
  | none => match c with
    | .ne | .uo => true
    | .eq | .lt | .le | .gt | .ge | .or => false
  | some o => match c with
    | .eq => o == .eq
    | .ne => o != .eq
    | .lt => o == .lt
    | .le => o != .gt
    | .gt => o == .gt
    | .ge => o != .lt
    | .uo => false
    | .or => true

/-- The lesser of two values by R118: −0 below +0, a NaN loses to a number. -/
def FVal.min (a b : FVal) : FVal :=
  match a.cmp b with
  | some .lt => a
  | some .gt => b
  | some .eq => if a.sign then a else b
  | none => if a = .nan then b else a

/-- The greater of two values by R118. -/
def FVal.max (a b : FVal) : FVal :=
  match a.cmp b with
  | some .gt => a
  | some .lt => b
  | some .eq => if a.sign then b else a
  | none => if a = .nan then b else a

/-- A finite value rounded to an integer. -/
def toInteger (rd : RMode) (neg : Bool) (num den : Nat) : Int :=
  let q : Int := roundInt rd neg num den
  if neg then -q else q

/-- A value rounded to an integral value, keeping its sign. -/
def FVal.integral (rd : RMode) : FVal → FVal
  | .nan => .nan
  | .inf s => .inf s
  | .fin s n d => .fin s (roundInt rd s n d) 1

/-! ### Roots -/

/-- Newton's iteration for the integer square root, on fuel. -/
def isqrtGo (n : Nat) : Nat → Nat → Nat
  | 0, x => x
  | k + 1, x =>
    let y := (x + n / x) / 2
    if y < x then isqrtGo n k y else x

/-- floor(√n). -/
def isqrt (n : Nat) : Nat := if n = 0 then 0 else isqrtGo n (Nat.log2 n + 8) (2 ^ (Nat.log2 n / 2 + 1))

/-- √(num / den): exact where the root is, else a value between the same two neighbours on a grid 2^1200 times
finer than 1 / den, which rounds as the root does in every format of R92. -/
def rootOf (num den : Nat) : FVal :=
  let n := num * den * 2 ^ 2400
  let r := isqrt n
  .fin false (2 * r + (if r * r = n then 0 else 1)) (2 * den * 2 ^ 1200)

/-- √A (R123). -/
def FVal.sqrt : FVal → FVal
  | .nan => .nan
  | .inf s => if s then .nan else .inf false
  | .fin s n d => if n = 0 then .zero s else if s then .nan else rootOf n d

/-- 1 / √A (R123). -/
def FVal.rsqrt : FVal → FVal
  | .nan => .nan
  | .inf s => if s then .nan else .zero false
  | .fin s n d => if n = 0 then .inf s else if s then .nan else rootOf d n

/-! ### Transcendental functions: fixed point with P fraction bits -/

/-- Σ over k of (1 / q^(2k+1)) / (2k+1), alternating when `alt`: atan (1/q) or atanh (1/q) with P bits. -/
def atanInv (alt : Bool) (q : Nat) : Nat → Nat → Int → Int
  | 0, _, _ => 0
  | fuel + 1, k, pw =>
    if pw = 0 then 0
    else
      let t := pw / (2 * k + 1 : Int)
      (if alt && decide (k % 2 = 1) then -t else t) + atanInv alt q fuel (k + 1) (pw / (q * q : Int))

/-- π with P bits (Machin). -/
def piFix (P : Nat) : Int :=
  16 * atanInv true 5 P 0 (2 ^ P / 5) - 4 * atanInv true 239 P 0 (2 ^ P / 239)

/-- ln 2 with P bits: 2 atanh (1/3). -/
def ln2Fix (P : Nat) : Int := 2 * atanInv false 3 P 0 (2 ^ P / 3)

/-- Σ of t^(2k+1) / (2k+1) for a fixed-point t. -/
def atanhFix (P : Nat) (t2 : Int) : Nat → Nat → Int → Int
  | 0, _, _ => 0
  | fuel + 1, k, pw => if pw = 0 then 0 else pw / (2 * k + 1 : Int) + atanhFix P t2 fuel (k + 1) (pw * t2 / 2 ^ P)

/-- Σ of y^k / k!. -/
def expFix (P : Nat) (y : Int) : Nat → Nat → Int → Int
  | 0, _, _ => 0
  | fuel + 1, k, term => if term = 0 then 0 else term + expFix P y fuel (k + 1) (term * y / 2 ^ P / (k : Int))

/-- The alternating series of sine (from term r) and cosine (from term 1), with step k. -/
def trigFix (P : Nat) (r2 : Int) : Nat → Nat → Int → Int
  | 0, _, _ => 0
  | fuel + 1, k, term =>
    if term = 0 then 0
    else term - trigFix P r2 fuel (k + 2) (term * r2 / 2 ^ P / (k * (k + 1) : Int))

/-- The enclosure of a fixed-point result: 2^16 units of the last place on either side. -/
def enclose (P : Nat) (x : Int) : (Int × Nat) × (Int × Nat) := ((x - 2 ^ 16, 2 ^ P), (x + 2 ^ 16, 2 ^ P))

/-- The value of a signed rational. -/
def FVal.ofRat (n : Int) (d : Nat) : FVal := .fin (decide (n < 0)) n.natAbs d

/-- 2^(n/d) · 2^i for 0 < n/d < 1. -/
def exp2Enc (P : Nat) (i : Int) (n d : Nat) : (Int × Nat) × (Int × Nat) :=
  let y := (n : Int) * ln2Fix P / d
  let e := enclose P (expFix P y P 1 (2 ^ P))
  let sc := fun (x : Int × Nat) => if 0 ≤ i then (x.1 * 2 ^ i.toNat, x.2) else (x.1, x.2 * 2 ^ (-i).toNat)
  (sc e.1, sc e.2)

/-- log2 (m) + e for 1 < m = n/d < 2. -/
def log2Enc (P : Nat) (e : Int) (n d : Nat) : (Int × Nat) × (Int × Nat) :=
  let t : Int := ((n : Int) - d) * 2 ^ P / (n + d : Int)
  let ln := 2 * atanhFix P (t * t / 2 ^ P) P 0 t
  enclose P (e * 2 ^ P + ln * 2 ^ P / ln2Fix P)

/-- sin or cos of a rational of magnitude at least 2^−30. -/
def trigEnc (isCos : Bool) (P : Nat) (num : Int) (den : Nat) : (Int × Nat) × (Int × Nat) :=
  let PP := P + 1200
  let half := piFix PP / 2
  let x := num * 2 ^ PP / den
  let k := (2 * x + half) / (2 * half)
  let r := x - k * half
  let r2 := r * r / 2 ^ PP
  let s := trigFix PP r2 PP 2 r
  let c := trigFix PP r2 PP 1 (2 ^ PP)
  let q := (k + (if isCos then 1 else 0)) % 4
  let v := if q = 0 then s else if q = 1 then c else if q = 2 then -s else -c
  enclose P (v / 2 ^ 1200)

/-- The rounding of a value known by its enclosures at rising precisions: the first at which both ends round
alike (log entry 13 says what happens if none does). -/
def roundEnc (f : FSpec) (rd : RMode) (sat ftz : Bool) (enc : Nat → (Int × Nat) × (Int × Nat)) : List Nat → Nat
  | [] => f.nan
  | P :: Ps =>
    let e := enc P
    let lo := roundFmt f rd sat ftz (.ofRat e.1.1 e.1.2)
    let hi := roundFmt f rd sat ftz (.ofRat e.2.1 e.2.2)
    if lo = hi ∨ Ps = [] then lo else roundEnc f rd sat ftz enc Ps

/-- The precisions tried. -/
def encPrecisions : List Nat := [256, 1280, 4300]

/-- 2^A, correctly rounded (R123). -/
def exp2F (f : FSpec) (rd : RMode) (sat ftz : Bool) : FVal → Nat
  | .nan => f.nan
  | .inf s => roundFmt f rd sat ftz (if s then .zero false else .inf false)
  | .fin s n d =>
    let q : Int := if s then -((n : Int)) else n
    let i := q / (d : Int)
    let r := (q % (d : Int)).toNat
    if 4000 ≤ i then roundFmt f rd sat ftz (.fin false (2 ^ 4000) 1)
    else if i < -4000 then roundFmt f rd sat ftz (.fin false 1 (2 ^ 4000))
    else if r = 0 then roundFmt f rd sat ftz (if 0 ≤ i then .fin false (2 ^ i.toNat) 1 else .fin false 1 (2 ^ (-i).toNat))
    else roundEnc f rd sat ftz (fun P => exp2Enc P i r d) encPrecisions

/-- log2 A, correctly rounded (R123). -/
def log2F (f : FSpec) (rd : RMode) (sat ftz : Bool) : FVal → Nat
  | .nan => f.nan
  | .inf s => if s then f.nan else roundFmt f rd sat ftz (.inf false)
  | .fin s n d =>
    if n = 0 then roundFmt f rd sat ftz (.inf true)
    else if s then f.nan
    else
      let e := floorLog2 n d
      let m := if 0 ≤ e then (n, d * 2 ^ e.toNat) else (n * 2 ^ (-e).toNat, d)
      if m.1 = m.2 then roundFmt f rd sat ftz (.ofRat e 1)
      else roundEnc f rd sat ftz (fun P => log2Enc P e m.1 m.2) encPrecisions

/-- sin A or cos A, correctly rounded (R123). A small argument is enclosed by the first terms of its series. -/
def trigF (isCos : Bool) (f : FSpec) (rd : RMode) (sat ftz : Bool) : FVal → Nat
  | .nan => f.nan
  | .inf _ => f.nan
  | .fin s n d =>
    if n = 0 then roundFmt f rd sat ftz (if isCos then .fin false 1 1 else .zero s)
    else
      let q : Int := if s then -((n : Int)) else n
      if n * 2 ^ 30 < d then
        if isCos then
          roundEnc f rd sat ftz (fun _ => ((6 * d * d - 3 * n * n, 6 * d * d), (6 * d * d - 2 * n * n, 6 * d * d))) [1]
        else
          roundEnc f rd sat ftz
            (fun _ => ((24 * d * d * q - 4 * n * n * q, 24 * d * d * d), (24 * d * d * q - 3 * n * n * q, 24 * d * d * d))) [1]
      else roundEnc f rd sat ftz (fun P => trigEnc isCos P q d) encPrecisions

/-! ### GX blocks (R100 to R102) -/

/-- The magnitude width of a GX format (R100). -/
def GxFmt.k : GxFmt → Nat
  | .gx4 => 2 | .gx6 => 4 | .gx9 => 7

/-- The bytes of a GX block (R100). -/
def GxFmt.bytes : GxFmt → Nat
  | .gx4 => 8 | .gx6 => 12 | .gx9 => 18

/-- floor(log2 |x|) of a finite non-zero value. -/
def FVal.log2? : FVal → Option Int
  | .fin _ n d => if n = 0 then none else some (floorLog2 n d)
  | _ => none

/-- The largest of a list of exponents. -/
def maxInt? : List Int → Option Int
  | [] => none
  | x :: xs => some (xs.foldl (fun a b => if a < b then b else a) x)

/-- An integer clamped to a range. -/
def clampNat (x : Int) (hi : Nat) : Nat := if x < 0 then 0 else if (hi : Int) < x then hi else x.toNat

/-- The fields of one element: magnitude and sign (R102). -/
def gxElem (k E mu : Nat) : FVal → Nat
  | .fin s n d =>
    let sh : Int := (k : Int) - 1 - ((E : Int) - 127 - mu)
    let q := if 0 ≤ sh then roundInt .rn false (n * 2 ^ sh.toNat) d else roundInt .rn false n (d * 2 ^ (-sh).toNat)
    (if 2 ^ k - 1 < q then 2 ^ k - 1 else q) + (if s then 2 ^ k else 0)
  | _ => 0

/-- QuantizeGX (R102): sixteen values to the bits of a block. -/
def quantizeGX (g : GxFmt) (xs : List FVal) : Nat :=
  let k := g.k
  if xs.any (fun x => match x with | .nan | .inf _ => true | .fin _ _ _ => false) then 0xFF
  else
    let E := match maxInt? (xs.filterMap FVal.log2?) with
      | none => 0
      | some m => clampNat (127 + m) 254
    let mu := fun q => match maxInt? (((xs.drop (4 * q)).take 4).filterMap FVal.log2?) with
      | none => 3
      | some m => clampNat ((E : Int) - 127 - m) 3
    let mus := (List.range 4).foldl (fun acc q => acc + mu q * 4 ^ q) 0
    (List.range 16).foldl
      (fun acc i => acc + gxElem k E (mu (i / 4)) (xs.getD i (.zero false)) * 2 ^ (16 + i * (1 + k)))
      (E + mus * 256)

/-- Element i of a block (R101). -/
def gxValue (g : GxFmt) (block i : Nat) : FVal :=
  let k := g.k
  let E := block % 256
  if E = 0xFF then .nan
  else
    let mu := block / 2 ^ (8 + 2 * (i / 4)) % 4
    let f := block / 2 ^ (16 + i * (1 + k)) % 2 ^ (k + 1)
    let m := f % 2 ^ k
    let s := decide (2 ^ k ≤ f)
    let e : Int := (E : Int) - 127 - mu - (k - 1 : Nat)
    if 0 ≤ e then .fin s (m * 2 ^ e.toNat) 1 else .fin s m (2 ^ (-e).toNat)

/-! ### Formats of the instruction fields -/

/-- The parameters of a float format. -/
def FFmt.spec : FFmt → FSpec
  | .f64 => .f64 | .f32 => .f32 | .f16 => .f16 | .bf16 => .bf16

/-- The tag of a float format (R80). -/
def FFmt.tag : FFmt → Tag
  | .f64 => .f64 | .f32 => .f32 | .f16 => .f16 | .bf16 => .bf16

/-- The float format a tag names. -/
def Tag.ffmt : Tag → Option FFmt
  | .f64 => some .f64 | .f32 => some .f32 | .f16 => some .f16 | .bf16 => some .bf16
  | .nil | .bool | .int | .bits | .ref | .tile | .sym | .hdr | .hdrc | .fwd | .poison => none

/-- The parameters of a source format of FCVT. -/
def SrcFmt.spec : SrcFmt → FSpec
  | .f64 => .f64 | .f32 => .f32 | .f16 => .f16 | .bf16 => .bf16 | .e4m3 => .e4m3 | .e5m2 => .e5m2

/-- The parameters and element width of a packing. -/
def PcFmt.spec : PcFmt → FSpec
  | .f32x2 => .f32 | .f16x4 => .f16 | .bf16x4 => .bf16 | .e4m3x8 => .e4m3 | .e5m2x8 => .e5m2

/-- The packing of PADD and its kin. -/
def PkFmt.spec : PkFmt → FSpec
  | .f32x2 => .f32 | .f16x4 => .f16 | .bf16x4 => .bf16

end Sys2Proof
end

