-- ==== Sys2Proof/Machine/Flags.lean ====
section
/-!
DEFINITION. The GX-960 has no arithmetic flags (R95): what other machines keep in flags is decided here once.
Range, wrap and saturation of integer results (R105, R122), carries (R122) and the integer conditions (R50).
-/
namespace Sys2Proof.Machine

/-- The least and greatest INT. -/
def intMin : Int := -(2 ^ 63)
def intMax : Int := 2 ^ 63 - 1

/-- Whether an exact integer is an INT (R105). -/
def inInt (x : Int) : Bool := decide (intMin ≤ x) && decide (x ≤ intMax)

/-- An exact integer taken to the nearest INT. -/
def satInt (x : Int) : Int := if x < intMin then intMin else if intMax < x then intMax else x

/-- The integer result of a generic instruction (R105): none is OVERFLOW; SAT prevails over NOTRAP. -/
def genInt (sat notrap : Bool) (x : Int) : Option W64 :=
  if inInt x then some (BitVec.ofInt 64 x)
  else if sat then some (BitVec.ofInt 64 (satInt x))
  else if notrap then some (BitVec.ofInt 64 x)
  else none

/-- The result of a typed instruction that SAT saturates (R122): it wraps otherwise. -/
def wrapSat (sat : Bool) (x : Int) : W64 := BitVec.ofInt 64 (if sat then satInt x else x)

/-- A payload as a signed or unsigned integer. -/
def asInt (sg : Sgn) (x : W64) : Int := match sg with | .s => x.toInt | .u => x.toNat

/-- The carry out of A + B + carry in (R122). -/
def carryOut (a b : W64) (cin : Bool) : Bool := decide (2 ^ 64 ≤ a.toNat + b.toNat + (if cin then 1 else 0))

/-- The order of two integers. -/
def intOrder (x y : Int) : Ordering := if x < y then .lt else if x = y then .eq else .gt

/-- The condition of an integer compare (R122, R131); uo and or, which no integer compare names, are those of
an ordered pair. -/
def intCond (sg : Sgn) (c : Cond) (a b : W64) : Bool := condHolds c (some (intOrder (asInt sg a) (asInt sg b)))

end Sys2Proof.Machine
end

