-- ==== Sys2Proof/WellFormed.lean ====
section
/-!
DEFINITION. The field rules of spec 02 (R37, R45 to R58) that a decoded instruction satisfies: register
numbers within their file, register groups, immediate ranges. A term that breaks one has no encoding that
decodes (R60: such a word raises ILLEGAL). The register groups of MMA16, MMA32 and XPAND are those of a
32-lane warp (log entry 12).
-/
namespace Sys2Proof

/-- PG = 7 with PN = 1 is not a guard (R37). -/
def Guard.wf (g : Guard) : Bool := !(g.p == 7 && g.neg)

/-- s0 to s63 (R45). -/
def sReg (r : Reg) : Bool := decide (r.toNat < 64)
/-- b0 to b63 (R45). -/
def bReg (r : Reg) : Bool := decide (r.toNat < 64)
/-- p0 to p7 as a source (R45). -/
def pSrc (r : Reg) : Bool := decide (r.toNat < 8)
/-- p0 to p6 as a destination (R45). -/
def pDst (r : Reg) : Bool := decide (r.toNat < 7)
/-- tl0 to tl15 (R45). -/
def tlReg (r : Reg) : Bool := decide (r.toNat < 16)
/-- An even scalar pair, s2 (R46). -/
def sPair (r : Reg) : Bool := decide (r.toNat < 64) && decide (r.toNat % 2 = 0)
/-- A group of sixteen lane registers, vg16 (R46). -/
def vGroup16 (r : Reg) : Bool := decide (r.toNat % 16 = 0)
/-- A run of k lane registers, vgk (R46). -/
def vRun (r : Reg) (k : Nat) : Bool := decide (r.toNat + k ≤ 256)
/-- Position and length of a bit field (R52): 1 ≤ length, position + length ≤ 64. -/
def fieldOk (pos len : Byte) : Bool := decide (1 ≤ len.toNat) && decide (pos.toNat + len.toNat ≤ 64)
/-- The register list of INTERVAL (R58): not empty, no bit beyond v255. -/
def intervalOk (d : Reg) (m : W32) : Bool :=
  decide (m ≠ 0) && decide (d.toNat ≤ 224 ∨ m.toNat < 2 ^ (256 - d.toNat))
/-- The numbers of the special registers (R349); a number not among them is refused with KIND 0, as a field that breaks
a rule is (DEDUCED, log entry 16). -/
def sprKnown (n : BitVec 12) : Bool :=
  decide (n.toNat ≤ 9 ∨ n.toNat = 0x10 ∨ n.toNat = 0x11 ∨ n.toNat = 0x20 ∨ n.toNat = 0x21 ∨ (0x30 ≤ n.toNat ∧ n.toNat ≤ 0x32) ∨
    (0x40 ≤ n.toNat ∧ n.toNat ≤ 0x42))
/-- A scalar base names s0 to s63 (R47). -/
def MBase.wf (b : MBase) : Bool := !b.scalar || sReg b.reg

/-- The registers of a GX block (R53). -/
def GxFmt.regs : GxFmt → Nat
  | .gx4 => 1 | .gx6 => 2 | .gx9 => 3

/-- The condition codes that integer compares accept (R50): 0 to 5. -/
def Cond.ordinal : Cond → Bool
  | .uo | .or => false
  | .eq | .ne | .lt | .le | .gt | .ge => true

/-- The targets of CVT (R120). -/
def cvtTarget : Tag → Bool
  | .bool | .int | .f64 | .f32 | .f16 | .bf16 | .bits => true
  | .nil | .ref | .tile | .sym | .hdr | .hdrc | .fwd | .poison => false

/-- The field rules of every instruction; an event has none. DESIGN CHOICE (log entry 110): the register groups of the retired MMA16,
MMA32 and XPAND may begin at any register that leaves room for them. -/
def Instr.wf : Instr → Bool
  | .nop => true
  | .mov _ _ => true
  | .add _ _ _ => true
  | .sub _ _ _ => true
  | .mul _ _ _ => true
  | .min _ _ _ => true
  | .max _ _ _ => true
  | .neg _ _ => true
  | .iadd _ _ _ => true
  | .isub _ _ _ => true
  | .and _ _ _ => true
  | .or _ _ _ => true
  | .xor _ _ _ => true
  | .shl _ _ _ => true
  | .shr _ _ _ => true
  | .sar _ _ _ => true
  | .movi _ _ => true
  | .addi _ _ _ => true
  | .tagof _ _ => true
  | .laneid _ => true
  | .join => true
  | .yield => true
  | .exit => true
  | .bar n => decide (n.toNat ≤ 15)
  | .serb => true
  | .sere => true
  | .ret a => sReg a
  | .retl _ => true
  | .txend => true
  | .shflx _ _ m => decide (m.toNat ≤ 127)
  | .not _ _ => true
  | .abs _ _ => true
  | .iadd32 _ _ _ => true
  | .isub32 _ _ _ => true
  | .imul32 _ _ _ => true
  | .movt _ _ => true
  | .syncw => true
  | .ballot32 _ _ => true
  | .shfl32 _ _ _ => true
  | .tageq _ _ _ => true
  | .movk g _ _ _ => g.wf
  | .movh g _ _ _ => g.wf
  | .retag g _ _ _ => g.wf
  | .chktag g _ _ _ => g.wf
  | .testtag g d _ _ _ => g.wf && pDst d
  | .sel g _ _ _ c => g.wf && pSrc c
  | .fma g _ _ _ _ => g.wf
  | .div g _ _ _ => g.wf
  | .rem g _ _ _ => g.wf
  | .cmp g _ d _ _ => g.wf && pDst d
  | .eqv g d _ _ => g.wf && pDst d
  | .cvt g _ _ t => g.wf && cvtTarget t
  | .hashv g _ _ => g.wf
  | .imul g _ _ _ => g.wf
  | .imulh g _ _ _ _ => g.wf
  | .imad g _ _ _ _ => g.wf
  | .idiv g _ _ _ _ => g.wf
  | .irem g _ _ _ _ => g.wf
  | .imin g _ _ _ _ => g.wf
  | .imax g _ _ _ _ => g.wf
  | .icmp g _ cc d _ _ => g.wf && pDst d && cc.ordinal
  | .iaddi g _ _ _ => g.wf
  | .andi g _ _ _ => g.wf
  | .ori g _ _ _ => g.wf
  | .xori g _ _ _ => g.wf
  | .shi g _ _ _ n => g.wf && decide (n.toNat ≤ 63)
  | .rot g _ _ _ _ => g.wf
  | .popc g _ _ => g.wf
  | .clz g _ _ => g.wf
  | .bfx g _ _ _ pos len => g.wf && fieldOk pos len
  | .bfi g _ _ pos len => g.wf && fieldOk pos len
  | .lea g _ _ _ _ => g.wf
  | .iaddc g _ _ _ c => g.wf && pDst c
  | .brev g _ _ => g.wf
  | .isat g _ _ _ _ => g.wf
  | .fadd g _ _ _ _ => g.wf
  | .fsub g _ _ _ _ => g.wf
  | .fmul g _ _ _ _ => g.wf
  | .ffma g _ _ _ _ _ => g.wf
  | .fdiv g _ _ _ _ => g.wf
  | .fsqrt g _ _ _ => g.wf
  | .frcp g _ _ _ => g.wf
  | .frsq g _ _ _ => g.wf
  | .fmin g _ _ _ _ => g.wf
  | .fmax g _ _ _ _ => g.wf
  | .fcmp g _ _ d _ _ => g.wf && pDst d
  | .fclass g _ _ _ => g.wf
  | .fexp2 g _ _ _ => g.wf
  | .flog2 g _ _ _ => g.wf
  | .fsin g _ _ _ => g.wf
  | .fcos g _ _ _ => g.wf
  | .fcvt g _ _ _ _ => g.wf
  | .i2f g _ _ _ _ => g.wf
  | .f2i g _ _ _ _ => g.wf
  | .frnd g _ _ _ _ => g.wf
  | .padd g _ _ _ _ => g.wf
  | .pmul g _ _ _ _ => g.wf
  | .pfma g _ _ _ _ _ => g.wf
  | .pdot g _ _ _ _ _ => g.wf
  | .pmax g _ _ _ _ => g.wf
  | .pcvt g src dst _ _ => g.wf && decide (src ≠ dst)
  | .qpack g k d _ => g.wf && vRun d k.regs
  | .qunpk g k _ a => g.wf && vRun a k.regs
  | .shfl g _ imm _ _ b => g.wf && (!imm || decide (b.toNat ≤ 127))
  | .vote g k d a => g.wf && (if k = .ballot then sPair d else pDst d) && pSrc a
  | .rdx g _ _ _ => g.wf
  | .scan g _ _ _ _ => g.wf
  | .segrdx g _ _ _ c => g.wf && pSrc c
  | .matchv g _ _ => g.wf
  | .bcast g _ _ lane => g.wf && decide (lane.toNat ≤ 127)
  | .smov g d a => g.wf && sReg d && sReg a
  | .smovFromLane g d _ lane => g.wf && sReg d && decide (lane.toNat ≤ 127)
  | .smovToLanes g _ a => g.wf && sReg a
  | .salu g _ d a b => g.wf && sReg d && sReg a && sReg b
  | .scmp g _ cc d a b => g.wf && pDst d && sReg a && sReg b && cc.ordinal
  | .brd g toV d a => g.wf && (toV || sReg d) && bReg a
  | .bwr g d a => g.wf && bReg d && sReg a
  | .lanesel g d a => g.wf && pDst d && sPair a
  | .ld g _ _ base _ => g.wf && base.wf
  | .st g _ _ base _ => g.wf && base.wf
  | .ldinv g _ _ base _ => g.wf && base.wf
  | .lds g _ _ base _ => g.wf && base.wf
  | .sts g _ _ base _ => g.wf && base.wf
  | .ldref g _ base _ => g.wf && base.wf
  | .ldf g _ _ _ => g.wf
  | .stf g _ _ _ => g.wf
  | .hdrld g _ _ => g.wf
  | .nalloc g _ _ _ => g.wf
  | .nset g a b => g.wf && sReg a && sReg b
  | .atom g _ _ _ _ _ => g.wf
  | .cas g _ _ _ _ _ => g.wf
  | .fence g pred succ scope => g.wf && decide (pred ≠ 0) && decide (succ ≠ 0) && decide (scope.toNat ≤ 6)
  | .waitc g _ _ _ _ => g.wf
  | .waitp g a path => g.wf && sReg a && decide (path.toNat ≤ 5)
  | .pref g _ base _ => g.wf && base.wf
  | .cctl g _ base _ => g.wf && base.wf
  | .txbegin g _ _ => g.wf
  | .txabort g _ => g.wf
  | .txstat g _ => g.wf
  | .ldx g _ _ _ _ _ => g.wf
  | .acpy g _ d a b c => g.wf && tlReg d && sReg a && sReg b && sReg c
  | .amcast g d a b c => g.wf && tlReg d && sReg a && sReg b && sReg c
  | .agath g _ d a b c => g.wf && tlReg d && sReg a && sReg b && sPair c
  | .ascat g _ d a b c => g.wf && tlReg d && sReg a && sReg b && sPair c
  | .hcpy g _ d a b c => g.wf && tlReg d && sReg a && sReg b && sReg c
  | .acoll g _ _ _ d a b c => g.wf && tlReg d && sReg a && sReg b && sReg c
  | .tlbind g d a => g.wf && tlReg d && sReg a
  | .tlwait g d a => g.wf && tlReg d && sReg a
  | .tlread g d a => g.wf && sReg d && tlReg a
  | .tlsig g d a => g.wf && tlReg d && sReg a
  | .acancel g d a => g.wf && tlReg d && sReg a
  | .sxpd g _ d a b c => g.wf && tlReg d && sReg a && sPair b && sReg c
  | .spack g _ d a b c => g.wf && tlReg d && sPair a && sReg b && sReg c
  | .tdesc g _ _ d a b => g.wf && sPair d && sReg a && sReg b
  | .talloc g d => g.wf && sReg d
  | .tfree g a => g.wf && sReg a
  | .mmaz g ad bd d a b => g.wf && sReg d && (if ad then sPair a else vGroup16 a) && (if bd then sPair b else vGroup16 b)
  | .mma g ad bd d a b => g.wf && sReg d && (if ad then sPair a else vGroup16 a) && (if bd then sPair b else vGroup16 b)
  | .mmag g ad bd d a b => g.wf && sReg d && (if ad then sPair a else vGroup16 a) && (if bd then sPair b else vGroup16 b)
  | .gangset g a => g.wf && sReg a
  | .drain g _ mem d a => g.wf && sReg d && (if mem then sReg a else sPair a)
  | .drainT g _ mem d a b => g.wf && sReg d && (if mem then sReg a && sReg b else sPair a && sPair b)
  | .drainAdd g f mem d a => g.wf && sReg d && (if mem then sReg a else sPair a) && decide (f = .f32 ∨ f = .bf16)
  | .accld g d a => g.wf && sReg d && sPair a
  | .accrd g d a blk => g.wf && vGroup16 d && sReg a && decide (blk.toNat ≤ 3)
  | .bra g _ => g.wf
  | .brx g _ => g.wf
  | .call g d _ => g.wf && sReg d
  | .callx g d _ => g.wf && sReg d
  | .interval g d m => g.wf && intervalOk d m
  | .splitw g w d => g.wf && sReg d && decide (w ≠ .w128)
  | .fusew g w d => g.wf && sReg d && decide (w ≠ .w16)
  | .width g d => g.wf && sReg d
  | .legacyEnter g => g.wf
  | .legacyLeave g => g.wf
  | .barc g n a => g.wf && decide (n.toNat ≤ 15) && sReg a
  | .spawn g _ _ a _ => g.wf && sReg a
  | .launchp g d a b c => g.wf && sReg d && sReg a && sReg b && sReg c
  | .shape g a b => g.wf && sReg a && sReg b
  | .specq g d => g.wf && sReg d
  | .trap g _ => g.wf
  | .bru g _ => g.wf
  | .sysrd g d n => g.wf && sReg d && sprKnown n
  | .syswr g a n => g.wf && sReg a && sprKnown n
  | .time g d => g.wf && sReg d
  | .clock g d => g.wf && sReg d
  | .icinv g a => g.wf && sReg a
  | .icinvAll g => g.wf
  | .vqpush g a b => g.wf && sReg a && sReg b
  | .rett g => g.wf
  | .hcall g _ => g.wf
  | .perf g d n => g.wf && sReg d && decide (n.toNat ≤ 7)
  | .fmad g _ _ _ _ => g.wf
  | .mma16 g d a b => g.wf && vRun d 8 && vRun a 2 && vRun b 2
  | .mma32 g d a b => g.wf && vRun d 32 && vRun a 8 && vRun b 8
  | .xpand g d a => g.wf && vRun d 4 && vRun a 2
  | .allocw g _ _ _ => g.wf
  | .ldbar g _ base _ => g.wf && base.wf
  | .gcmark g _ => g.wf
  | .fenceg g => g.wf
  | .fences g => g.wf
  | .spawn1 g _ a _ => g.wf && sReg a
  | .waitall g => g.wf
  | .cvtq8 g _ _ => g.wf
  | .sqrt64 g _ _ => g.wf
  | .ldg32 g _ base _ => g.wf && base.wf
  | .stg32 g _ base _ => g.wf && base.wf
  | .bcastw g _ _ => g.wf
  | .fusewTimeout _ => true
  | .splitTurnExpiry _ => true
  | .warpDue _ => true
  | .taskPlace _ => true
  | .taskEnd _ => true
  | .loadComplete _ _ => true
  | .storePerformed _ => true
  | .atomicComplete _ => true
  | .engineCommandStart _ _ => true
  | .engineCommandComplete _ _ _ => true
  | .engineCommandFail _ _ _ _ => true
  | .tileOpAccept _ => true
  | .tileOpComplete _ => true
  | .trowelUpdate _ => true
  | .launchResolutionComplete _ => true
  | .launchComplete _ => true
  | .doorbell _ _ => true
  | .s1inv _ => true
  | .queueEntryAccept _ _ => true
  | .queueMap _ _ => true
  | .packetSend _ => true
  | .packetAdmit _ => true
  | .rateRecovery => true
  | .hbmRequestServe _ => true
  | .allotWrite _ _ => true
  | .castlingGo _ => true
  | .castlingSweepComplete _ => true
  | .castlingCgraceExpiry _ => true
  | .castlingScrub _ => true
  | .castlingCommit _ => true
  | .vfEnable _ => true
  | .saveAreaProbe _ => true
  | .cmdStopSave _ => true
  | .cmdRestore _ => true
  | .cmdKill _ => true
  | .cmdContinue _ => true
  | .sliceExpiry _ => true
  | .graceExpiry _ => true
  | .killExpiry _ => true
  | .saveComplete _ => true
  | .restoreComplete _ => true
  | .s2Invalidate _ => true
  | .s2InvalidateComplete _ => true
  | .hvActionRetry _ _ => true
  | .hvActionConvert _ _ => true
  | .hvActionHcall _ _ => true
  | .eventRingPost => true
  | .hostWindowAccess _ _ _ => true
  | .fabricMemoryAccess _ _ _ _ => true
  | .fabricLaunchPacket _ _ _ _ => true
  | .vfFlr _ => true
  | .deviceReset => true
  | .firmwareImageLoad _ => true
  | .attestDeviceReport => true
  | .attestVfReport _ => true
  | .uncorrectableError _ => true
  | .correctedError => true
  | .patrolScrub => true
  | .blockWake _ => true
  | .frequencyChange _ _ => true
  | .swienekTranslate _ _ => true
  | .registerWrite _ _ _ _ => true
  | .encodingNotInstruction => true
  | .unitFetchFault _ _ => true
  | .cleanLineRefetch _ _ => true
  | .blockGating _ => true
  | .workingSetStaged _ => true
  | .fabricCollectiveTraffic _ => true

end Sys2Proof
end

