-- ==== Sys2Proof/Decode.lean ====
section
/-!
DEFINITION. Decoding (spec 02, R32 to R64) and encoding. A unit is decoded word by word (`UnitDec.feed`), in
the order of R64, so that a fetch reads no word that the rules leave unfetched; `decodeBytes` runs the same
decoder over a list of bytes and is total. An encoding that is no instruction is rejected by name (`DecErr`).
The encoder is written from the same tables.
-/
namespace Sys2Proof

/-- The tag codes (R80). -/
def Tag.code : Tag → Byte
  | .nil => 0x00 | .bool => 0x01 | .int => 0x10 | .f64 => 0x20 | .f32 => 0x21 | .f16 => 0x22 | .bf16 => 0x23
  | .bits => 0x30 | .ref => 0x40 | .tile => 0x50 | .sym => 0x60 | .hdr => 0x70 | .hdrc => 0x71 | .fwd => 0x78
  | .poison => 0xF0
/-- The tag a code names; a reserved code names none (R81). -/
def Tag.ofCode (c : Byte) : Option Tag :=
  match c.toNat with
  | 0x00 => some .nil | 0x01 => some .bool | 0x10 => some .int | 0x20 => some .f64 | 0x21 => some .f32
  | 0x22 => some .f16 | 0x23 => some .bf16 | 0x30 => some .bits | 0x40 => some .ref | 0x50 => some .tile
  | 0x60 => some .sym | 0x70 => some .hdr | 0x71 => some .hdrc | 0x78 => some .fwd | 0xF0 => some .poison
  | _ => none

/-- R51. -/
def MovkK.code : MovkK → BitVec 2
  | .int => 0 | .f32 => 1 | .bits => 2 | .sym => 3
/-- R51. -/
def MovkK.ofCode (x : BitVec 2) : Option MovkK :=
  match x.toNat with
  | 0 => some .int | 1 => some .f32 | 2 => some .bits | 3 => some .sym | _ => none

/-- R51. -/
def MovhK.code : MovhK → BitVec 2
  | .keep => 0 | .int => 1 | .f64 => 2 | .bits => 3
/-- R51. -/
def MovhK.ofCode (x : BitVec 2) : Option MovhK :=
  match x.toNat with
  | 0 => some .keep | 1 => some .int | 2 => some .f64 | 3 => some .bits | _ => none

/-- R50. -/
def Sgn.code : Sgn → BitVec 2
  | .s => 0 | .u => 1
/-- R50. -/
def Sgn.ofCode (x : BitVec 2) : Option Sgn :=
  match x.toNat with
  | 0 => some .s | 1 => some .u | _ => none

/-- R52. -/
def ShiftK.code : ShiftK → BitVec 2
  | .l => 0 | .r => 1 | .a => 2
/-- R52. -/
def ShiftK.ofCode (x : BitVec 2) : Option ShiftK :=
  match x.toNat with
  | 0 => some .l | 1 => some .r | 2 => some .a | _ => none

/-- R52. -/
def Side.code : Side → BitVec 2
  | .l => 0 | .r => 1
/-- R52. -/
def Side.ofCode (x : BitVec 2) : Option Side :=
  match x.toNat with
  | 0 => some .l | 1 => some .r | _ => none

/-- R52. -/
def SatW.code : SatW → BitVec 2
  | .b8 => 0 | .b16 => 1 | .b32 => 2
/-- R52. -/
def SatW.ofCode (x : BitVec 2) : Option SatW :=
  match x.toNat with
  | 0 => some .b8 | 1 => some .b16 | 2 => some .b32 | _ => none

/-- R50. -/
def FFmt.code : FFmt → BitVec 2
  | .f64 => 0 | .f32 => 1 | .f16 => 2 | .bf16 => 3
/-- R50. -/
def FFmt.ofCode (x : BitVec 2) : Option FFmt :=
  match x.toNat with
  | 0 => some .f64 | 1 => some .f32 | 2 => some .f16 | 3 => some .bf16 | _ => none

/-- R53. -/
def PkFmt.code : PkFmt → BitVec 2
  | .f32x2 => 1 | .f16x4 => 2 | .bf16x4 => 3
/-- R53. -/
def PkFmt.ofCode (x : BitVec 2) : Option PkFmt :=
  match x.toNat with
  | 1 => some .f32x2 | 2 => some .f16x4 | 3 => some .bf16x4 | _ => none

/-- R53. -/
def GxFmt.code : GxFmt → BitVec 2
  | .gx4 => 0 | .gx6 => 1 | .gx9 => 2
/-- R53. -/
def GxFmt.ofCode (x : BitVec 2) : Option GxFmt :=
  match x.toNat with
  | 0 => some .gx4 | 1 => some .gx6 | 2 => some .gx9 | _ => none

/-- R54. -/
def ShflK.code : ShflK → BitVec 2
  | .idx => 0 | .up => 1 | .down => 2 | .xor => 3
/-- R54. -/
def ShflK.ofCode (x : BitVec 2) : Option ShflK :=
  match x.toNat with
  | 0 => some .idx | 1 => some .up | 2 => some .down | 3 => some .xor | _ => none

/-- R54. -/
def VoteK.code : VoteK → BitVec 2
  | .all => 0 | .any => 1 | .uni => 2 | .ballot => 3
/-- R54. -/
def VoteK.ofCode (x : BitVec 2) : Option VoteK :=
  match x.toNat with
  | 0 => some .all | 1 => some .any | 2 => some .uni | 3 => some .ballot | _ => none

/-- R57. -/
def CopyDir.code : CopyDir → BitVec 2
  | .m2s => 0 | .s2m => 1 | .s2s => 2 | .m2m => 3
/-- R57. -/
def CopyDir.ofCode (x : BitVec 2) : Option CopyDir :=
  match x.toNat with
  | 0 => some .m2s | 1 => some .s2m | 2 => some .s2s | 3 => some .m2m | _ => none

/-- R57. -/
def HDir.code : HDir → BitVec 2
  | .h2d => 0 | .d2h => 1 | .h2s => 2 | .s2h => 3
/-- R57. -/
def HDir.ofCode (x : BitVec 2) : Option HDir :=
  match x.toNat with
  | 0 => some .h2d | 1 => some .d2h | 2 => some .h2s | 3 => some .s2h | _ => none

/-- R58. -/
def Width.code : Width → BitVec 2
  | .w16 => 0 | .w32 => 1 | .w64 => 2 | .w128 => 3
/-- R58. -/
def Width.ofCode (x : BitVec 2) : Option Width :=
  match x.toNat with
  | 0 => some .w16 | 1 => some .w32 | 2 => some .w64 | 3 => some .w128 | _ => none

/-- R55. -/
def ASize.code : ASize → BitVec 2
  | .b4 => 2 | .b8 => 3
/-- R55. -/
def ASize.ofCode (x : BitVec 2) : Option ASize :=
  match x.toNat with
  | 2 => some .b4 | 3 => some .b8 | _ => none

/-- R50. -/
def Cond.code : Cond → BitVec 8
  | .eq => 0 | .ne => 1 | .lt => 2 | .le => 3 | .gt => 4 | .ge => 5 | .uo => 6 | .or => 7
/-- R50. -/
def Cond.ofCode (x : BitVec 8) : Option Cond :=
  match x.toNat with
  | 0 => some .eq | 1 => some .ne | 2 => some .lt | 3 => some .le | 4 => some .gt | 5 => some .ge | 6 => some .uo | 7 => some .or | _ => none

/-- R50. -/
def RedOp.code : RedOp → BitVec 8
  | .add => 0 | .min => 1 | .max => 2 | .and => 3 | .or => 4 | .xor => 5
/-- R50. -/
def RedOp.ofCode (x : BitVec 8) : Option RedOp :=
  match x.toNat with
  | 0 => some .add | 1 => some .min | 2 => some .max | 3 => some .and | 4 => some .or | 5 => some .xor | _ => none

/-- R54. -/
def SaluOp.code : SaluOp → BitVec 8
  | .add => 0 | .sub => 1 | .and => 2 | .or => 3 | .xor => 4 | .shl => 5 | .shr => 6 | .mul => 7
/-- R54. -/
def SaluOp.ofCode (x : BitVec 8) : Option SaluOp :=
  match x.toNat with
  | 0 => some .add | 1 => some .sub | 2 => some .and | 3 => some .or | 4 => some .xor | 5 => some .shl | 6 => some .shr | 7 => some .mul | _ => none

/-- R53. -/
def SrcFmt.code : SrcFmt → BitVec 8
  | .f64 => 0 | .f32 => 1 | .f16 => 2 | .bf16 => 3 | .e4m3 => 4 | .e5m2 => 5
/-- R53. -/
def SrcFmt.ofCode (x : BitVec 8) : Option SrcFmt :=
  match x.toNat with
  | 0 => some .f64 | 1 => some .f32 | 2 => some .f16 | 3 => some .bf16 | 4 => some .e4m3 | 5 => some .e5m2 | _ => none

/-- R40. -/
def RMode.code : RMode → BitVec 8
  | .rn => 0 | .rz => 1 | .rp => 2 | .rm => 3 | .rna => 4
/-- R40. -/
def RMode.ofCode (x : BitVec 8) : Option RMode :=
  match x.toNat with
  | 0 => some .rn | 1 => some .rz | 2 => some .rp | 3 => some .rm | 4 => some .rna | _ => none

/-- R53. -/
def PcFmt.code : PcFmt → BitVec 4
  | .f32x2 => 0 | .f16x4 => 1 | .bf16x4 => 2 | .e4m3x8 => 3 | .e5m2x8 => 4
/-- R53. -/
def PcFmt.ofCode (x : BitVec 4) : Option PcFmt :=
  match x.toNat with
  | 0 => some .f32x2 | 1 => some .f16x4 | 2 => some .bf16x4 | 3 => some .e4m3x8 | 4 => some .e5m2x8 | _ => none

/-- R55. -/
def AtomOp.code : AtomOp → BitVec 8
  | .iadd => 0 | .fadd => 1 | .smin => 2 | .smax => 3 | .umin => 4 | .umax => 5 | .and => 6 | .or => 7 | .xor => 8 | .xchg => 9 | .fmin => 10 | .fmax => 11
/-- R55. -/
def AtomOp.ofCode (x : BitVec 8) : Option AtomOp :=
  match x.toNat with
  | 0 => some .iadd | 1 => some .fadd | 2 => some .smin | 3 => some .smax | 4 => some .umin | 5 => some .umax | 6 => some .and | 7 => some .or | 8 => some .xor | 9 => some .xchg | 10 => some .fmin | 11 => some .fmax | _ => none

/-- R55. -/
def CctlOp.code : CctlOp → BitVec 7
  | .wb => 0 | .inv => 1 | .wbinv => 2
/-- R55. -/
def CctlOp.ofCode (x : BitVec 7) : Option CctlOp :=
  match x.toNat with
  | 0 => some .wb | 1 => some .inv | 2 => some .wbinv | _ => none

/-- R57. -/
def CollOp.code : CollOp → BitVec 4
  | .add => 0 | .min => 1 | .max => 2
/-- R57. -/
def CollOp.ofCode (x : BitVec 4) : Option CollOp :=
  match x.toNat with
  | 0 => some .add | 1 => some .min | 2 => some .max | _ => none

/-- R57. -/
def CollTy.code : CollTy → BitVec 2
  | .f32 => 0 | .bf16 => 1 | .int => 2
/-- R57. -/
def CollTy.ofCode (x : BitVec 2) : Option CollTy :=
  match x.toNat with
  | 0 => some .f32 | 1 => some .bf16 | 2 => some .int | _ => none

/-- R57. -/
def Kind.code : Kind → BitVec 2
  | .c16 => 0 | .c24 => 1 | .f32 => 2 | .bf16 => 3
/-- R57. -/
def Kind.ofCode (x : BitVec 2) : Option Kind :=
  match x.toNat with
  | 0 => some .c16 | 1 => some .c24 | 2 => some .f32 | 3 => some .bf16 | _ => none

/-- R57. -/
def TFmt.codeScreed : TFmt → BitVec 8
  | .gx4 => 0 | .gx6 => 1 | .gx9 => 2 | .e4m3 => 3 | .e5m2 => 4 | .bf16 => 5 | .fp16 => 6 | .f32 => 7
/-- R57. -/
def TFmt.ofScreed (x : BitVec 8) : Option TFmt :=
  match x.toNat with
  | 0 => some .gx4 | 1 => some .gx6 | 2 => some .gx9 | 3 => some .e4m3 | 4 => some .e5m2 | 5 => some .bf16 | 6 => some .fp16 | 7 => some .f32 | _ => none

/-- R57. -/
def TFmt.codeDrain : TFmt → BitVec 3
  | .f32 => 0 | .bf16 => 1 | .fp16 => 2 | .e4m3 => 3 | .e5m2 => 4 | .gx4 => 5 | .gx6 => 6 | .gx9 => 7
/-- R57. -/
def TFmt.ofDrain (x : BitVec 3) : Option TFmt :=
  match x.toNat with
  | 0 => some .f32 | 1 => some .bf16 | 2 => some .fp16 | 3 => some .e4m3 | 4 => some .e5m2 | 5 => some .gx4 | 6 => some .gx6 | 7 => some .gx9 | _ => none

/-- The two encodings of a choice of one bit in SUB. -/
def subBit (b : Bool) : BitVec 2 := if b then 1 else 0
/-- SUB 0b00 or 0b01; any other value is not listed. -/
def bitOfSub (x : BitVec 2) : Option Bool :=
  match x.toNat with | 0 => some false | 1 => some true | _ => none
/-- MOD8[0] alone. -/
def modBit (b : Bool) : Byte := if b then 1 else 0
/-- MOD8[0] alone; any other bit is not listed. -/
def bitOfMod (x : Byte) : Option Bool :=
  match x.toNat with | 0 => some false | 1 => some true | _ => none
/-- SUB of PDOT: 0b10 f16x4, 0b11 bf16x4 (R53). -/
def dotSub (bf : Bool) : BitVec 2 := if bf then 3 else 2
/-- SUB of PDOT (R53). -/
def dotOfSub (x : BitVec 2) : Option Bool :=
  match x.toNat with | 2 => some false | 3 => some true | _ => none

/-- Access size (SUB) and type code (R55). -/
def MemTy.codes : MemTy → BitVec 2 × BitVec 7
  | .w => (3, 0) | .i1 => (0, 1) | .i2 => (1, 1) | .i4 => (2, 1) | .i8 => (3, 1)
  | .z1 => (0, 2) | .z2 => (1, 2) | .z4 => (2, 2) | .f2 => (1, 3) | .f4 => (2, 3) | .f8 => (3, 3)
  | .bf => (1, 4) | .bits => (3, 5)
/-- The legal pairs of size and type code (R55). -/
def MemTy.ofCodes (sub : BitVec 2) (ty : BitVec 7) : Option MemTy :=
  match ty.toNat, sub.toNat with
  | 0, 3 => some .w
  | 1, 0 => some .i1 | 1, 1 => some .i2 | 1, 2 => some .i4 | 1, 3 => some .i8
  | 2, 0 => some .z1 | 2, 1 => some .z2 | 2, 2 => some .z4
  | 3, 1 => some .f2 | 3, 2 => some .f4 | 3, 3 => some .f8
  | 4, 1 => some .bf
  | 5, 3 => some .bits
  | _, _ => none

/-! ### Short instructions (R35, R48) -/

/-- The fields of a short word (R35). -/
structure ShortF where
  op : BitVec 6
  d : Byte
  a : Byte
  b : Byte
  deriving DecidableEq, Repr

/-- The fields of a short word (R35). -/
def shortF (w : W32) : ShortF :=
  ⟨w.extractLsb' 2 6, w.extractLsb' 8 8, w.extractLsb' 16 8, w.extractLsb' 24 8⟩

/-- The short word with these fields (R35). -/
def shortWord (op : BitVec 6) (d a b : Byte) : W32 := b ++ a ++ d ++ op ++ (0 : BitVec 2)

/-- A field rule: the instruction only where it holds. -/
def onlyIf (ok : Bool) (i : Instr) : Option Instr := if ok then some i else none

/-- OP6 0x00 to 0x0F (R48). -/
def decShortLow (f : ShortF) : Option Instr :=
  match f.op.toNat with
  | 0x0 => onlyIf (f.d == 0 && f.a == 0 && f.b == 0) (.nop)
  | 0x1 => onlyIf (f.b == 0) (.mov f.d f.a)
  | 0x2 => onlyIf (true) (.add f.d f.a f.b)
  | 0x3 => onlyIf (true) (.sub f.d f.a f.b)
  | 0x4 => onlyIf (true) (.mul f.d f.a f.b)
  | 0x5 => onlyIf (true) (.min f.d f.a f.b)
  | 0x6 => onlyIf (true) (.max f.d f.a f.b)
  | 0x7 => onlyIf (f.b == 0) (.neg f.d f.a)
  | 0x8 => onlyIf (true) (.iadd f.d f.a f.b)
  | 0x9 => onlyIf (true) (.isub f.d f.a f.b)
  | 0xa => onlyIf (true) (.and f.d f.a f.b)
  | 0xb => onlyIf (true) (.or f.d f.a f.b)
  | 0xc => onlyIf (true) (.xor f.d f.a f.b)
  | 0xd => onlyIf (true) (.shl f.d f.a f.b)
  | 0xe => onlyIf (true) (.shr f.d f.a f.b)
  | 0xf => onlyIf (true) (.sar f.d f.a f.b)
  | _ => none

/-- OP6 0x10 to 0x1F (R48). -/
def decShortHigh (f : ShortF) : Option Instr :=
  match f.op.toNat with
  | 0x10 => onlyIf (true) (.movi f.d (f.a ++ f.b))
  | 0x11 => onlyIf (true) (.addi f.d f.a f.b)
  | 0x12 => onlyIf (f.b == 0) (.tagof f.d f.a)
  | 0x13 => onlyIf (f.a == 0 && f.b == 0) (.laneid f.d)
  | 0x14 => onlyIf (f.d == 0 && f.a == 0 && f.b == 0) (.join)
  | 0x15 => onlyIf (f.d == 0 && f.a == 0 && f.b == 0) (.yield)
  | 0x16 => onlyIf (f.d == 0 && f.a == 0 && f.b == 0) (.exit)
  | 0x17 => onlyIf (f.a == 0 && f.b == 0) (.bar f.d)
  | 0x18 => onlyIf (f.d == 0 && f.a == 0 && f.b == 0) (.serb)
  | 0x19 => onlyIf (f.d == 0 && f.a == 0 && f.b == 0) (.sere)
  | 0x1a => onlyIf (f.d == 0 && f.b == 0) (.ret f.a)
  | 0x1b => onlyIf (f.d == 0 && f.b == 0) (.retl f.a)
  | 0x1c => onlyIf (f.d == 0 && f.a == 0 && f.b == 0) (.txend)
  | 0x1d => onlyIf (true) (.shflx f.d f.a f.b)
  | 0x1e => onlyIf (f.b == 0) (.not f.d f.a)
  | 0x1f => onlyIf (f.b == 0) (.abs f.d f.a)
  | _ => none

/-- OP6 0x30 to 0x37 (R61). -/
def decShortRetired (f : ShortF) : Option Instr :=
  match f.op.toNat with
  | 0x30 => onlyIf (true) (.iadd32 f.d f.a f.b)
  | 0x31 => onlyIf (true) (.isub32 f.d f.a f.b)
  | 0x32 => onlyIf (true) (.imul32 f.d f.a f.b)
  | 0x33 => onlyIf (f.b == 0) (.movt f.d f.a)
  | 0x34 => onlyIf (f.d == 0 && f.a == 0 && f.b == 0) (.syncw)
  | 0x35 => onlyIf (f.b == 0) (.ballot32 f.d f.a)
  | 0x36 => onlyIf (true) (.shfl32 f.d f.a f.b)
  | 0x37 => onlyIf (true) (.tageq f.d f.a f.b)
  | _ => none

/-- The short opcode map (R48, R61). -/
def decShort (f : ShortF) : Option Instr :=
  match f.op.toNat / 16 with
  | 0 => decShortLow f
  | 1 => decShortHigh f
  | 3 => decShortRetired f
  | _ => none

/-! ### Long instructions (R36 to R38) -/

/-- The fields of the two words of a long instruction (R36, R38). -/
structure LongF where
  op : Byte
  d : Byte
  a : Byte
  g : Guard
  sub : BitVec 2
  b : Byte
  c : Byte
  mod : Byte
  top : Byte
  imm : BitVec 24
  w1 : W32
  deriving DecidableEq, Repr

/-- The fields of the two words of a long instruction (R36, R38). -/
def longF (w0 w1 : W32) : LongF where
  op := w0.extractLsb' 2 8
  d := w0.extractLsb' 10 8
  a := w0.extractLsb' 18 8
  g := ⟨w0.extractLsb' 26 3, w0.extractLsb' 29 1 == 1⟩
  sub := w0.extractLsb' 30 2
  b := w1.extractLsb' 0 8
  c := w1.extractLsb' 8 8
  mod := w1.extractLsb' 16 8
  top := w1.extractLsb' 24 8
  imm := w1.extractLsb' 8 24
  w1 := w1

/-- Word 0 of a long instruction (R36). -/
def longWord (op : Byte) (g : Guard) (sub : BitVec 2) (d a : Byte) : W32 :=
  sub ++ (if g.neg then (1 : BitVec 1) else 0) ++ g.p ++ a ++ d ++ op ++ (1 : BitVec 2)
/-- Word 1 in layout L.R (R38). -/
def wordR (b c mod : Byte) : W32 := (0 : Byte) ++ mod ++ c ++ b
/-- Word 1 in layout L.M (R38). -/
def wordM (b : Byte) (imm : BitVec 24) : W32 := imm ++ b

/-- L.R: bits [31:24] of word 1 are zero (R38). -/
def LongF.r (f : LongF) (ok : Bool) (i : Instr) : Option Instr := onlyIf (ok && f.top == 0) i
/-- The base "v/s" of an L.M form: B[7] selects a scalar register (R47). -/
def LongF.base (f : LongF) : MBase := ⟨f.b.extractLsb' 7 1 == 1, f.a⟩
/-- B[6:0] of an L.M form: the type code, level or operation. -/
def LongF.low (f : LongF) : BitVec 7 := f.b.extractLsb' 0 7
/-- The B field of an L.M form with base "v/s" (R47). -/
def MBase.field (m : MBase) (low : BitVec 7) : Byte := (if m.scalar then (1 : BitVec 1) else 0) ++ low

/-- OP8 0x00 to 0x0F: tag, move and generic (R51). -/
def decLong0 (x : LongF) : Option Instr :=
  match x.op.toNat % 16 with
  | 0x0 => (MovkK.ofCode x.sub).bind fun k => onlyIf (x.a == 0) (.movk x.g k x.d x.w1)
  | 0x1 => (MovhK.ofCode x.sub).bind fun k => onlyIf (x.a == 0) (.movh x.g k x.d x.w1)
  | 0x2 => (Tag.ofCode x.b).bind fun t => x.r (x.sub == 0 && x.c == 0 && x.mod == 0) (.retag x.g x.d x.a t)
  | 0x3 => (Tag.ofCode x.b).bind fun t => x.r (x.sub == 0 && x.d == 0 && x.mod == 0) (.chktag x.g x.a t x.c)
  | 0x4 => (Tag.ofCode x.b).bind fun t => x.r (x.sub == 0 && x.mod == 0) (.testtag x.g x.d x.a t x.c)
  | 0x5 => x.r (x.sub == 0 && x.mod == 0) (.sel x.g x.d x.a x.b x.c)
  | 0x6 => x.r (x.sub == 0 && x.mod == 0) (.fma x.g x.d x.a x.b x.c)
  | 0x7 => x.r (x.sub == 0 && x.c == 0 && x.mod == 0) (.div x.g x.d x.a x.b)
  | 0x8 => x.r (x.sub == 0 && x.c == 0 && x.mod == 0) (.rem x.g x.d x.a x.b)
  | 0x9 => (Cond.ofCode x.mod).bind fun cc => x.r (x.sub == 0 && x.c == 0) (.cmp x.g cc x.d x.a x.b)
  | 0xA => x.r (x.sub == 0 && x.c == 0 && x.mod == 0) (.eqv x.g x.d x.a x.b)
  | 0xB => (Tag.ofCode x.b).bind fun t => x.r (x.sub == 0 && x.c == 0 && x.mod == 0) (.cvt x.g x.d x.a t)
  | 0xC => x.r (x.sub == 0 && x.b == 0 && x.c == 0 && x.mod == 0) (.hashv x.g x.d x.a)
  | _ => none

/-- OP8 0x20 to 0x2F: integer and address (R52). -/
def decLong2 (x : LongF) : Option Instr :=
  match x.op.toNat % 16 with
  | 0x0 => x.r (x.sub == 0 && x.c == 0 && x.mod == 0) (.imul x.g x.d x.a x.b)
  | 0x1 => (Sgn.ofCode x.sub).bind fun sg => x.r (x.c == 0 && x.mod == 0) (.imulh x.g sg x.d x.a x.b)
  | 0x2 => x.r (x.sub == 0 && x.mod == 0) (.imad x.g x.d x.a x.b x.c)
  | 0x3 => (Sgn.ofCode x.sub).bind fun sg => x.r (x.c == 0 && x.mod == 0) (.idiv x.g sg x.d x.a x.b)
  | 0x4 => (Sgn.ofCode x.sub).bind fun sg => x.r (x.c == 0 && x.mod == 0) (.irem x.g sg x.d x.a x.b)
  | 0x5 => (Sgn.ofCode x.sub).bind fun sg => x.r (x.c == 0 && x.mod == 0) (.imin x.g sg x.d x.a x.b)
  | 0x6 => (Sgn.ofCode x.sub).bind fun sg => x.r (x.c == 0 && x.mod == 0) (.imax x.g sg x.d x.a x.b)
  | 0x7 => (Sgn.ofCode x.sub).bind fun sg => (Cond.ofCode x.mod).bind fun cc => x.r (x.c == 0) (.icmp x.g sg cc x.d x.a x.b)
  | 0x8 => onlyIf (x.sub == 0) (.iaddi x.g x.d x.a x.w1)
  | 0x9 => onlyIf (x.sub == 0) (.andi x.g x.d x.a x.w1)
  | 0xA => onlyIf (x.sub == 0) (.ori x.g x.d x.a x.w1)
  | 0xB => onlyIf (x.sub == 0) (.xori x.g x.d x.a x.w1)
  | 0xC => (ShiftK.ofCode x.sub).bind fun k => x.r (x.c == 0 && x.mod == 0) (.shi x.g k x.d x.a x.b)
  | 0xD => (Side.ofCode x.sub).bind fun k => x.r (x.c == 0 && x.mod == 0) (.rot x.g k x.d x.a x.b)
  | 0xE => x.r (x.sub == 0 && x.b == 0 && x.c == 0 && x.mod == 0) (.popc x.g x.d x.a)
  | 0xF => x.r (x.sub == 0 && x.b == 0 && x.c == 0 && x.mod == 0) (.clz x.g x.d x.a)
  | _ => none

/-- OP8 0x30 to 0x3F: integer and address (R52). -/
def decLong3 (x : LongF) : Option Instr :=
  match x.op.toNat % 16 with
  | 0x0 => (bitOfSub x.sub).bind fun sx => x.r (x.mod == 0) (.bfx x.g sx x.d x.a x.b x.c)
  | 0x1 => x.r (x.sub == 0 && x.mod == 0) (.bfi x.g x.d x.a x.b x.c)
  | 0x2 => x.r (x.sub == 0 && x.c == 0 && x.mod.extractLsb' 3 5 == 0) (.lea x.g x.d x.a x.b (x.mod.extractLsb' 0 3))
  | 0x3 => x.r (x.sub == 0 && x.mod == 0) (.iaddc x.g x.d x.a x.b x.c)
  | 0x4 => x.r (x.sub == 0 && x.b == 0 && x.c == 0 && x.mod == 0) (.brev x.g x.d x.a)
  | 0x5 => (SatW.ofCode x.sub).bind fun w => (bitOfMod x.mod).bind fun u => x.r (x.b == 0 && x.c == 0) (.isat x.g w u x.d x.a)
  | _ => none

/-- OP8 0x40 to 0x4F: float (R53). -/
def decLong4 (x : LongF) : Option Instr :=
  match x.op.toNat % 16 with
  | 0x0 => (FFmt.ofCode x.sub).bind fun f => x.r (x.c == 0 && x.mod == 0) (.fadd x.g f x.d x.a x.b)
  | 0x1 => (FFmt.ofCode x.sub).bind fun f => x.r (x.c == 0 && x.mod == 0) (.fsub x.g f x.d x.a x.b)
  | 0x2 => (FFmt.ofCode x.sub).bind fun f => x.r (x.c == 0 && x.mod == 0) (.fmul x.g f x.d x.a x.b)
  | 0x3 => (FFmt.ofCode x.sub).bind fun f => x.r (x.mod == 0) (.ffma x.g f x.d x.a x.b x.c)
  | 0x4 => (FFmt.ofCode x.sub).bind fun f => x.r (x.c == 0 && x.mod == 0) (.fdiv x.g f x.d x.a x.b)
  | 0x5 => (FFmt.ofCode x.sub).bind fun f => x.r (x.b == 0 && x.c == 0 && x.mod == 0) (.fsqrt x.g f x.d x.a)
  | 0x6 => (FFmt.ofCode x.sub).bind fun f => x.r (x.b == 0 && x.c == 0 && x.mod == 0) (.frcp x.g f x.d x.a)
  | 0x7 => (FFmt.ofCode x.sub).bind fun f => x.r (x.b == 0 && x.c == 0 && x.mod == 0) (.frsq x.g f x.d x.a)
  | 0x8 => (FFmt.ofCode x.sub).bind fun f => x.r (x.c == 0 && x.mod == 0) (.fmin x.g f x.d x.a x.b)
  | 0x9 => (FFmt.ofCode x.sub).bind fun f => x.r (x.c == 0 && x.mod == 0) (.fmax x.g f x.d x.a x.b)
  | 0xA => (FFmt.ofCode x.sub).bind fun f => (Cond.ofCode x.mod).bind fun cc => x.r (x.c == 0) (.fcmp x.g f cc x.d x.a x.b)
  | 0xB => (FFmt.ofCode x.sub).bind fun f => x.r (x.b == 0 && x.c == 0 && x.mod == 0) (.fclass x.g f x.d x.a)
  | 0xC => (FFmt.ofCode x.sub).bind fun f => x.r (x.b == 0 && x.c == 0 && x.mod == 0) (.fexp2 x.g f x.d x.a)
  | 0xD => (FFmt.ofCode x.sub).bind fun f => x.r (x.b == 0 && x.c == 0 && x.mod == 0) (.flog2 x.g f x.d x.a)
  | 0xE => (FFmt.ofCode x.sub).bind fun f => x.r (x.b == 0 && x.c == 0 && x.mod == 0) (.fsin x.g f x.d x.a)
  | 0xF => (FFmt.ofCode x.sub).bind fun f => x.r (x.b == 0 && x.c == 0 && x.mod == 0) (.fcos x.g f x.d x.a)
  | _ => none

/-- OP8 0x50 to 0x5F: float and packed (R53). -/
def decLong5 (x : LongF) : Option Instr :=
  match x.op.toNat % 16 with
  | 0x0 => (FFmt.ofCode x.sub).bind fun f => (SrcFmt.ofCode x.mod).bind fun src => x.r (x.b == 0 && x.c == 0) (.fcvt x.g f src x.d x.a)
  | 0x1 => (FFmt.ofCode x.sub).bind fun f => (bitOfMod x.mod).bind fun u => x.r (x.b == 0 && x.c == 0) (.i2f x.g f u x.d x.a)
  | 0x2 => (FFmt.ofCode x.sub).bind fun f => (bitOfMod x.mod).bind fun u => x.r (x.b == 0 && x.c == 0) (.f2i x.g f u x.d x.a)
  | 0x3 => (FFmt.ofCode x.sub).bind fun f => (RMode.ofCode x.mod).bind fun m => x.r (x.b == 0 && x.c == 0) (.frnd x.g f m x.d x.a)
  | 0x4 => (PkFmt.ofCode x.sub).bind fun k => x.r (x.c == 0 && x.mod == 0) (.padd x.g k x.d x.a x.b)
  | 0x5 => (PkFmt.ofCode x.sub).bind fun k => x.r (x.c == 0 && x.mod == 0) (.pmul x.g k x.d x.a x.b)
  | 0x6 => (PkFmt.ofCode x.sub).bind fun k => x.r (x.mod == 0) (.pfma x.g k x.d x.a x.b x.c)
  | 0x7 => (dotOfSub x.sub).bind fun bf => x.r (x.mod == 0) (.pdot x.g bf x.d x.a x.b x.c)
  | 0x8 => (PkFmt.ofCode x.sub).bind fun k => x.r (x.c == 0 && x.mod == 0) (.pmax x.g k x.d x.a x.b)
  | 0x9 => (PcFmt.ofCode (x.mod.extractLsb' 0 4)).bind fun src => (PcFmt.ofCode (x.mod.extractLsb' 4 4)).bind fun dst => x.r (x.sub == 0 && x.b == 0 && x.c == 0) (.pcvt x.g src dst x.d x.a)
  | 0xA => (GxFmt.ofCode x.sub).bind fun k => x.r (x.b == 0 && x.c == 0 && x.mod == 0) (.qpack x.g k x.d x.a)
  | 0xB => (GxFmt.ofCode x.sub).bind fun k => x.r (x.b == 0 && x.c == 0 && x.mod == 0) (.qunpk x.g k x.d x.a)
  | _ => none

/-- OP8 0x60 to 0x6F: cross-lane, scalar and block (R54). -/
def decLong6 (x : LongF) : Option Instr :=
  match x.op.toNat % 16 with
  | 0x0 => (ShflK.ofCode x.sub).bind fun k => (bitOfMod x.mod).bind fun imm => x.r (x.c == 0) (.shfl x.g k imm x.d x.a x.b)
  | 0x1 => (VoteK.ofCode x.sub).bind fun k => x.r (x.b == 0 && x.c == 0 && x.mod == 0) (.vote x.g k x.d x.a)
  | 0x2 => (RedOp.ofCode x.mod).bind fun op => x.r (x.sub == 0 && x.b == 0 && x.c == 0) (.rdx x.g op x.d x.a)
  | 0x3 => (bitOfSub x.sub).bind fun excl => (RedOp.ofCode x.mod).bind fun op => x.r (x.b == 0 && x.c == 0) (.scan x.g op excl x.d x.a)
  | 0x4 => (RedOp.ofCode x.mod).bind fun op => x.r (x.sub == 0 && x.b == 0) (.segrdx x.g op x.d x.a x.c)
  | 0x5 => x.r (x.sub == 0 && x.b == 0 && x.c == 0 && x.mod == 0) (.matchv x.g x.d x.a)
  | 0x6 => x.r (x.sub == 0 && x.c == 0 && x.mod == 0) (.bcast x.g x.d x.a x.b)
  | 0x7 => match x.sub.toNat with
    | 0 => x.r (x.b == 0 && x.c == 0 && x.mod == 0) (.smov x.g x.d x.a)
    | 1 => x.r (x.c == 0 && x.mod == 0) (.smovFromLane x.g x.d x.a x.b)
    | 2 => x.r (x.b == 0 && x.c == 0 && x.mod == 0) (.smovToLanes x.g x.d x.a)
    | _ => none
  | 0x8 => (SaluOp.ofCode x.mod).bind fun op => x.r (x.sub == 0 && x.c == 0) (.salu x.g op x.d x.a x.b)
  | 0x9 => (Sgn.ofCode x.sub).bind fun sg => (Cond.ofCode x.mod).bind fun cc => x.r (x.c == 0) (.scmp x.g sg cc x.d x.a x.b)
  | 0xA => (bitOfSub x.sub).bind fun toV => x.r (x.b == 0 && x.c == 0 && x.mod == 0) (.brd x.g toV x.d x.a)
  | 0xB => x.r (x.sub == 0 && x.b == 0 && x.c == 0 && x.mod == 0) (.bwr x.g x.d x.a)
  | 0xC => x.r (x.sub == 0 && x.b == 0 && x.c == 0 && x.mod == 0) (.lanesel x.g x.d x.a)
  | _ => none

/-- OP8 0x70 to 0x7F: memory (R55). -/
def decLong7 (x : LongF) : Option Instr :=
  match x.op.toNat % 16 with
  | 0x0 => (MemTy.ofCodes x.sub x.low).bind fun ty => onlyIf (true) (.ld x.g ty x.d x.base x.imm)
  | 0x1 => (MemTy.ofCodes x.sub x.low).bind fun ty => onlyIf (true) (.st x.g ty x.d x.base x.imm)
  | 0x2 => (MemTy.ofCodes x.sub x.low).bind fun ty => onlyIf (true) (.ldinv x.g ty x.d x.base x.imm)
  | 0x3 => (MemTy.ofCodes x.sub x.low).bind fun ty => onlyIf (true) (.lds x.g ty x.d x.base x.imm)
  | 0x4 => (MemTy.ofCodes x.sub x.low).bind fun ty => onlyIf (true) (.sts x.g ty x.d x.base x.imm)
  | 0x5 => onlyIf (x.sub == 3 && x.low == 0) (.ldref x.g x.d x.base x.imm)
  | 0x6 => onlyIf (x.sub == 3 && x.b == 0) (.ldf x.g x.d x.a x.imm)
  | 0x7 => onlyIf (x.sub == 3 && x.b == 0) (.stf x.g x.d x.a x.imm)
  | 0x8 => onlyIf (x.sub == 3 && x.b == 0 && x.imm == 0) (.hdrld x.g x.d x.a)
  | 0x9 => x.r (x.sub == 0 && x.c == 0 && x.mod == 0) (.nalloc x.g x.d x.a x.b)
  | 0xA => x.r (x.sub == 0 && x.d == 0 && x.c == 0 && x.mod == 0) (.nset x.g x.a x.b)
  | 0xB => (ASize.ofCode x.sub).bind fun sz => (AtomOp.ofCode x.d).bind fun op => onlyIf (true) (.atom x.g op sz x.a x.b x.imm)
  | 0xC => (ASize.ofCode x.sub).bind fun sz => onlyIf (true) (.cas x.g sz x.d x.a x.b x.imm)
  | 0xD => onlyIf (x.sub == 0 && x.d == 0 && x.a == 0 && x.w1.extractLsb' 11 21 == 0)
      (.fence x.g (x.w1.extractLsb' 0 4) (x.w1.extractLsb' 4 4) (x.w1.extractLsb' 8 3))
  | 0xE => onlyIf (x.sub == 0 && x.d == 0 && x.a == 0) (.waitc x.g x.b x.c x.mod x.top)
  | 0xF => x.r (x.sub == 0 && x.d == 0 && x.c == 0 && x.mod == 0) (.waitp x.g x.a x.b)
  | _ => none

/-- OP8 0x80 to 0x8F: memory (R55). -/
def decLong8 (x : LongF) : Option Instr :=
  match x.op.toNat % 16 with
  | 0x0 => onlyIf (x.sub == 0 && x.d == 0 && x.low.extractLsb' 1 6 == 0) (.pref x.g (x.low.extractLsb' 0 1 == 1) x.base x.imm)
  | 0x1 => (CctlOp.ofCode x.low).bind fun op => onlyIf (x.sub == 0 && x.d == 0) (.cctl x.g op x.base x.imm)
  | 0x2 => onlyIf (x.sub == 0 && x.a == 0) (.txbegin x.g x.d x.w1)
  | 0x3 => onlyIf (x.sub == 0 && x.d == 0 && x.a == 0 && x.imm == 0) (.txabort x.g x.b)
  | 0x4 => x.r (x.sub == 0 && x.a == 0 && x.b == 0 && x.c == 0 && x.mod == 0) (.txstat x.g x.d)
  | 0x5 => (MemTy.ofCodes x.sub (x.c.extractLsb' 0 7)).bind fun ty =>
      x.r (x.c.extractLsb' 7 1 == 0 && x.mod.extractLsb' 3 5 == 0) (.ldx x.g ty x.d x.a x.b (x.mod.extractLsb' 0 3))
  | _ => none

/-- OP8 0x90 to 0x9F: engines (R57). -/
def decLong9 (x : LongF) : Option Instr :=
  match x.op.toNat % 16 with
  | 0x0 => (CopyDir.ofCode x.sub).bind fun dir => x.r (x.mod == 0) (.acpy x.g dir x.d x.a x.b x.c)
  | 0x1 => x.r (x.sub == 0 && x.mod == 0) (.amcast x.g x.d x.a x.b x.c)
  | 0x2 => x.r (x.sub == 0 && x.mod.extractLsb' 2 6 == 0) (.agath x.g (x.mod.extractLsb' 0 2) x.d x.a x.b x.c)
  | 0x3 => x.r (x.sub == 0 && x.mod.extractLsb' 2 6 == 0) (.ascat x.g (x.mod.extractLsb' 0 2) x.d x.a x.b x.c)
  | 0x4 => (HDir.ofCode x.sub).bind fun dir => x.r (x.mod == 0) (.hcpy x.g dir x.d x.a x.b x.c)
  | 0x5 => (bitOfSub x.sub).bind fun dom => (CollOp.ofCode (x.mod.extractLsb' 0 4)).bind fun op =>
      (CollTy.ofCode (x.mod.extractLsb' 4 2)).bind fun ty =>
      x.r (x.mod.extractLsb' 6 2 == 0) (.acoll x.g dom op ty x.d x.a x.b x.c)
  | 0x6 => x.r (x.sub == 0 && x.b == 0 && x.c == 0 && x.mod == 0) (.tlbind x.g x.d x.a)
  | 0x7 => x.r (x.sub == 0 && x.b == 0 && x.c == 0 && x.mod == 0) (.tlwait x.g x.d x.a)
  | 0x8 => x.r (x.sub == 0 && x.b == 0 && x.c == 0 && x.mod == 0) (.tlread x.g x.d x.a)
  | 0x9 => x.r (x.sub == 0 && x.b == 0 && x.c == 0 && x.mod == 0) (.tlsig x.g x.d x.a)
  | 0xA => x.r (x.sub == 0 && x.b == 0 && x.c == 0 && x.mod == 0) (.acancel x.g x.d x.a)
  | _ => none

/-- OP8 0xA0 to 0xAF: Screed and matrix (R57). -/
def decLongA (x : LongF) : Option Instr :=
  match x.op.toNat % 16 with
  | 0x0 => (TFmt.ofScreed x.mod).bind fun f => x.r (x.sub == 0) (.sxpd x.g f x.d x.a x.b x.c)
  | 0x1 => (TFmt.ofScreed x.mod).bind fun f => x.r (x.sub == 0) (.spack x.g f x.d x.a x.b x.c)
  | 0x2 => (Kind.ofCode (x.mod.extractLsb' 4 2)).bind fun k =>
      x.r (x.sub == 0 && x.c == 0 && x.mod.extractLsb' 6 2 == 0) (.tdesc x.g k (x.mod.extractLsb' 0 4) x.d x.a x.b)
  | 0x3 => x.r (x.sub == 0 && x.a == 0 && x.b == 0 && x.c == 0 && x.mod == 0) (.talloc x.g x.d)
  | 0x4 => x.r (x.sub == 0 && x.d == 0 && x.b == 0 && x.c == 0 && x.mod == 0) (.tfree x.g x.a)
  | 0x5 => x.r (x.c == 0 && x.mod == 0) (.mmaz x.g (x.sub.extractLsb' 0 1 == 1) (x.sub.extractLsb' 1 1 == 1) x.d x.a x.b)
  | 0x6 => x.r (x.c == 0 && x.mod == 0) (.mma x.g (x.sub.extractLsb' 0 1 == 1) (x.sub.extractLsb' 1 1 == 1) x.d x.a x.b)
  | 0x7 => x.r (x.c == 0 && x.mod == 0) (.mmag x.g (x.sub.extractLsb' 0 1 == 1) (x.sub.extractLsb' 1 1 == 1) x.d x.a x.b)
  | 0x8 => x.r (x.sub == 0 && x.d == 0 && x.b == 0 && x.c == 0 && x.mod == 0) (.gangset x.g x.a)
  | 0x9 => (TFmt.ofDrain (x.mod.extractLsb' 0 3)).bind fun t =>
    match x.sub.toNat with
    | 0 => x.r (x.b == 0 && x.c == 0 && x.mod.extractLsb' 4 4 == 0) (.drain x.g t (x.mod.extractLsb' 3 1 == 1) x.d x.a)
    | 1 => x.r (x.c == 0 && x.mod.extractLsb' 4 4 == 0) (.drainT x.g t (x.mod.extractLsb' 3 1 == 1) x.d x.a x.b)
    | 2 => x.r (x.b == 0 && x.c == 0 && x.mod.extractLsb' 4 4 == 0) (.drainAdd x.g t (x.mod.extractLsb' 3 1 == 1) x.d x.a)
    | _ => none
  | 0xA => x.r (x.sub == 0 && x.b == 0 && x.c == 0 && x.mod == 0) (.accld x.g x.d x.a)
  | 0xB => x.r (x.sub == 0 && x.c == 0 && x.mod == 0) (.accrd x.g x.d x.a x.b)
  | _ => none

/-- OP8 0xB0 to 0xBF: control (R58). -/
def decLongB (x : LongF) : Option Instr :=
  match x.op.toNat % 16 with
  | 0x0 => onlyIf (x.sub == 0 && x.d == 0 && x.a == 0) (.bra x.g x.w1)
  | 0x1 => x.r (x.sub == 0 && x.d == 0 && x.b == 0 && x.c == 0 && x.mod == 0) (.brx x.g x.a)
  | 0x2 => onlyIf (x.sub == 0 && x.a == 0) (.call x.g x.d x.w1)
  | 0x3 => x.r (x.sub == 0 && x.b == 0 && x.c == 0 && x.mod == 0) (.callx x.g x.d x.a)
  | 0x4 => onlyIf (x.sub == 0 && x.a == 0) (.interval x.g x.d x.w1)
  | 0x5 => (Width.ofCode x.sub).bind fun w => x.r (x.a == 0 && x.b == 0 && x.c == 0 && x.mod == 0) (.splitw x.g w x.d)
  | 0x6 => (Width.ofCode x.sub).bind fun w => x.r (x.a == 0 && x.b == 0 && x.c == 0 && x.mod == 0) (.fusew x.g w x.d)
  | 0x7 => x.r (x.sub == 0 && x.a == 0 && x.b == 0 && x.c == 0 && x.mod == 0) (.width x.g x.d)
  | 0x8 => (bitOfSub x.sub).bind fun lv =>
      x.r (x.d == 0 && x.a == 0 && x.b == 0 && x.c == 0 && x.mod == 0) (if lv then .legacyLeave x.g else .legacyEnter x.g)
  | 0x9 => x.r (x.sub == 0 && x.b == 0 && x.c == 0 && x.mod == 0) (.barc x.g x.d x.a)
  | 0xA => (bitOfSub x.sub).bind fun uni => x.r (x.c == 0 && x.mod == 0) (.spawn x.g uni x.d x.a x.b)
  | 0xB => x.r (x.sub == 0 && x.mod == 0) (.launchp x.g x.d x.a x.b x.c)
  | 0xC => x.r (x.sub == 0 && x.d == 0 && x.c == 0 && x.mod == 0) (.shape x.g x.a x.b)
  | 0xD => x.r (x.sub == 0 && x.a == 0 && x.b == 0 && x.c == 0 && x.mod == 0) (.specq x.g x.d)
  | 0xE => onlyIf (x.sub == 0 && x.d == 0 && x.a == 0) (.trap x.g x.w1)
  | 0xF => onlyIf (x.sub == 0 && x.d == 0 && x.a == 0) (.bru x.g x.w1)
  | _ => none

/-- OP8 0xD0 to 0xDF: system (R58). -/
def decLongD (x : LongF) : Option Instr :=
  match x.op.toNat % 16 with
  | 0x0 => onlyIf (x.sub == 0 && x.a == 0 && x.w1.extractLsb' 12 20 == 0) (.sysrd x.g x.d (x.w1.extractLsb' 0 12))
  | 0x1 => onlyIf (x.sub == 0 && x.d == 0 && x.w1.extractLsb' 12 20 == 0) (.syswr x.g x.a (x.w1.extractLsb' 0 12))
  | 0x2 => x.r (x.sub == 0 && x.a == 0 && x.b == 0 && x.c == 0 && x.mod == 0) (.time x.g x.d)
  | 0x3 => x.r (x.sub == 0 && x.a == 0 && x.b == 0 && x.c == 0 && x.mod == 0) (.clock x.g x.d)
  | 0x4 => (bitOfSub x.sub).bind fun all =>
      if all then x.r (x.d == 0 && x.a == 0 && x.b == 0 && x.c == 0 && x.mod == 0) (.icinvAll x.g)
      else x.r (x.d == 0 && x.b == 0 && x.c == 0 && x.mod == 0) (.icinv x.g x.a)
  | 0x5 => x.r (x.sub == 0 && x.d == 0 && x.c == 0 && x.mod == 0) (.vqpush x.g x.a x.b)
  | 0x6 => x.r (x.sub == 0 && x.d == 0 && x.a == 0 && x.b == 0 && x.c == 0 && x.mod == 0) (.rett x.g)
  | 0x7 => onlyIf (x.sub == 0 && x.d == 0 && x.a == 0) (.hcall x.g x.w1)
  | 0x8 => onlyIf (x.sub == 0 && x.a == 0 && x.imm == 0) (.perf x.g x.d x.b)
  | _ => none

/-- OP8 0xE0 to 0xEF: retired (R61, R393). -/
def decLongE (x : LongF) : Option Instr :=
  match x.op.toNat % 16 with
  | 0x0 => x.r (x.sub == 0 && x.mod == 0) (.fmad x.g x.d x.a x.b x.c)
  | 0x1 => x.r (x.sub == 0 && x.c == 0 && x.mod == 0) (.mma16 x.g x.d x.a x.b)
  | 0x2 => x.r (x.sub == 0 && x.c == 0 && x.mod == 0) (.mma32 x.g x.d x.a x.b)
  | 0x3 => x.r (x.sub == 0 && x.b == 0 && x.c == 0 && x.mod == 0) (.xpand x.g x.d x.a)
  | 0x4 => x.r (x.sub == 0 && x.c == 0 && x.mod == 0) (.allocw x.g x.d x.a x.b)
  | 0x5 => onlyIf (x.sub == 0 && x.low == 0) (.ldbar x.g x.d x.base x.imm)
  | 0x6 => x.r (x.sub == 0 && x.d == 0 && x.b == 0 && x.c == 0 && x.mod == 0) (.gcmark x.g x.a)
  | 0x7 => onlyIf (x.sub == 0 && x.d == 0 && x.a == 0 && x.w1 == 0) (.fenceg x.g)
  | 0x8 => onlyIf (x.sub == 0 && x.d == 0 && x.a == 0 && x.w1 == 0) (.fences x.g)
  | 0x9 => x.r (x.sub == 0 && x.c == 0 && x.mod == 0) (.spawn1 x.g x.d x.a x.b)
  | 0xA => onlyIf (x.sub == 0 && x.d == 0 && x.a == 0 && x.w1 == 0) (.waitall x.g)
  | 0xB => x.r (x.sub == 0 && x.b == 0 && x.c == 0 && x.mod == 0) (.cvtq8 x.g x.d x.a)
  | 0xC => x.r (x.sub == 0 && x.b == 0 && x.c == 0 && x.mod == 0) (.sqrt64 x.g x.d x.a)
  | 0xD => onlyIf (x.sub == 0 && x.low == 0) (.ldg32 x.g x.d x.base x.imm)
  | 0xE => onlyIf (x.sub == 0 && x.low == 0) (.stg32 x.g x.d x.base x.imm)
  | 0xF => x.r (x.sub == 0 && x.b == 0 && x.c == 0 && x.mod == 0) (.bcastw x.g x.d x.a)
  | _ => none

/-- The long opcode map (R49 to R58, R61). -/
def decLong (f : LongF) : Option Instr :=
  match f.op.toNat / 16 with
  | 0x0 => decLong0 f
  | 0x2 => decLong2 f
  | 0x3 => decLong3 f
  | 0x4 => decLong4 f
  | 0x5 => decLong5 f
  | 0x6 => decLong6 f
  | 0x7 => decLong7 f
  | 0x8 => decLong8 f
  | 0x9 => decLong9 f
  | 0xA => decLongA f
  | 0xB => decLongB f
  | 0xD => decLongD f
  | 0xE => decLongE f
  | _ => none

/-! ### Opcode classes (R60, R64 item 3) -/

/-- What the first word of an instruction is by its opcode alone (R48 to R61). -/
inductive OpClass where
  | live | retired | reserved
  deriving DecidableEq, Repr

/-- The short opcodes: 0x00 to 0x1F live, 0x30 to 0x37 retired (R48). -/
def shortClass (op : BitVec 6) : OpClass :=
  if op.toNat < 0x20 then .live
  else if 0x30 ≤ op.toNat ∧ op.toNat < 0x38 then .retired
  else .reserved

/-- The long opcodes (R51 to R58); 0xFF is the filler (R59). -/
def longClass (op : Byte) : OpClass :=
  let n := op.toNat
  if n ≤ 0x0C ∨ (0x20 ≤ n ∧ n ≤ 0x35) ∨ (0x40 ≤ n ∧ n ≤ 0x5B) ∨ (0x60 ≤ n ∧ n ≤ 0x6C) ∨ (0x70 ≤ n ∧ n ≤ 0x85)
      ∨ (0x90 ≤ n ∧ n ≤ 0x9A) ∨ (0xA0 ≤ n ∧ n ≤ 0xAB) ∨ (0xB0 ≤ n ∧ n ≤ 0xBF) ∨ (0xD0 ≤ n ∧ n ≤ 0xD8) then .live
  else if 0xE0 ≤ n ∧ n ≤ 0xEF then .retired
  else .reserved

/-- The instructions that accept an arithmetic prefix (R43). -/
def acceptsArith : Instr → Bool
  | .add _ _ _ | .sub _ _ _ | .mul _ _ _ | .min _ _ _ | .max _ _ _ | .neg _ _ | .iadd _ _ _ | .isub _ _ _
  | .and _ _ _ | .or _ _ _ | .xor _ _ _ | .shl _ _ _ | .shr _ _ _ | .sar _ _ _ | .movi _ _ | .addi _ _ _
  | .tagof _ _ | .laneid _ | .not _ _ | .abs _ _ | .fma _ _ _ _ _ | .div _ _ _ _ | .rem _ _ _ _ | .cmp _ _ _ _ _
  | .cvt _ _ _ _ | .hashv _ _ _ | .imul _ _ _ _ | .imulh _ _ _ _ _ | .imad _ _ _ _ _ | .idiv _ _ _ _ _
  | .irem _ _ _ _ _ | .imin _ _ _ _ _ | .imax _ _ _ _ _ | .icmp _ _ _ _ _ _ | .iaddi _ _ _ _ | .andi _ _ _ _
  | .ori _ _ _ _ | .xori _ _ _ _ | .shi _ _ _ _ _ | .rot _ _ _ _ _ | .popc _ _ _ | .clz _ _ _ | .bfx _ _ _ _ _ _
  | .bfi _ _ _ _ _ | .lea _ _ _ _ _ | .iaddc _ _ _ _ _ | .brev _ _ _ | .isat _ _ _ _ _ | .fadd _ _ _ _ _
  | .fsub _ _ _ _ _ | .fmul _ _ _ _ _ | .ffma _ _ _ _ _ _ | .fdiv _ _ _ _ _ | .fsqrt _ _ _ _ | .frcp _ _ _ _
  | .frsq _ _ _ _ | .fmin _ _ _ _ _ | .fmax _ _ _ _ _ | .fcmp _ _ _ _ _ _ | .fclass _ _ _ _ | .fexp2 _ _ _ _
  | .flog2 _ _ _ _ | .fsin _ _ _ _ | .fcos _ _ _ _ | .fcvt _ _ _ _ _ | .i2f _ _ _ _ _ | .f2i _ _ _ _ _
  | .frnd _ _ _ _ _ | .padd _ _ _ _ _ | .pmul _ _ _ _ _ | .pfma _ _ _ _ _ _ | .pdot _ _ _ _ _ _ | .pmax _ _ _ _ _
  | .pcvt _ _ _ _ _ | .qpack _ _ _ _ | .qunpk _ _ _ _ | .rdx _ _ _ _ | .scan _ _ _ _ _ | .segrdx _ _ _ _ _
  | .salu _ _ _ _ _ => true
  | .nop | .mov _ _ | .join | .yield | .exit | .bar _ | .serb | .sere | .ret _ | .retl _ | .txend | .shflx _ _ _
  | .iadd32 _ _ _ | .isub32 _ _ _ | .imul32 _ _ _ | .movt _ _ | .syncw | .ballot32 _ _ | .shfl32 _ _ _
  | .tageq _ _ _ | .movk _ _ _ _ | .movh _ _ _ _ | .retag _ _ _ _ | .chktag _ _ _ _ | .testtag _ _ _ _ _
  | .sel _ _ _ _ _ | .eqv _ _ _ _ | .shfl _ _ _ _ _ _ | .vote _ _ _ _ | .matchv _ _ _ | .bcast _ _ _ _
  | .smov _ _ _ | .smovFromLane _ _ _ _ | .smovToLanes _ _ _ | .scmp _ _ _ _ _ _ | .brd _ _ _ _ | .bwr _ _ _
  | .lanesel _ _ _ | .ld _ _ _ _ _ | .st _ _ _ _ _ | .ldinv _ _ _ _ _ | .lds _ _ _ _ _ | .sts _ _ _ _ _
  | .ldref _ _ _ _ | .ldf _ _ _ _ | .stf _ _ _ _ | .hdrld _ _ _ | .nalloc _ _ _ _ | .nset _ _ _
  | .atom _ _ _ _ _ _ | .cas _ _ _ _ _ _ | .fence _ _ _ _ | .waitc _ _ _ _ _ | .waitp _ _ _ | .pref _ _ _ _
  | .cctl _ _ _ _ | .txbegin _ _ _ | .txabort _ _ | .txstat _ _ | .ldx _ _ _ _ _ _ | .acpy _ _ _ _ _ _
  | .amcast _ _ _ _ _ | .agath _ _ _ _ _ _ | .ascat _ _ _ _ _ _ | .hcpy _ _ _ _ _ _ | .acoll _ _ _ _ _ _ _ _
  | .tlbind _ _ _ | .tlwait _ _ _ | .tlread _ _ _ | .tlsig _ _ _ | .acancel _ _ _ | .sxpd _ _ _ _ _ _
  | .spack _ _ _ _ _ _ | .tdesc _ _ _ _ _ _ | .talloc _ _ | .tfree _ _ | .mmaz _ _ _ _ _ _ | .mma _ _ _ _ _ _
  | .mmag _ _ _ _ _ _ | .gangset _ _ | .drain _ _ _ _ _ | .drainT _ _ _ _ _ _ | .drainAdd _ _ _ _ _ | .accld _ _ _
  | .accrd _ _ _ _ | .bra _ _ | .brx _ _ | .call _ _ _ | .callx _ _ _ | .interval _ _ _ | .splitw _ _ _
  | .fusew _ _ _ | .width _ _ | .legacyEnter _ | .legacyLeave _ | .barc _ _ _ | .spawn _ _ _ _ _
  | .launchp _ _ _ _ _ | .shape _ _ _ | .specq _ _ | .trap _ _ | .bru _ _ | .sysrd _ _ _ | .syswr _ _ _
  | .time _ _ | .clock _ _ | .icinv _ _ | .icinvAll _ | .vqpush _ _ _ | .rett _ | .hcall _ _ | .perf _ _ _
  | .fmad _ _ _ _ _ | .mma16 _ _ _ _ | .mma32 _ _ _ _ | .xpand _ _ _ | .allocw _ _ _ _ | .ldbar _ _ _ _
  | .gcmark _ _ | .fenceg _ | .fences _ | .spawn1 _ _ _ _ | .waitall _ | .cvtq8 _ _ _ | .sqrt64 _ _ _
  | .ldg32 _ _ _ _ | .stg32 _ _ _ _ | .bcastw _ _ _ | .fusewTimeout _ | .splitTurnExpiry _ | .warpDue _
  | .taskPlace _ | .taskEnd _ | .loadComplete _ _ | .storePerformed _ | .atomicComplete _
  | .engineCommandStart _ _ | .engineCommandComplete _ _ _ | .engineCommandFail _ _ _ _ | .tileOpAccept _
  | .tileOpComplete _ | .trowelUpdate _ | .launchResolutionComplete _ | .launchComplete _ | .doorbell _ _
  | .s1inv _ | .queueEntryAccept _ _ | .queueMap _ _ | .packetSend _ | .packetAdmit _ | .rateRecovery
  | .hbmRequestServe _ | .allotWrite _ _ | .castlingGo _ | .castlingSweepComplete _ | .castlingCgraceExpiry _
  | .castlingScrub _ | .castlingCommit _ | .vfEnable _ | .saveAreaProbe _ | .cmdStopSave _ | .cmdRestore _
  | .cmdKill _ | .cmdContinue _ | .sliceExpiry _ | .graceExpiry _ | .killExpiry _ | .saveComplete _
  | .restoreComplete _ | .s2Invalidate _ | .s2InvalidateComplete _ | .hvActionRetry _ _ | .hvActionConvert _ _
  | .hvActionHcall _ _ | .eventRingPost | .hostWindowAccess _ _ _ | .fabricMemoryAccess _ _ _ _
  | .fabricLaunchPacket _ _ _ _ | .vfFlr _ | .deviceReset | .firmwareImageLoad _ | .attestDeviceReport
  | .attestVfReport _ | .uncorrectableError _ | .correctedError | .patrolScrub | .blockWake _
  | .frequencyChange _ _ | .swienekTranslate _ _ | .registerWrite _ _ _ _ | .encodingNotInstruction
  | .unitFetchFault _ _ | .cleanLineRefetch _ _ | .blockGating _ | .workingSetStaged _
  | .fabricCollectiveTraffic _ => false

/-- The instructions that accept a placement prefix (R43); of the retired ones, R365. -/
def acceptsPlace : Instr → Bool
  | .ld _ _ _ _ _ | .st _ _ _ _ _ | .ldinv _ _ _ _ _ | .lds _ _ _ _ _ | .sts _ _ _ _ _ | .ldref _ _ _ _
  | .ldf _ _ _ _ | .stf _ _ _ _ | .hdrld _ _ _ | .nalloc _ _ _ _ | .atom _ _ _ _ _ _ | .cas _ _ _ _ _ _
  | .pref _ _ _ _ | .ldx _ _ _ _ _ _ | .acpy _ _ _ _ _ _ | .amcast _ _ _ _ _ | .agath _ _ _ _ _ _
  | .ascat _ _ _ _ _ _ | .hcpy _ _ _ _ _ _ | .sxpd _ _ _ _ _ _ | .spack _ _ _ _ _ _ | .drain _ _ _ _ _
  | .drainT _ _ _ _ _ _ | .drainAdd _ _ _ _ _ | .ldbar _ _ _ _ | .ldg32 _ _ _ _ | .stg32 _ _ _ _ => true
  | .nop | .mov _ _ | .add _ _ _ | .sub _ _ _ | .mul _ _ _ | .min _ _ _ | .max _ _ _ | .neg _ _ | .iadd _ _ _
  | .isub _ _ _ | .and _ _ _ | .or _ _ _ | .xor _ _ _ | .shl _ _ _ | .shr _ _ _ | .sar _ _ _ | .movi _ _
  | .addi _ _ _ | .tagof _ _ | .laneid _ | .join | .yield | .exit | .bar _ | .serb | .sere | .ret _ | .retl _
  | .txend | .shflx _ _ _ | .not _ _ | .abs _ _ | .iadd32 _ _ _ | .isub32 _ _ _ | .imul32 _ _ _ | .movt _ _
  | .syncw | .ballot32 _ _ | .shfl32 _ _ _ | .tageq _ _ _ | .movk _ _ _ _ | .movh _ _ _ _ | .retag _ _ _ _
  | .chktag _ _ _ _ | .testtag _ _ _ _ _ | .sel _ _ _ _ _ | .fma _ _ _ _ _ | .div _ _ _ _ | .rem _ _ _ _
  | .cmp _ _ _ _ _ | .eqv _ _ _ _ | .cvt _ _ _ _ | .hashv _ _ _ | .imul _ _ _ _ | .imulh _ _ _ _ _
  | .imad _ _ _ _ _ | .idiv _ _ _ _ _ | .irem _ _ _ _ _ | .imin _ _ _ _ _ | .imax _ _ _ _ _ | .icmp _ _ _ _ _ _
  | .iaddi _ _ _ _ | .andi _ _ _ _ | .ori _ _ _ _ | .xori _ _ _ _ | .shi _ _ _ _ _ | .rot _ _ _ _ _ | .popc _ _ _
  | .clz _ _ _ | .bfx _ _ _ _ _ _ | .bfi _ _ _ _ _ | .lea _ _ _ _ _ | .iaddc _ _ _ _ _ | .brev _ _ _
  | .isat _ _ _ _ _ | .fadd _ _ _ _ _ | .fsub _ _ _ _ _ | .fmul _ _ _ _ _ | .ffma _ _ _ _ _ _ | .fdiv _ _ _ _ _
  | .fsqrt _ _ _ _ | .frcp _ _ _ _ | .frsq _ _ _ _ | .fmin _ _ _ _ _ | .fmax _ _ _ _ _ | .fcmp _ _ _ _ _ _
  | .fclass _ _ _ _ | .fexp2 _ _ _ _ | .flog2 _ _ _ _ | .fsin _ _ _ _ | .fcos _ _ _ _ | .fcvt _ _ _ _ _
  | .i2f _ _ _ _ _ | .f2i _ _ _ _ _ | .frnd _ _ _ _ _ | .padd _ _ _ _ _ | .pmul _ _ _ _ _ | .pfma _ _ _ _ _ _
  | .pdot _ _ _ _ _ _ | .pmax _ _ _ _ _ | .pcvt _ _ _ _ _ | .qpack _ _ _ _ | .qunpk _ _ _ _ | .shfl _ _ _ _ _ _
  | .vote _ _ _ _ | .rdx _ _ _ _ | .scan _ _ _ _ _ | .segrdx _ _ _ _ _ | .matchv _ _ _ | .bcast _ _ _ _
  | .smov _ _ _ | .smovFromLane _ _ _ _ | .smovToLanes _ _ _ | .salu _ _ _ _ _ | .scmp _ _ _ _ _ _ | .brd _ _ _ _
  | .bwr _ _ _ | .lanesel _ _ _ | .nset _ _ _ | .fence _ _ _ _ | .waitc _ _ _ _ _ | .waitp _ _ _ | .cctl _ _ _ _
  | .txbegin _ _ _ | .txabort _ _ | .txstat _ _ | .acoll _ _ _ _ _ _ _ _ | .tlbind _ _ _ | .tlwait _ _ _
  | .tlread _ _ _ | .tlsig _ _ _ | .acancel _ _ _ | .tdesc _ _ _ _ _ _ | .talloc _ _ | .tfree _ _
  | .mmaz _ _ _ _ _ _ | .mma _ _ _ _ _ _ | .mmag _ _ _ _ _ _ | .gangset _ _ | .accld _ _ _ | .accrd _ _ _ _
  | .bra _ _ | .brx _ _ | .call _ _ _ | .callx _ _ _ | .interval _ _ _ | .splitw _ _ _ | .fusew _ _ _ | .width _ _
  | .legacyEnter _ | .legacyLeave _ | .barc _ _ _ | .spawn _ _ _ _ _ | .launchp _ _ _ _ _ | .shape _ _ _
  | .specq _ _ | .trap _ _ | .bru _ _ | .sysrd _ _ _ | .syswr _ _ _ | .time _ _ | .clock _ _ | .icinv _ _
  | .icinvAll _ | .vqpush _ _ _ | .rett _ | .hcall _ _ | .perf _ _ _ | .fmad _ _ _ _ _ | .mma16 _ _ _ _
  | .mma32 _ _ _ _ | .xpand _ _ _ | .allocw _ _ _ _ | .gcmark _ _ | .fenceg _ | .fences _ | .spawn1 _ _ _ _
  | .waitall _ | .cvtq8 _ _ _ | .sqrt64 _ _ _ | .bcastw _ _ _ | .fusewTimeout _ | .splitTurnExpiry _ | .warpDue _
  | .taskPlace _ | .taskEnd _ | .loadComplete _ _ | .storePerformed _ | .atomicComplete _
  | .engineCommandStart _ _ | .engineCommandComplete _ _ _ | .engineCommandFail _ _ _ _ | .tileOpAccept _
  | .tileOpComplete _ | .trowelUpdate _ | .launchResolutionComplete _ | .launchComplete _ | .doorbell _ _
  | .s1inv _ | .queueEntryAccept _ _ | .queueMap _ _ | .packetSend _ | .packetAdmit _ | .rateRecovery
  | .hbmRequestServe _ | .allotWrite _ _ | .castlingGo _ | .castlingSweepComplete _ | .castlingCgraceExpiry _
  | .castlingScrub _ | .castlingCommit _ | .vfEnable _ | .saveAreaProbe _ | .cmdStopSave _ | .cmdRestore _
  | .cmdKill _ | .cmdContinue _ | .sliceExpiry _ | .graceExpiry _ | .killExpiry _ | .saveComplete _
  | .restoreComplete _ | .s2Invalidate _ | .s2InvalidateComplete _ | .hvActionRetry _ _ | .hvActionConvert _ _
  | .hvActionHcall _ _ | .eventRingPost | .hostWindowAccess _ _ _ | .fabricMemoryAccess _ _ _ _
  | .fabricLaunchPacket _ _ _ _ | .vfFlr _ | .deviceReset | .firmwareImageLoad _ | .attestDeviceReport
  | .attestVfReport _ | .uncorrectableError _ | .correctedError | .patrolScrub | .blockWake _
  | .frequencyChange _ _ | .swienekTranslate _ _ | .registerWrite _ _ _ _ | .encodingNotInstruction
  | .unitFetchFault _ _ | .cleanLineRefetch _ _ | .blockGating _ | .workingSetStaged _
  | .fabricCollectiveTraffic _ => false

/-! ### Units (R33, R39 to R44, R64) -/

/-- The arithmetic prefix (R40). -/
structure ArithPrefix where
  rm : RMode
  sat : Bool
  ftz : Bool
  notrap : Bool
  deriving DecidableEq, Repr

/-- The placement prefix (R41). -/
structure PlacePrefix where
  scope : BitVec 3
  pol : BitVec 2
  deriving DecidableEq, Repr

/-- An arithmetic prefix word: its must-be-zero range and its rounding mode are checked (R40, R60). -/
def ArithPrefix.ofWord (w : W32) : Option ArithPrefix :=
  if w.extractLsb' 11 21 == 0 then
    (RMode.ofCode ((w.extractLsb' 5 3).setWidth 8)).map fun m =>
      ⟨m, w.extractLsb' 8 1 == 1, w.extractLsb' 9 1 == 1, w.extractLsb' 10 1 == 1⟩
  else none

/-- The word of an arithmetic prefix (R40). -/
def ArithPrefix.word (p : ArithPrefix) : W32 :=
  (0 : BitVec 21) ++ (if p.notrap then (1 : BitVec 1) else 0) ++ (if p.ftz then (1 : BitVec 1) else 0)
    ++ (if p.sat then (1 : BitVec 1) else 0) ++ p.rm.code.setWidth 3 ++ (0 : BitVec 3) ++ (2 : BitVec 2)

/-- A placement prefix word: its must-be-zero range and its scope are checked (R41, R60). -/
def PlacePrefix.ofWord (w : W32) : Option PlacePrefix :=
  if w.extractLsb' 10 22 == 0 && w.extractLsb' 5 3 != 7 then
    some ⟨w.extractLsb' 5 3, w.extractLsb' 8 2⟩
  else none

/-- The word of a placement prefix (R41). -/
def PlacePrefix.word (p : PlacePrefix) : W32 :=
  (0 : BitVec 22) ++ p.pol ++ p.scope ++ (2 : BitVec 3) ++ (2 : BitVec 2)

/-- Why a run of words is no unit. -/
inductive DecErr where
  /-- LS = 0b11 (R32). ILLEGAL. -/
  | lengthSelector
  /-- A prefix of no kind, or with a field that R39 to R41 refuse. ILLEGAL. -/
  | badPrefix
  /-- A reserved opcode or the filler (R60). ILLEGAL. -/
  | reserved
  /-- An opcode of a masked feature (R63). ILLEGAL, and counted. -/
  | masked
  /-- A live or retired opcode whose fields break its rules (R45 to R58, R62). ILLEGAL. -/
  | fieldRule
  /-- A third prefix (R42). ORPHAN_PREFIX. -/
  | thirdPrefix
  /-- A prefix of the kind of an earlier one (R42). ORPHAN_PREFIX. -/
  | repeatedPrefix
  /-- The instruction does not accept a kind that is present (R42, R43). ORPHAN_PREFIX. -/
  | notAccepted
  /-- The bytes end inside the unit: only `decodeBytes` answers it. -/
  | truncated
  deriving DecidableEq, Repr

/-- ORPHAN_PREFIX rather than ILLEGAL (R42). -/
def DecErr.orphan : DecErr → Bool
  | .thirdPrefix | .repeatedPrefix | .notAccepted => true
  | .lengthSelector | .badPrefix | .reserved | .masked | .fieldRule | .truncated => false

/-- What has been decoded of a unit: its prefixes and, after word 0 of a long instruction, that word. -/
structure UnitDec where
  arith : Option ArithPrefix
  place : Option PlacePrefix
  word0 : Option W32
  deriving DecidableEq, Repr

/-- At the start of a unit. -/
def UnitDec.start : UnitDec := ⟨none, none, none⟩

/-- A decoded unit: its instruction and its prefixes (R33). -/
structure Decoded where
  instr : Instr
  arith : Option ArithPrefix
  place : Option PlacePrefix
  deriving DecidableEq, Repr

/-- What one more word makes of a unit. -/
inductive DecStep where
  | more (st : UnitDec)
  | done (u : Decoded)
  | reject (e : DecErr)
  deriving DecidableEq, Repr

/-- Features masked for the context (R63, R323): [0] transactions, [1] host copy, [2] predicted-shape launch. -/
def shortMasked (mask : BitVec 4) (op : BitVec 6) : Bool := mask.getLsbD 0 && op == 0x1C
/-- The masked long opcodes (R63). -/
def longMasked (mask : BitVec 4) (op : Byte) : Bool :=
  (mask.getLsbD 0 && (op == 0x82 || op == 0x83 || op == 0x84)) ||
  (mask.getLsbD 1 && op == 0x94) ||
  (mask.getLsbD 2 && (op == 0xBB || op == 0xBC || op == 0xBD))

/-- Items 5 and 6 of R64, once every word of the unit is known. -/
def UnitDec.finish (st : UnitDec) (i : Option Instr) : DecStep :=
  match i with
  | none => .reject .fieldRule
  | some i =>
    if !i.wf then .reject .fieldRule
    else if (st.arith.isSome && !acceptsArith i) || (st.place.isSome && !acceptsPlace i) then .reject .notAccepted
    else .done ⟨i, st.arith, st.place⟩

/-- A prefix word: its own checks first, then the run (R42, R64 item 2). -/
def UnitDec.feedPrefix (st : UnitDec) (w : W32) : DecStep :=
  match (w.extractLsb' 2 3).toNat with
  | 0 =>
    match ArithPrefix.ofWord w with
    | none => .reject .badPrefix
    | some p =>
      if st.arith.isSome && st.place.isSome then .reject .thirdPrefix
      else if st.arith.isSome then .reject .repeatedPrefix
      else .more { st with arith := some p }
  | 2 =>
    match PlacePrefix.ofWord w with
    | none => .reject .badPrefix
    | some p =>
      if st.arith.isSome && st.place.isSome then .reject .thirdPrefix
      else if st.place.isSome then .reject .repeatedPrefix
      else .more { st with place := some p }
  | _ => .reject .badPrefix

/-- One more word of a unit (R64). -/
def UnitDec.feed (mask : BitVec 4) (st : UnitDec) (w : W32) : DecStep :=
  match st.word0 with
  | some w0 => st.finish (decLong (longF w0 w))
  | none =>
    match (w.extractLsb' 0 2).toNat with
    | 0 =>
      match shortClass (shortF w).op with
      | .reserved => .reject .reserved
      | .retired => st.finish (decShort (shortF w))
      | .live => if shortMasked mask (shortF w).op then .reject .masked else st.finish (decShort (shortF w))
    | 1 =>
      match longClass (w.extractLsb' 2 8) with
      | .reserved => .reject .reserved
      | .retired => .more { st with word0 := some w }
      | .live => if longMasked mask (w.extractLsb' 2 8) then .reject .masked else .more { st with word0 := some w }
    | 2 => st.feedPrefix w
    | _ => .reject .lengthSelector

/-- Decoding of a list of words: the unit and the words after it. -/
def decodeWords (mask : BitVec 4) (st : UnitDec) : List W32 → Except DecErr (Decoded × List W32)
  | [] => .error .truncated
  | w :: ws =>
    match st.feed mask w with
    | .more st' => decodeWords mask st' ws
    | .done u => .ok (u, ws)
    | .reject e => .error e

/-- A word from its four bytes, little-endian (R32). -/
def wordOfBytes (b0 b1 b2 b3 : Byte) : W32 := b3 ++ b2 ++ b1 ++ b0

/-- The four bytes of a word, little-endian (R32). -/
def wordBytes (w : W32) : List Byte :=
  [w.extractLsb' 0 8, w.extractLsb' 8 8, w.extractLsb' 16 8, w.extractLsb' 24 8]

/-- The whole words of a list of bytes. -/
def wordsOfBytes : List Byte → List W32
  | b0 :: b1 :: b2 :: b3 :: bs => wordOfBytes b0 b1 b2 b3 :: wordsOfBytes bs
  | _ => []

/-- Decoding of any bytes: total, and a rejection has a name. -/
def decodeBytes (bs : List Byte) : Except DecErr (Decoded × List W32) :=
  decodeWords 0 .start (wordsOfBytes bs)

/-! ### The encoder -/

/-- The words of an instruction (R48 to R58, R61); an event has none. -/
def encode : Instr → List W32
  | .nop => [shortWord 0x00 0 0 0]
  | .mov d a => [shortWord 0x01 d a 0]
  | .add d a b => [shortWord 0x02 d a b]
  | .sub d a b => [shortWord 0x03 d a b]
  | .mul d a b => [shortWord 0x04 d a b]
  | .min d a b => [shortWord 0x05 d a b]
  | .max d a b => [shortWord 0x06 d a b]
  | .neg d a => [shortWord 0x07 d a 0]
  | .iadd d a b => [shortWord 0x08 d a b]
  | .isub d a b => [shortWord 0x09 d a b]
  | .and d a b => [shortWord 0x0A d a b]
  | .or d a b => [shortWord 0x0B d a b]
  | .xor d a b => [shortWord 0x0C d a b]
  | .shl d a b => [shortWord 0x0D d a b]
  | .shr d a b => [shortWord 0x0E d a b]
  | .sar d a b => [shortWord 0x0F d a b]
  | .movi d imm => [shortWord 0x10 d (imm.extractLsb' 8 8) (imm.extractLsb' 0 8)]
  | .addi d a imm => [shortWord 0x11 d a imm]
  | .tagof d a => [shortWord 0x12 d a 0]
  | .laneid d => [shortWord 0x13 d 0 0]
  | .join => [shortWord 0x14 0 0 0]
  | .yield => [shortWord 0x15 0 0 0]
  | .exit => [shortWord 0x16 0 0 0]
  | .bar n => [shortWord 0x17 n 0 0]
  | .serb => [shortWord 0x18 0 0 0]
  | .sere => [shortWord 0x19 0 0 0]
  | .ret a => [shortWord 0x1A 0 a 0]
  | .retl a => [shortWord 0x1B 0 a 0]
  | .txend => [shortWord 0x1C 0 0 0]
  | .shflx d a m => [shortWord 0x1D d a m]
  | .not d a => [shortWord 0x1E d a 0]
  | .abs d a => [shortWord 0x1F d a 0]
  | .iadd32 d a b => [shortWord 0x30 d a b]
  | .isub32 d a b => [shortWord 0x31 d a b]
  | .imul32 d a b => [shortWord 0x32 d a b]
  | .movt d a => [shortWord 0x33 d a 0]
  | .syncw => [shortWord 0x34 0 0 0]
  | .ballot32 d a => [shortWord 0x35 d a 0]
  | .shfl32 d a b => [shortWord 0x36 d a b]
  | .tageq d a b => [shortWord 0x37 d a b]
  | .movk g k d imm => [longWord 0x00 g k.code d 0, imm]
  | .movh g k d imm => [longWord 0x01 g k.code d 0, imm]
  | .retag g d a t => [longWord 0x02 g 0 d a, wordR t.code 0 0]
  | .chktag g a t m => [longWord 0x03 g 0 0 a, wordR t.code m 0]
  | .testtag g d a t m => [longWord 0x04 g 0 d a, wordR t.code m 0]
  | .sel g d a b c => [longWord 0x05 g 0 d a, wordR b c 0]
  | .fma g d a b c => [longWord 0x06 g 0 d a, wordR b c 0]
  | .div g d a b => [longWord 0x07 g 0 d a, wordR b 0 0]
  | .rem g d a b => [longWord 0x08 g 0 d a, wordR b 0 0]
  | .cmp g cc d a b => [longWord 0x09 g 0 d a, wordR b 0 cc.code]
  | .eqv g d a b => [longWord 0x0A g 0 d a, wordR b 0 0]
  | .cvt g d a t => [longWord 0x0B g 0 d a, wordR t.code 0 0]
  | .hashv g d a => [longWord 0x0C g 0 d a, wordR 0 0 0]
  | .imul g d a b => [longWord 0x20 g 0 d a, wordR b 0 0]
  | .imulh g sg d a b => [longWord 0x21 g sg.code d a, wordR b 0 0]
  | .imad g d a b c => [longWord 0x22 g 0 d a, wordR b c 0]
  | .idiv g sg d a b => [longWord 0x23 g sg.code d a, wordR b 0 0]
  | .irem g sg d a b => [longWord 0x24 g sg.code d a, wordR b 0 0]
  | .imin g sg d a b => [longWord 0x25 g sg.code d a, wordR b 0 0]
  | .imax g sg d a b => [longWord 0x26 g sg.code d a, wordR b 0 0]
  | .icmp g sg cc d a b => [longWord 0x27 g sg.code d a, wordR b 0 cc.code]
  | .iaddi g d a imm => [longWord 0x28 g 0 d a, imm]
  | .andi g d a imm => [longWord 0x29 g 0 d a, imm]
  | .ori g d a imm => [longWord 0x2A g 0 d a, imm]
  | .xori g d a imm => [longWord 0x2B g 0 d a, imm]
  | .shi g k d a n => [longWord 0x2C g k.code d a, wordR n 0 0]
  | .rot g k d a b => [longWord 0x2D g k.code d a, wordR b 0 0]
  | .popc g d a => [longWord 0x2E g 0 d a, wordR 0 0 0]
  | .clz g d a => [longWord 0x2F g 0 d a, wordR 0 0 0]
  | .bfx g sx d a pos len => [longWord 0x30 g (subBit sx) d a, wordR pos len 0]
  | .bfi g d a pos len => [longWord 0x31 g 0 d a, wordR pos len 0]
  | .lea g d a b sh => [longWord 0x32 g 0 d a, wordR b 0 ((0 : BitVec 5) ++ sh)]
  | .iaddc g d a b c => [longWord 0x33 g 0 d a, wordR b c 0]
  | .brev g d a => [longWord 0x34 g 0 d a, wordR 0 0 0]
  | .isat g w u d a => [longWord 0x35 g w.code d a, wordR 0 0 (modBit u)]
  | .fadd g f d a b => [longWord 0x40 g f.code d a, wordR b 0 0]
  | .fsub g f d a b => [longWord 0x41 g f.code d a, wordR b 0 0]
  | .fmul g f d a b => [longWord 0x42 g f.code d a, wordR b 0 0]
  | .ffma g f d a b c => [longWord 0x43 g f.code d a, wordR b c 0]
  | .fdiv g f d a b => [longWord 0x44 g f.code d a, wordR b 0 0]
  | .fsqrt g f d a => [longWord 0x45 g f.code d a, wordR 0 0 0]
  | .frcp g f d a => [longWord 0x46 g f.code d a, wordR 0 0 0]
  | .frsq g f d a => [longWord 0x47 g f.code d a, wordR 0 0 0]
  | .fmin g f d a b => [longWord 0x48 g f.code d a, wordR b 0 0]
  | .fmax g f d a b => [longWord 0x49 g f.code d a, wordR b 0 0]
  | .fcmp g f cc d a b => [longWord 0x4A g f.code d a, wordR b 0 cc.code]
  | .fclass g f d a => [longWord 0x4B g f.code d a, wordR 0 0 0]
  | .fexp2 g f d a => [longWord 0x4C g f.code d a, wordR 0 0 0]
  | .flog2 g f d a => [longWord 0x4D g f.code d a, wordR 0 0 0]
  | .fsin g f d a => [longWord 0x4E g f.code d a, wordR 0 0 0]
  | .fcos g f d a => [longWord 0x4F g f.code d a, wordR 0 0 0]
  | .fcvt g f src d a => [longWord 0x50 g f.code d a, wordR 0 0 src.code]
  | .i2f g f u d a => [longWord 0x51 g f.code d a, wordR 0 0 (modBit u)]
  | .f2i g f u d a => [longWord 0x52 g f.code d a, wordR 0 0 (modBit u)]
  | .frnd g f m d a => [longWord 0x53 g f.code d a, wordR 0 0 m.code]
  | .padd g k d a b => [longWord 0x54 g k.code d a, wordR b 0 0]
  | .pmul g k d a b => [longWord 0x55 g k.code d a, wordR b 0 0]
  | .pfma g k d a b c => [longWord 0x56 g k.code d a, wordR b c 0]
  | .pdot g bf d a b c => [longWord 0x57 g (dotSub bf) d a, wordR b c 0]
  | .pmax g k d a b => [longWord 0x58 g k.code d a, wordR b 0 0]
  | .pcvt g src dst d a => [longWord 0x59 g 0 d a, wordR 0 0 (dst.code ++ src.code)]
  | .qpack g k d a => [longWord 0x5A g k.code d a, wordR 0 0 0]
  | .qunpk g k d a => [longWord 0x5B g k.code d a, wordR 0 0 0]
  | .shfl g k imm d a b => [longWord 0x60 g k.code d a, wordR b 0 (modBit imm)]
  | .vote g k d a => [longWord 0x61 g k.code d a, wordR 0 0 0]
  | .rdx g op d a => [longWord 0x62 g 0 d a, wordR 0 0 op.code]
  | .scan g op excl d a => [longWord 0x63 g (subBit excl) d a, wordR 0 0 op.code]
  | .segrdx g op d a c => [longWord 0x64 g 0 d a, wordR 0 c op.code]
  | .matchv g d a => [longWord 0x65 g 0 d a, wordR 0 0 0]
  | .bcast g d a lane => [longWord 0x66 g 0 d a, wordR lane 0 0]
  | .smov g d a => [longWord 0x67 g 0 d a, wordR 0 0 0]
  | .smovFromLane g d a lane => [longWord 0x67 g 1 d a, wordR lane 0 0]
  | .smovToLanes g d a => [longWord 0x67 g 2 d a, wordR 0 0 0]
  | .salu g op d a b => [longWord 0x68 g 0 d a, wordR b 0 op.code]
  | .scmp g sg cc d a b => [longWord 0x69 g sg.code d a, wordR b 0 cc.code]
  | .brd g toV d a => [longWord 0x6A g (subBit toV) d a, wordR 0 0 0]
  | .bwr g d a => [longWord 0x6B g 0 d a, wordR 0 0 0]
  | .lanesel g d a => [longWord 0x6C g 0 d a, wordR 0 0 0]
  | .ld g ty d base imm => [longWord 0x70 g ty.codes.1 d base.reg, wordM (base.field ty.codes.2) imm]
  | .st g ty d base imm => [longWord 0x71 g ty.codes.1 d base.reg, wordM (base.field ty.codes.2) imm]
  | .ldinv g ty d base imm => [longWord 0x72 g ty.codes.1 d base.reg, wordM (base.field ty.codes.2) imm]
  | .lds g ty d base imm => [longWord 0x73 g ty.codes.1 d base.reg, wordM (base.field ty.codes.2) imm]
  | .sts g ty d base imm => [longWord 0x74 g ty.codes.1 d base.reg, wordM (base.field ty.codes.2) imm]
  | .ldref g d base imm => [longWord 0x75 g 3 d base.reg, wordM (base.field 0) imm]
  | .ldf g d a idx => [longWord 0x76 g 3 d a, wordM 0 idx]
  | .stf g d a idx => [longWord 0x77 g 3 d a, wordM 0 idx]
  | .hdrld g d a => [longWord 0x78 g 3 d a, wordM 0 0]
  | .nalloc g d a b => [longWord 0x79 g 0 d a, wordR b 0 0]
  | .nset g a b => [longWord 0x7A g 0 0 a, wordR b 0 0]
  | .atom g op sz a b imm => [longWord 0x7B g sz.code op.code a, wordM b imm]
  | .cas g sz d a b imm => [longWord 0x7C g sz.code d a, wordM b imm]
  | .fence g pred succ scope => [longWord 0x7D g 0 0 0, (0 : BitVec 21) ++ scope ++ succ ++ pred]
  | .waitc g ld st cp tile => [longWord 0x7E g 0 0 0, tile ++ cp ++ st ++ ld]
  | .waitp g a path => [longWord 0x7F g 0 0 a, wordR path 0 0]
  | .pref g l2 base imm => [longWord 0x80 g 0 0 base.reg, wordM (base.field ((0 : BitVec 6) ++ (if l2 then (1 : BitVec 1) else 0))) imm]
  | .cctl g op base imm => [longWord 0x81 g 0 0 base.reg, wordM (base.field op.code) imm]
  | .txbegin g d off => [longWord 0x82 g 0 d 0, off]
  | .txabort g code => [longWord 0x83 g 0 0 0, wordM code 0]
  | .txstat g d => [longWord 0x84 g 0 d 0, wordR 0 0 0]
  | .ldx g ty d a b sh => [longWord 0x85 g ty.codes.1 d a, wordR b ((0 : BitVec 1) ++ ty.codes.2) ((0 : BitVec 5) ++ sh)]
  | .acpy g dir d a b c => [longWord 0x90 g dir.code d a, wordR b c 0]
  | .amcast g d a b c => [longWord 0x91 g 0 d a, wordR b c 0]
  | .agath g esz d a b c => [longWord 0x92 g 0 d a, wordR b c ((0 : BitVec 6) ++ esz)]
  | .ascat g esz d a b c => [longWord 0x93 g 0 d a, wordR b c ((0 : BitVec 6) ++ esz)]
  | .hcpy g dir d a b c => [longWord 0x94 g dir.code d a, wordR b c 0]
  | .acoll g dom op ty d a b c => [longWord 0x95 g (subBit dom) d a, wordR b c ((0 : BitVec 2) ++ ty.code ++ op.code)]
  | .tlbind g d a => [longWord 0x96 g 0 d a, wordR 0 0 0]
  | .tlwait g d a => [longWord 0x97 g 0 d a, wordR 0 0 0]
  | .tlread g d a => [longWord 0x98 g 0 d a, wordR 0 0 0]
  | .tlsig g d a => [longWord 0x99 g 0 d a, wordR 0 0 0]
  | .acancel g d a => [longWord 0x9A g 0 d a, wordR 0 0 0]
  | .sxpd g f d a b c => [longWord 0xA0 g 0 d a, wordR b c f.codeScreed]
  | .spack g f d a b c => [longWord 0xA1 g 0 d a, wordR b c f.codeScreed]
  | .tdesc g k rot d a b => [longWord 0xA2 g 0 d a, wordR b 0 ((0 : BitVec 2) ++ k.code ++ rot)]
  | .talloc g d => [longWord 0xA3 g 0 d 0, wordR 0 0 0]
  | .tfree g a => [longWord 0xA4 g 0 0 a, wordR 0 0 0]
  | .mmaz g ad bd d a b => [longWord 0xA5 g ((if bd then (1 : BitVec 1) else 0) ++ (if ad then (1 : BitVec 1) else 0)) d a, wordR b 0 0]
  | .mma g ad bd d a b => [longWord 0xA6 g ((if bd then (1 : BitVec 1) else 0) ++ (if ad then (1 : BitVec 1) else 0)) d a, wordR b 0 0]
  | .mmag g ad bd d a b => [longWord 0xA7 g ((if bd then (1 : BitVec 1) else 0) ++ (if ad then (1 : BitVec 1) else 0)) d a, wordR b 0 0]
  | .gangset g a => [longWord 0xA8 g 0 0 a, wordR 0 0 0]
  | .drain g f mem d a => [longWord 0xA9 g 0 d a, wordR 0 0 ((0 : BitVec 4) ++ (if mem then (1 : BitVec 1) else 0) ++ f.codeDrain)]
  | .drainT g f mem d a b => [longWord 0xA9 g 1 d a, wordR b 0 ((0 : BitVec 4) ++ (if mem then (1 : BitVec 1) else 0) ++ f.codeDrain)]
  | .drainAdd g f mem d a => [longWord 0xA9 g 2 d a, wordR 0 0 ((0 : BitVec 4) ++ (if mem then (1 : BitVec 1) else 0) ++ f.codeDrain)]
  | .accld g d a => [longWord 0xAA g 0 d a, wordR 0 0 0]
  | .accrd g d a blk => [longWord 0xAB g 0 d a, wordR blk 0 0]
  | .bra g off => [longWord 0xB0 g 0 0 0, off]
  | .brx g a => [longWord 0xB1 g 0 0 a, wordR 0 0 0]
  | .call g d off => [longWord 0xB2 g 0 d 0, off]
  | .callx g d a => [longWord 0xB3 g 0 d a, wordR 0 0 0]
  | .interval g d m => [longWord 0xB4 g 0 d 0, m]
  | .splitw g w d => [longWord 0xB5 g w.code d 0, wordR 0 0 0]
  | .fusew g w d => [longWord 0xB6 g w.code d 0, wordR 0 0 0]
  | .width g d => [longWord 0xB7 g 0 d 0, wordR 0 0 0]
  | .legacyEnter g => [longWord 0xB8 g 0 0 0, wordR 0 0 0]
  | .legacyLeave g => [longWord 0xB8 g 1 0 0, wordR 0 0 0]
  | .barc g n a => [longWord 0xB9 g 0 n a, wordR 0 0 0]
  | .spawn g uni d a b => [longWord 0xBA g (subBit uni) d a, wordR b 0 0]
  | .launchp g d a b c => [longWord 0xBB g 0 d a, wordR b c 0]
  | .shape g a b => [longWord 0xBC g 0 0 a, wordR b 0 0]
  | .specq g d => [longWord 0xBD g 0 d 0, wordR 0 0 0]
  | .trap g code => [longWord 0xBE g 0 0 0, code]
  | .bru g off => [longWord 0xBF g 0 0 0, off]
  | .sysrd g d num => [longWord 0xD0 g 0 d 0, (0 : BitVec 20) ++ num]
  | .syswr g a num => [longWord 0xD1 g 0 0 a, (0 : BitVec 20) ++ num]
  | .time g d => [longWord 0xD2 g 0 d 0, wordR 0 0 0]
  | .clock g d => [longWord 0xD3 g 0 d 0, wordR 0 0 0]
  | .icinv g a => [longWord 0xD4 g 0 0 a, wordR 0 0 0]
  | .icinvAll g => [longWord 0xD4 g 1 0 0, wordR 0 0 0]
  | .vqpush g a b => [longWord 0xD5 g 0 0 a, wordR b 0 0]
  | .rett g => [longWord 0xD6 g 0 0 0, wordR 0 0 0]
  | .hcall g n => [longWord 0xD7 g 0 0 0, n]
  | .perf g d n => [longWord 0xD8 g 0 d 0, wordM n 0]
  | .fmad g d a b c => [longWord 0xE0 g 0 d a, wordR b c 0]
  | .mma16 g d a b => [longWord 0xE1 g 0 d a, wordR b 0 0]
  | .mma32 g d a b => [longWord 0xE2 g 0 d a, wordR b 0 0]
  | .xpand g d a => [longWord 0xE3 g 0 d a, wordR 0 0 0]
  | .allocw g d a b => [longWord 0xE4 g 0 d a, wordR b 0 0]
  | .ldbar g d base imm => [longWord 0xE5 g 0 d base.reg, wordM (base.field 0) imm]
  | .gcmark g a => [longWord 0xE6 g 0 0 a, wordR 0 0 0]
  | .fenceg g => [longWord 0xE7 g 0 0 0, 0]
  | .fences g => [longWord 0xE8 g 0 0 0, 0]
  | .spawn1 g d a b => [longWord 0xE9 g 0 d a, wordR b 0 0]
  | .waitall g => [longWord 0xEA g 0 0 0, 0]
  | .cvtq8 g d a => [longWord 0xEB g 0 d a, wordR 0 0 0]
  | .sqrt64 g d a => [longWord 0xEC g 0 d a, wordR 0 0 0]
  | .ldg32 g d base imm => [longWord 0xED g 0 d base.reg, wordM (base.field 0) imm]
  | .stg32 g d base imm => [longWord 0xEE g 0 d base.reg, wordM (base.field 0) imm]
  | .bcastw g d a => [longWord 0xEF g 0 d a, wordR 0 0 0]
  | .fusewTimeout _ => []
  | .splitTurnExpiry _ => []
  | .warpDue _ => []
  | .taskPlace _ => []
  | .taskEnd _ => []
  | .loadComplete _ _ => []
  | .storePerformed _ => []
  | .atomicComplete _ => []
  | .engineCommandStart _ _ => []
  | .engineCommandComplete _ _ _ => []
  | .engineCommandFail _ _ _ _ => []
  | .tileOpAccept _ => []
  | .tileOpComplete _ => []
  | .trowelUpdate _ => []
  | .launchResolutionComplete _ => []
  | .launchComplete _ => []
  | .doorbell _ _ => []
  | .s1inv _ => []
  | .queueEntryAccept _ _ => []
  | .queueMap _ _ => []
  | .packetSend _ => []
  | .packetAdmit _ => []
  | .rateRecovery => []
  | .hbmRequestServe _ => []
  | .allotWrite _ _ => []
  | .castlingGo _ => []
  | .castlingSweepComplete _ => []
  | .castlingCgraceExpiry _ => []
  | .castlingScrub _ => []
  | .castlingCommit _ => []
  | .vfEnable _ => []
  | .saveAreaProbe _ => []
  | .cmdStopSave _ => []
  | .cmdRestore _ => []
  | .cmdKill _ => []
  | .cmdContinue _ => []
  | .sliceExpiry _ => []
  | .graceExpiry _ => []
  | .killExpiry _ => []
  | .saveComplete _ => []
  | .restoreComplete _ => []
  | .s2Invalidate _ => []
  | .s2InvalidateComplete _ => []
  | .hvActionRetry _ _ => []
  | .hvActionConvert _ _ => []
  | .hvActionHcall _ _ => []
  | .eventRingPost => []
  | .hostWindowAccess _ _ _ => []
  | .fabricMemoryAccess _ _ _ _ => []
  | .fabricLaunchPacket _ _ _ _ => []
  | .vfFlr _ => []
  | .deviceReset => []
  | .firmwareImageLoad _ => []
  | .attestDeviceReport => []
  | .attestVfReport _ => []
  | .uncorrectableError _ => []
  | .correctedError => []
  | .patrolScrub => []
  | .blockWake _ => []
  | .frequencyChange _ _ => []
  | .swienekTranslate _ _ => []
  | .registerWrite _ _ _ _ => []
  | .encodingNotInstruction => []
  | .unitFetchFault _ _ => []
  | .cleanLineRefetch _ _ => []
  | .blockGating _ => []
  | .workingSetStaged _ => []
  | .fabricCollectiveTraffic _ => []

/-- The words of a unit: its prefixes, the arithmetic one first, and its instruction (R33, R69). -/
def Decoded.words (u : Decoded) : List W32 :=
  (u.arith.map ArithPrefix.word).toList ++ (u.place.map PlacePrefix.word).toList ++ encode u.instr

/-- The instruction this decoder reads from the bits `w` of an opcode-table row, numbered as the table
numbers them; bits from `nbits` on are zero. -/
def decodeTableWord (nbits w : Nat) : Option Instr :=
  match decodeBytes (wordBytes (BitVec.ofNat 32 (w % 2 ^ nbits)) ++ wordBytes (BitVec.ofNat 32 ((w % 2 ^ nbits) / 2 ^ 32))) with
  | .ok (u, _) => some u.instr
  | .error _ => none

end Sys2Proof
end

