-- ==== Sys2Proof/Config.lean ====
section
/-!
DEFINITION. What an implementation fixes and what the spec leaves open. Every opaque constant here is a
FREE VALUE: it has no body, so no proof can see what it is. Log entries 3, 6 and 7 name them.
-/
namespace Sys2Proof.Config

/-- A free choice, drawn at a value of the counter `State.tick` (log entry 3). -/
opaque pick : Nat → Nat
/-- A free choice for one part of a step: the counter and the part (log entry 3). -/
opaque pickAt : Nat → Nat → Nat
/-- A free 64-bit value, drawn at a value of the counter (log entry 3). -/
opaque freeWord : Nat → W64
/-- What a byte of a page that is mapped inside a tag pool holds, and a tag kept in that pool: at a value of the counter, by key (R308; log
entry 113). -/
opaque poolByte : Nat → Nat → Byte
opaque poolTag : Nat → Nat → Tag
/-- Nanoseconds of the reference counter that pass in one step (R364; log entry 6). -/
opaque nsPerStep : Nat → Nat
/-- Cycles of the arithmetic clock that pass in one step (R352; log entry 6). -/
opaque cyclesPerStep : Nat → Nat

/-- How much of the 10 µs of R183 a store may take until it is performed; the rest is left to the lines that hold its bytes
(log entry 101). -/
opaque performNs : Nat
/-- The finite time that R183 leaves without a bound (log entry 101). -/
opaque visibleNs : Nat

/-- Whether the host link or the fabric answers an access to a place with an error (R340, R347): at a value of the counter. -/
opaque linkError : Nat → Nat → Bool
/-- The flits of a packet of some bytes (R319; log entry 81). -/
opaque flitsOf : Nat → Nat

/-- Packets that a requester port can inject at its peak rate in one step (R320; log entry 6). -/
opaque packetsPerStep : Nat → Nat

/-- How many tasks of this package issue their match of a DOMAIN collective, by the identity of the first command of it (R246, R342; log
entry 102). -/
opaque groupTasks : Nat → Nat

/-- This package's number in its domain (R340, R342). -/
opaque package : Nat

/-- STEPPING of IDENT: 0xB0 and later (R1, R370); which one is the device's own. -/
opaque steppingCode : BitVec 8
/-- A production stepping (R1). -/
def stepping : BitVec 8 := if steppingCode.toNat < 0xB0 then 0xB0 else steppingCode
/-- FWREL's minor and patch fields (R349); the major field is 3 (R1). -/
opaque fwMinorPatch : BitVec 32
/-- RESERVE: which value of at most 4 GiB is the device's own (R23). -/
opaque reserveSize : Nat
/-- RESERVE (R23). -/
def reserveBytes : W64 := BitVec.ofNat 64 (Nat.min reserveSize (2 ^ 32))
/-- The device certificate and public key (R372, reset "—"). -/
opaque deviceCert : Nat → Byte
opaque devicePublicKey : Nat → Byte
/-- The image of the firmware that the device runs until another has been loaded (R372). -/
opaque factoryImage : List Byte
/-- The Ed25519 signature of a digest (R372): the private key is the device's. -/
opaque signature : List Byte → Nat → Byte
/-- The key under which a firmware image is signed (R371 does not say where it lies), and whether a signature of a digest
verifies under a key (Ed25519). -/
opaque signingKey : List Byte → List Byte
opaque ed25519Verifies : List Byte → List Byte → List Byte → Bool
/-- The fuses (R371): the digest of each of the four key slots, those revoked, and the least rollback number. -/
opaque fusedKey : Nat → List Byte
opaque revoked : Nat → Bool
opaque minRollback : Nat
/-- The number of images that the cache in the reserve holds (R78). -/
opaque imageRoom : Nat
/-- The order in which MMA16 and MMA32 lay the elements of their operands across registers and lanes (R61; log entry 12): by
opcode and operand, as a number of `orderOf`. -/
opaque mmaPlaces : Nat → Nat → Nat

/-- The set, 0 to 511, of its home slice in which the L2 keeps a line (R21: 512 sets; R208 counts them; log entry 7). -/
opaque l2Set : Nat → Nat

end Sys2Proof.Config
end

