-- ==== Sys2Proof/Machine/State.lean ====
section
/-!
DEFINITION. The state of the GX-960 as plain data. INVENTORY.md lists every field with the rule that names
it and its reset value. Tables (`Table α`) are lists of key and value pairs in canonical form: keys strictly
rising, and no entry that holds the table's default (Map.lean). Cross-references between warps, tasks,
launches and accesses are identities drawn from `nextId` (log entry 4).
-/
namespace Sys2Proof.Machine

/-- A table from keys to values; an unlisted key holds the table's default. -/
abbrev Table (α : Type) := List (Nat × α)

/-! ### Memory -/

/-- Memory: bytes (unlisted: 0), the tags of tagged words by the address of the word (unlisted: NIL), and the
poison marks of raw 128-byte lines by line number (R29, R83, R367; log entry 2). Addresses are physical, with
the space in bits [48] and up: partitions 0 to 15, host memory 16, fabric memory of package k 17 + k (R172, R308). -/
structure Mem where
  bytes : List Host.Cell
  tags : Table Tag
  marks : Table Bool
  deriving DecidableEq, Repr

/-- Nothing listed. -/
def Mem.empty : Mem := ⟨[], [], []⟩

/-- One line of a core's L1: its context id, its data, its dirty bytes, the poison mark it was given here, the scope its
last write recorded, and when its clean bytes were last taken from their home (text before R189, R183, R310, R367). -/
structure L1Line where
  core : Nat
  ctx : Nat
  line : Nat
  data : Mem
  dirty : LaneMask
  remark : Option Bool
  scope : Nat
  since : Nat
  deriving DecidableEq, Repr

/-- One line of a core's header partition: the line whose header words it holds, under a context id (R204, R205, R310). Its words
are kept coherent by invalidation, so they are the home's. -/
structure HdrLine where
  core : Nat
  id : Nat
  line : Nat
  deriving DecidableEq, Repr

/-- One line of a core's instruction cache (R353). -/
structure ILine where
  core : Nat
  ctx : Nat
  line : Nat
  bytes : List Byte
  poisoned : Bool
  deriving DecidableEq, Repr

/-- An aligned 8-byte word as it stood in memory until a write replaced it, at a value of `State.tick` (R353). -/
structure PastWord where
  key : Nat
  word : W64
  at_ : Nat
  deriving DecidableEq, Repr

/-- The kind of a page (R174). -/
inductive PageKind where
  | device | fabric | host
  deriving DecidableEq, Repr

/-- The final translation of a 64 KiB page: its physical base, kind, tag attribute, permissions of both
stages, and the guest-physical page (R329, R330, R369). -/
structure Trans where
  base : Nat
  gpa : Nat
  kind : PageKind
  tagged : Bool
  rd : Bool
  wr : Bool
  ex : Bool
  user : Bool
  s2rd : Bool
  s2wr : Bool
  s2ex : Bool
  deriving DecidableEq, Repr

/-- A cached translation: the context and the virtual page number (R324, R359); `bad` after an uncorrectable
error in an entry that made it, 1 of stage 1 and 2 of stage 2 (R367). -/
structure TlbEntry where
  ctx : Nat
  page : Nat
  tr : Trans
  bad : Nat
  deriving DecidableEq, Repr

/-- What a store writes in one aligned place: `size` bytes of `data`; `tag` is none for memory that holds no
tags; `poison` carries a poisoned source (R218, R391). An item of size 0 clears the mark of its raw line (R367). -/
structure StoreItem where
  key : Nat
  size : Nat
  data : W64
  tag : Option Tag
  poison : Bool
  deriving DecidableEq, Repr

/-! ### Accesses in flight (R193) -/

/-- One entry of a split's in-flight counters: which access, on which path, and whether it has completed
while an earlier one of its path has not. -/
structure Access where
  id : Nat
  path : Nat
  done : Bool
  deriving DecidableEq, Repr

/-- A register write that a load or an atomic will make: the warp, the lane, the declared register, and the warp-register of
the core that holds it with the generation it was issued under (R268). -/
structure RegWrite where
  warp : Nat
  lane : Nat
  reg : Nat
  word : Word
  row : Nat
  gen : BitVec 4
  deriving DecidableEq, Repr

/-- A load in flight: its values are sampled, its registers not yet written (R193, R194); the service class of its task and
the lines it requests beyond the core's L1 (R313, R316). -/
structure PendLoad where
  id : Nat
  core : Nat
  ctx : Nat
  dests : List RegWrite
  cls : Nat
  lines : List Nat
  deriving DecidableEq, Repr

/-- A store in flight: performed at the point its hint names (R193, R216). `prior` lists the accesses that precede it in
the program order of its split (R181), and `since` is when it was issued (R183). -/
structure PendStore where
  id : Nat
  warp : Nat
  task : Nat
  core : Nat
  ctx : Nat
  hint : Nat
  items : List StoreItem
  pages : List Nat
  prior : List Nat
  since : Nat
  deriving DecidableEq, Repr

/-- What an atomic does to the word it finds (R228, R229). -/
inductive AtomDo where
  | op (o : AtomOp) (operand : Word)
  | cas (expected new : Word)
  deriving DecidableEq, Repr

/-- One lane's part of an atomic in flight: the destination register and the location. `seen` is the word that holds the
location as the atomic has read it, where it has read it before an atomic that does not cover it wrote there (R182). -/
structure AtomItem where
  warp : Nat
  lane : Nat
  reg : Nat
  key : Nat
  size : Nat
  tagged : Bool
  act : AtomDo
  seen : Option Word
  row : Nat
  gen : BitVec 4
  deriving DecidableEq, Repr

/-- An ATOM or CAS in flight (R228, R229), with its scope hint (R182); `prior` and `since` as for a store. -/
structure PendAtom where
  id : Nat
  warp : Nat
  task : Nat
  core : Nat
  ctx : Nat
  hint : Nat
  items : List AtomItem
  pages : List Nat
  prior : List Nat
  since : Nat
  deriving DecidableEq, Repr

/-! ### Warps -/

/-- A split's trap frame (R345, R347). -/
structure TrapFrame where
  epc : W64
  cause : W64
  fm0 : W64
  fm1 : W64
  tval : W64
  estat : W64
  deriving DecidableEq, Repr

/-- BUSY 0 (R347), the rest DESIGN CHOICE zero (log entry 1). -/
def TrapFrame.fresh : TrapFrame := ⟨0, 0, 0, 0, 0, 0⟩

/-- A scratchpad descriptor pair (R138). -/
structure SDesc where
  lo : W64
  hi : W64
  deriving DecidableEq, Repr

/-- A tile operand: registers as read at issue, or a scratchpad descriptor (R142, R138); or the tiles of A that the products of
a latch read once (R150): the bits of each element, none in a row that does not exist, and whether a poisoned word was read. -/
inductive TileSrc where
  | regs (words : Table Word)
  | desc (d : SDesc)
  | taken (kind : Nat) (tiles : List (List (Option Nat))) (bad : Bool)
  deriving DecidableEq, Repr

/-- What a command or tile operation may still see of its sources as they were when it started (R145, R197): memory, the
L1s and the scratchpads, by task, with their marks. -/
structure Snap where
  mem : Mem
  l1 : List L1Line
  scratch : List (Nat × Table Byte × Table Bool)
  deriving DecidableEq, Repr

/-- What a sub-path waits on at its boundary (R261, R348). -/
inductive Wait where
  /-- It runs. -/
  | run
  /-- Parked at the JOIN at its program counter (R267). -/
  | join
  /-- The waiting part of a lane trap, or lanes returned from it (R112, R114). -/
  | gate (g : Nat)
  /-- At barrier n with a count, or with none for BAR (R290). -/
  | barrier (n : Nat) (count : Option Nat)
  /-- At a FUSEW of this target width, reached at this cycle (R273). -/
  | fuse (w : Width) (d : Reg) (since : Nat)
  /-- At the latch of its gang (R149): slot D, A as checked where it is the lowest member, and B unless no guard is true. -/
  | latch (d : Nat) (a b : Option TileSrc)
  /-- At LEGACY.leave (R298). -/
  | leave
  /-- At SYNCW of level 1 (R61). -/
  | syncw
  /-- After HCALL, for the answer to this REF (R356). -/
  | hcall (ref : Nat)
  /-- Before a unit that met a stage-2 fault with this REF (R331). -/
  | stage2 (ref : Nat)
  deriving DecidableEq, Repr

/-- A serialisation record (R288): S, the lanes served, the depth, the unit after the outermost SERB and, once a turn
has ended at a SERE, the unit after it. -/
structure SerRec where
  all : LaneMask
  served : LaneMask
  depth : Nat
  resume : W64
  after : W64
  deriving DecidableEq, Repr

/-- A sub-path: its program counter, mask, wait and serialisation record (R265, R288). -/
structure Path where
  pc : W64
  mask : LaneMask
  wait : Wait
  ser : Option SerRec
  deriving DecidableEq, Repr

/-- A split: its number, its half in legacy-width mode, its rotation (the head runs), its privilege level,
trap frame, %tscratch, in-flight counters and skipped count (R193, R262, R264, R265, R345, R349). -/
structure Split where
  num : Nat
  upper : Bool
  paths : List Path
  pl : Nat
  frame : TrapFrame
  tscratch : W64
  acc : List Access
  skipped : Nat
  deriving DecidableEq, Repr

/-- The cause of a lane trap (R343). -/
inductive LaneCause where
  | tagPair | overflow | nurseryFull | tagCheck | divZero
  deriving DecidableEq, Repr

/-- A lane's return record (R112, R114): the cause, where the result goes (0 none, 1 lane register,
2 predicate), the next unit, the gate of the merge, whether the lane's group was serialised, and for
NURSERY_FULL the operands and hint of the NALLOC and whether it was an ALLOCW (R61). -/
structure RetRec where
  cause : LaneCause
  dfile : Nat
  dreg : Reg
  next : W64
  gate : Nat
  nested : Bool
  a : Word
  b : Word
  hint : Nat
  shared : Bool
  deriving DecidableEq, Repr

/-- What one transactional load returned (R201). -/
structure TxRead where
  key : Nat
  size : Nat
  data : W64
  tag : Option Tag
  deriving DecidableEq, Repr

/-- A lane's open transaction (R198, R202, R234): depth, target and register of the outermost TXBEGIN, the
lines of its footprint, those stored, its loads and its buffered stores. `doom` is the abort a writer outside
it has caused (R200). -/
structure Tx where
  lane : Nat
  depth : Nat
  target : W64
  dreg : Reg
  lines : List Nat
  stored : List Nat
  reads : List TxRead
  writes : List StoreItem
  pages : List Nat
  doom : Option W64
  deriving DecidableEq, Repr

/-- The issue state of a half in legacy-width mode (R261, R262, R274): its running split, the units issued since that was chosen,
its passed count. -/
structure Turn where
  run : Nat
  turn : Nat
  passed : Nat
  deriving DecidableEq, Repr

/-- A warp (R79, R131, R148, R225, R264, R271, R357). `v` is keyed by lane × 256 + declared register and
defaults to NIL, `p` by lane × 8 + predicate and defaults to false, `s` by register and defaults to NIL;
`nest` (R265) and `recs` (R113, R114) are keyed by lane. `gates` lists the open merges of lane traps with the
lanes still away; `store` names the contiguous run its storage lies in and `pos` its place there, in lanes (R260); `rows` are
the warp-registers of its core granted to it, in order, and `off` the words of the first of them before its own (R268); `age` its place in age order among warps of equal task and role
lane (R261). `run`, `turn` and `passed` are the warp's, or in legacy-width mode those of its lower half, and `up` is the upper
half's. `owed` are the splits whose waiting unit an answer has released: it is performed before a halt that comes later (R348); `able`, the
model's own, those that could issue their next unit when the last step ended (R262). -/
structure Warp where
  id : Nat
  task : Nat
  role : Nat
  first : Nat
  width : Nat
  nregs : Nat
  slot : Nat
  legacy : Bool
  v : Table Word
  p : Table Bool
  s : Table Word
  live : LaneMask
  nbase : W64
  nlim : W64
  gang : BitVec 32
  splits : List Split
  run : Nat
  turn : Nat
  passed : Nat
  nest : Table Nat
  recs : Table (List RetRec)
  regions : List LaneMask
  gates : List (Nat × LaneMask)
  txs : List Tx
  interval : Option (Reg × W32)
  staged : Bool
  perf : List W64
  stopped : Option Nat
  held : Bool
  pos : Nat
  store : Nat
  age : Nat
  rows : List Nat
  off : Nat
  up : Turn
  owed : List Nat
  able : List Nat
  deriving DecidableEq, Repr

/-! ### Tasks -/

/-- An accumulator slot of a task (R133 to R136): `data` is keyed by row × 64 + column and defaults to +0. -/
structure AccSlot where
  index : Nat
  allocated : Bool
  poison : Bool
  data : Table W32
  deriving DecidableEq, Repr

/-- What an engine command does (R242 to R249, R168, R169), with its operands as read at issue. The two
notification events of LAUNCHP take numbers beside the commands (R301). -/
inductive EngOp where
  | acpy (dir : CopyDir) (src dst count : W64)
  | amcast (src mask count : W64)
  | agath (esz : Nat) (base idx dst count : W64)
  | ascat (esz : Nat) (base idx src count : W64)
  | hcpy (dir : HDir) (src dst count : W64)
  | acoll (dom : Bool) (op : CollOp) (ty : CollTy) (src dst : W64) (count gid seq : Nat)
  | tlsig (after : List Nat)
  | sxpd (f : TFmt) (src : W64) (dst : SDesc) (scale : W64)
  | spack (f : TFmt) (src : SDesc) (dst scale : W64)
  | resolution (launch : Nat)
  | completion (launch : Nat)
  deriving DecidableEq, Repr

/-- A byte formed by a transfer: its value, and when it is poisoned the address and origin of its source (R391). -/
structure SByte where
  val : Byte
  bad : Option (Nat × Nat)
  deriving DecidableEq, Repr

/-- Bytes written by one command, by address: one entry for each address, ascending. -/
abbrev ByteRun := List (Nat × SByte)

/-- Where a run of bytes goes: memory, or the allocation of a task. -/
inductive RunDest where
  | mem
  | slot (task : Nat)
  deriving DecidableEq, Repr

/-- A numbered command of an engine context (R195, R240): `trs` holds the translations it took at issue, by virtual
page (R157), `seen` what its sources held when it started. `late` holds what it writes once the timeline has counted it while
no TLWAIT has acquired it (R197, R248, R387); `since` is when it was issued (R183). -/
structure EngCmd where
  num : Nat
  op : EngOp
  acc : Nat
  pl : Nat
  started : Bool
  done : Bool
  trs : List (Nat × Trans)
  seen : Option Snap
  late : Option (List (RunDest × ByteRun))
  since : Nat
  deriving DecidableEq, Repr

/-- An engine context of a task (R195, R240, R241): the counter, the last number issued, the failure (its
number, its address, whether it is a collective mismatch) and the commands not yet counted. -/
structure EngCtx where
  counter : Nat
  last : Nat
  failed : Option (Nat × W64 × Bool)
  cmds : List EngCmd
  deriving DecidableEq, Repr

/-- As created (R247). -/
def EngCtx.fresh : EngCtx := ⟨0, 0, none, []⟩

/-- An open instance of a barrier (R290): its count (none for BAR) and the warps that have arrived. -/
structure BarInst where
  num : Nat
  count : Option Nat
  arrived : List Nat
  deriving DecidableEq, Repr

/-- A binding that a timeline name had when warp `by_` bound it anew, which a warp from which no barrier separates that may still see
(R247). -/
structure OldBind where
  warp : Nat
  name : Nat
  by_ : Nat
  old : Option Nat
  deriving DecidableEq, Repr

/-- Where a task stands in speculation (R277 to R279, R303). -/
inductive SpecState where
  | none | running | committed | squashed
  deriving DecidableEq, Repr

/-- A task (R133, R137, R195, R208, R247, R252, R257, R290). `breg` defaults to NIL, `bpast` holds the values a
block register held since the last block barrier and `owners` lists pairs of a block register and a warp (R132); `scratch` holds bytes by offset, `smarks` poisoned words by word; `ended` once its last warp
has exited while its cohort keeps its allocation (R137). `colls` counts the ACOLL.coh issued and `dcolls` the ACOLL.dom by
group id (R246), and `dgone` how many of a group a participant of its matches had issued when it ended. `ways` are the ways that its speculation-marked lines fill, by line (R314). -/
structure Task where
  id : Nat
  serial : BitVec 16
  launch : Nat
  ctx : Nat
  core : Nat
  block : Nat
  kind : Nat
  rank : Nat
  cohort : Option Nat
  depth : Nat
  htab : W64
  scratchSize : Nat
  scratch : List Host.Cell
  smarks : Table Bool
  bregs : Nat
  breg : Table Word
  bpast : Table (List Word)
  owners : List (Nat × Nat)
  slots : List AccSlot
  tl : Table (Option Nat)
  olds : List OldBind
  eng : Table EngCtx
  bars : List BarInst
  spec : SpecState
  specId : Nat
  specStores : List StoreItem
  specPages : List Nat
  ways : Table Nat
  nsets : List (W64 × W64)
  colls : Nat
  dcolls : Table Nat
  dgone : Table (Option Nat)
  pri : Nat
  age : Nat
  ended : Bool
  deriving DecidableEq, Repr

/-! ### Tile operations (R143) -/

/-- A destination of DRAIN (R158, R160): memory, with a format, or a scratchpad descriptor. -/
inductive DrainDst where
  | memory (addr : W64) (f : TFmt)
  | scratch (d : SDesc) (f : TFmt)
  deriving DecidableEq, Repr

/-- What a tile operation does to the slot it names (R146 to R171). -/
inductive TileDo where
  | product (zero : Bool) (a b : TileSrc)
  | drain (dst : DrainDst) (tdst : Option DrainDst)
  | drainAdd (dst : DrainDst)
  | accld (d : SDesc)
  deriving DecidableEq, Repr

/-- A tile operation from issue to completion: its access, warp, task and slot; `trs` the translations of its memory
destination; `gang` is not 0 for the products of one opened latch, which are accepted together in slot order (R150);
`updated` once a DRAIN.ADD has been applied (R161). `lines` are the lines of memory and `pads` the 32-byte chunks of the
cohort window that a DRAIN writes, `prior` the accesses that precede it in its split's program order (R162, R181), and `since` when it
was issued (R183). -/
structure TileOp where
  id : Nat
  warp : Nat
  task : Nat
  core : Nat
  slot : Nat
  act : TileDo
  trs : List (Nat × Trans)
  pl : Nat
  hint : Nat
  gang : Nat
  accepted : Bool
  updated : Bool
  seen : Option Snap
  lines : List Nat
  pads : List Nat
  prior : List Nat
  since : Nat
  deriving DecidableEq, Repr

/-! ### Launches (R252 to R258, R277, R278) -/

/-- A role entry (R253). -/
structure RoleEntry where
  warps : Nat
  width : Nat
  regs : Nat
  collector : Bool
  entry : Nat
  deriving DecidableEq, Repr

/-- A kernel descriptor as read at the launch (R252, R253). -/
structure KDesc where
  code : W64
  htab : W64
  level : Nat
  flags : Byte
  notifyTl : Nat
  scratch : Nat
  blockRegs : Nat
  accTiles : Nat
  cohort : Nat
  loader : Nat
  compute : Nat
  storer : Nat
  roles : List RoleEntry
  gx : Nat
  gy : Nat
  gz : Nat
  arg : W64
  rlog : W64
  rlogCap : Nat
  deriving DecidableEq, Repr

/-- Where a launch came from, and so where its end is reported (R255, R188). -/
inductive LaunchSrc where
  /-- An entry of virtual queue `queue`: its completion record and interrupt flag (R325). -/
  | queue (queue : Nat) (compl : W64) (irq : Bool)
  /-- LAUNCHP of a task (R301). -/
  | launchp (task : Nat)
  | spawn
  | fabric
  /-- The tail launch of a launch that SHAPE resolved (R278). -/
  | tail (of : Nat)
  deriving DecidableEq, Repr

/-- A launch: its blocks from `next` to `limit` are not placed yet. For LAUNCHP, `m`, `p` are the counts of
R277, `t` is T once it is resolved; `begun` once its first task has started (R192). -/
structure Launch where
  id : Nat
  serial : BitVec 32
  ctx : Nat
  desc : W64
  kd : KDesc
  src : LaunchSrc
  arg : Word
  next : Nat
  limit : Nat
  count : Nat
  shaped : Bool
  m : Nat
  p : Nat
  t : Option Nat
  die : Nat
  depth : Nat
  pri : Nat
  notified : Bool
  begun : Bool
  deriving DecidableEq, Repr

/-! ### Contexts -/

/-- A virtual queue's own state (R326 to R328): its tier (0 swapped, 1 held, 2 mapped), whether it is in error, and then where its
table entry lies until the guest has rewritten it, a doorbell not yet answered and when it rang, since when it is mapped, how often it
has been mapped in this round of its function, and the launch of its last entry. -/
structure VQueue where
  tier : Nat
  error : Bool
  entry : Option Nat
  rung : Bool
  rungAt : Nat
  since : Nat
  turns : Nat
  last : Option Nat
  deriving DecidableEq, Repr

/-- Reset: no state. -/
def VQueue.fresh : VQueue := ⟨0, false, none, false, 0, 0, 0, none⟩

/-- Who waits for an answer of the hypervisor, by REF (R358); a unit with its fault address, access kind and lanes. -/
inductive Waiter where
  | unit (va : W64) (kind : Nat) (mask : LaneMask)
  | doubleTrap (warp : Nat)
  | hcall
  | save
  | restore
  | probe (page : Nat)
  deriving DecidableEq, Repr

/-- What a save area holds (R361): the saved tasks and warps of a context and the generations of their slots by task and slot; the
context's %ttab, queues, launches, speculation ids, HCALLs and stopped warps that wait for the hypervisor and its answers kept
for them; whether the save is complete, its guest time, the major release that wrote it, and a bound above the identities in
it. -/
structure SaveArea where
  tasks : List Task
  warps : List Warp
  gens : List (Nat × Nat × BitVec 4)
  ttab : W64
  queues : Table VQueue
  launches : List Launch
  specIds : List (Nat × Nat)
  waiters : List (Nat × Waiter)
  answers : List (Nat × Option W64)
  complete : Bool
  gs : Nat
  major : Nat
  top : Nat
  deriving DecidableEq, Repr, Inhabited

/-- No save. -/
def SaveArea.empty : SaveArea := ⟨[], [], [], 0, [], [], [], [], [], false, 0, 3, 0⟩

/-- A context: the registers of its virtual function (R323, R324, R359, R190), %ttab (R349), its time base
(R364), its queues, how many of them have been mapped in this round (R328), and what waits for the hypervisor. `ladder` is the time of a pre-emption request and its
step, 0 soft, 1 grace, 2 that of a restore that is frozen (R337, R363). `answers` are those of the hypervisor that came for units
already saved (R356), `stopAt` the guest time at the stop (R364), `probeAt` the page of the save area that the probe has come to
(R360). -/
structure Ctx where
  part : Nat
  en : Bool
  classMask : BitVec 32
  qweight : Nat
  vqmax : Nat
  grace : Nat
  kill : Nat
  slice : Nat
  s2en : Bool
  s2root : Nat
  fmask : BitVec 4
  fmaskOn : BitVec 4
  maskCnt : W64
  ltab : W64
  ltcount : Nat
  domten : Nat
  vqtab : W64
  vqcount : Nat
  s1root : Nat
  savegpa : Nat
  savesize : Nat
  saveState : Nat
  pinned : Bool
  timeadj : W64
  dirtyEn : Bool
  dirtyBase : Nat
  dirtyPages : Nat
  s2all : Bool
  s2log : Nat
  s2gpa : Nat
  s2busy : Bool
  ref : Nat
  hvval : W64
  pauseIncl : Bool
  digest : BitVec 512
  ttab : W64
  scopeLimit : Nat
  scopeClamp : Bool
  scopeClamped : Bool
  timeB : Nat
  timeO : Nat
  ladder : Option (Nat × Nat)
  since : Nat
  queues : Table VQueue
  waiters : List (Nat × Waiter)
  save : SaveArea
  answers : List (Nat × Option W64)
  stopAt : Option Nat
  probeAt : Nat
  turns : Nat
  irqs : Nat
  deriving DecidableEq, Repr

/-- The reset values of R323, R324, R359, R190, R349 and R364 (B and O: log entry 1). -/
def Ctx.reset : Ctx where
  part := 0
  en := false
  classMask := 1
  qweight := 1
  vqmax := 1024
  grace := 100
  kill := 1000
  slice := 0
  s2en := false
  s2root := 0
  fmask := 0
  fmaskOn := 0
  maskCnt := 0
  ltab := 0
  ltcount := 0
  domten := 0
  vqtab := 0
  vqcount := 0
  s1root := 0
  savegpa := 0
  savesize := 0
  saveState := 0
  pinned := false
  timeadj := 0
  dirtyEn := false
  dirtyBase := 0
  dirtyPages := 0
  s2all := false
  s2log := 0
  s2gpa := 0
  s2busy := false
  ref := 0
  hvval := 0
  pauseIncl := false
  digest := 0
  ttab := 0
  scopeLimit := 6
  scopeClamp := false
  scopeClamped := false
  timeB := 0
  timeO := 0
  ladder := none
  since := 0
  queues := []
  waiters := []
  save := .empty
  answers := []
  stopAt := none
  probeAt := 0
  turns := 0
  irqs := 0

/-! ### The device -/

/-- A partition's registers (R307), the matrix set (R306), the pages that hold tags of its pool by page
number (R308), the time its migrate step began, and the lines that have moved to their new home in the rehash under way
(R332, R333); `hdrpOld` names the cores whose header partition still has the size it had before HDRP changed (R205). -/
structure Part where
  cports : W64
  mports : W64
  scports : W64
  smports : W64
  cgrace : Nat
  state : Nat
  refuse : Nat
  done : Bool
  cap : Nat
  tpbase : Nat
  tpsize : Nat
  allot : Nat
  allotErr : Bool
  isolcnt : W64
  hdrp : Nat
  matrix : W64
  tagPages : List Nat
  since : Nat
  bucket : Nat
  moved : List Nat
  hdrpOld : List (Nat × Nat)
  deriving DecidableEq, Repr

/-- The reset values of R307: CGRACE 100, HDRP 1, the rest 0. -/
def Part.reset : Part := ⟨0, 0, 0, 0, 100, 0, 0, false, 0, 0, 0, 0, false, 0, 1, 0, [], 0, 0, [], []⟩

/-- A service class (R312): WAYS and WEIGHT. -/
structure SClass where
  ways : BitVec 16
  weight : Nat
  deriving DecidableEq, Repr

/-- Reset: every way, weight 1. -/
def SClass.reset : SClass := ⟨0xFFFF, 1⟩

/-- A network output (R317, R319): the credits of REQ, BULK and UPD, the channel sent last among them, the
partition each channel served last, and its queues, oldest packet first. -/
structure NetOut where
  credits : Nat × Nat × Nat
  last : Nat
  lastPart : List Nat
  queue : List Packet
  deriving DecidableEq, Repr

/-- Empty queues; credits and last channel DESIGN CHOICE (log entry 1). -/
def NetOut.fresh : NetOut := ⟨(0, 0, 0), 2, [16, 16, 16, 16, 16, 16], []⟩

/-- A rate controller (R320), of a context and a requester port: the rate in 1/1,024 and its bucket in 1/1,024 of a
packet. -/
structure RateCtl where
  rate : Nat
  bucket : Nat
  deriving DecidableEq, Repr

/-- A new controller (R320); its bucket DESIGN CHOICE full (log entry 1). -/
def RateCtl.fresh : RateCtl := ⟨1024, 32768⟩

/-- The HBM scheduler of a memory-side port (R315): its waiting requests, oldest first, the class served last and how many
requests of it in a row. -/
structure HbmPort where
  waiting : List Packet
  last : Nat
  run : Nat
  deriving DecidableEq, Repr

/-- Nothing waits; the class served last DESIGN CHOICE 0 (log entry 1). -/
def HbmPort.fresh : HbmPort := ⟨[], 0, 0⟩

/-- An event record of the hypervisor's ring (R358). -/
structure EvRec where
  type : Nat
  vf : Nat
  ref : Nat
  addr : W64
  detail : W64
  arg : List W64
  deriving DecidableEq, Repr

/-- An entry of the translated image cache (R77): its key, which is the digest of the image, the level of the code and the options
word; the code, and where debug mapping is kept the word at which each operation of it stands, by function, block and place; the
visibility mask, the PF bit and the time of last use. -/
structure ImgEntry where
  key : BitVec 512
  level : Nat
  options : Nat
  code : List W32
  debug : Option (List (Nat × Nat × Nat × Nat))
  mask : BitVec 96
  pf : Bool
  used : Nat
  deriving DecidableEq, Repr

/-- The errors of a request to translate an image: "image malformed" (R74), and "translation failed" with the offset of a section
(R76). -/
inductive ImgError where
  | malformed
  | failed (section_ : Nat)
  deriving DecidableEq, Repr

/-- An entry of a shape predictor (R276): the descriptor's address and its last true counts, newest first. -/
structure ShapeEntry where
  desc : W64
  counts : List Nat
  deriving DecidableEq, Repr

/-- The registers and state of the package (R318, R339, R358, R368, R372, R371, R77, R276, R30, R31). `reply` is the
model's own: what the last access of the host or the fabric, or request to the
firmware, returned, none for a refusal (R76, R339, R340); `imgErr` the error of the last request for an image; `cxl` the rows of R367 that the CXL error log has
received, oldest first; `woke` the count of `State.cycles` at which a block last powered up (R352). -/
structure Dev where
  wreq : Nat
  wbulk : Nat
  wupd : Nat
  wen : Bool
  wvf : Nat
  wclass : Nat
  wgpa : Nat
  wsize : Nat
  evbase : Nat
  evlog : Nat
  evtail : Nat
  evhead : Nat
  evwait : List EvRec
  msix : Nat
  cecnt : W64
  uecnt : W64
  ueaddr : Nat
  uewhere : Nat
  nonce : Table Byte
  rvf : Nat
  ready : Bool
  err : Bool
  report : Table Byte
  image : List Byte
  nextImage : Option (List Byte)
  images : List ImgEntry
  shapes : Table (List ShapeEntry)
  gated : List Nat
  woke : Table Nat
  freq : Table Nat
  scrubbed : W64 × W64
  reply : Option (List Byte)
  imgErr : Option ImgError
  cxl : List Nat
  deriving DecidableEq, Repr

/-- Reset values: VCCFG 4, 3, 1 (R318); every port scrubbed (R332); the rest 0. -/
def Dev.reset : Dev where
  wreq := 4
  wbulk := 3
  wupd := 1
  wen := false
  wvf := 0
  wclass := 0
  wgpa := 0
  wsize := 0
  evbase := 0
  evlog := 0
  evtail := 0
  evhead := 0
  evwait := []
  msix := 0
  cecnt := 0
  uecnt := 0
  ueaddr := 0
  uewhere := 0
  nonce := []
  rvf := 0
  ready := false
  err := false
  report := []
  image := []
  nextImage := none
  images := []
  shapes := []
  gated := []
  woke := []
  freq := []
  scrubbed := (BitVec.allOnes 64, BitVec.allOnes 64)
  reply := none
  imgErr := none
  cxl := []

/-! ### The machine -/

/-- The unit in execution (log entry 4): its warp and split, where it starts, where the next unit starts, and
its prefixes (R33, R40, R41); `stays` once it has been found to wait at the boundary before it, unissued (R261). -/
structure Cur where
  warp : Nat
  split : Nat
  start : W64
  next : W64
  arith : Option (RMode × Bool × Bool × Bool)
  place : Option (Nat × Nat)
  stays : Bool
  deriving DecidableEq, Repr

/-- A warp that has ended, with its core and context: its registers, until one of its warp-registers is granted anew (R268, R377). -/
structure LeftWarp where
  core : Nat
  ctx : Nat
  warp : Warp
  deriving DecidableEq, Repr

/-- The state of the GX-960. `leftWarps` and `leftTasks` are what ended warps and tasks have left on a core, until the core's storage is
given to others (R268, R377). `accGen` holds slot generations by core × 16 + slot (R135),
`regGen` those of warp-registers by core × 2048 + warp-register (R268); `history` the words
that locations have held since each launch began, from which LDINV may return (R192); `past` the words that writes have
replaced, and `icinvs` the context, the line (none: all) and the `tick` of each ICINV, between which a fetch may still find an
earlier word (R353). `sources` holds the packets that wait at the requester ports, each port with the state of its arbiter, and
`marks` the loads whose response has come with a mark (R319, R320). `areas` are the save areas written so far, by which a restore
knows what the bytes of one hold (R362; log entry 106). `cur`, `inputs`, `tick` and `nextId` are the model's own (log entries 3, 4,
5). `l2` is the id under which the L2 holds a line, of those it holds or has held, and `hdrs` are the lines of the header
partitions (R310). -/
structure State where
  cur : Option Cur
  warps : List Warp
  tasks : List Task
  leftWarps : List LeftWarp
  leftTasks : List Task
  launches : List Launch
  mem : Mem
  l1 : List L1Line
  l2 : Table Nat
  hdrs : List HdrLine
  icache : List ILine
  tlb : List TlbEntry
  loads : List PendLoad
  stores : List PendStore
  atoms : List PendAtom
  tiles : List TileOp
  accGen : Table (BitVec 4)
  regGen : Table (BitVec 4)
  history : List (Nat × TxRead)
  past : List PastWord
  icinvs : List (Nat × Option Nat × Nat)
  ctxs : Table Ctx
  parts : Table Part
  classes : Table SClass
  sources : Table NetOut
  nets : Table NetOut
  marks : List Nat
  rates : Table RateCtl
  hbm : Table HbmPort
  specIds : List (Nat × Nat)
  colls : List CollMsg
  areas : List SaveArea
  dev : Dev
  serials : Table Nat
  nowNs : Nat
  cycles : Nat
  inputs : List Instr
  tick : Nat
  nextId : Nat
  deriving DecidableEq, Repr

/-- The machine right after reset: no task, every register of the device at the value the spec states, memory
with nothing listed (R332, R371); the values the spec does not give are in log entry 1. -/
def State.reset : State where
  cur := none
  warps := []
  tasks := []
  leftWarps := []
  leftTasks := []
  launches := []
  mem := .empty
  l1 := []
  l2 := []
  hdrs := []
  icache := []
  tlb := []
  loads := []
  stores := []
  atoms := []
  tiles := []
  accGen := []
  regGen := []
  history := []
  past := []
  icinvs := []
  ctxs := []
  parts := []
  classes := []
  sources := []
  nets := []
  marks := []
  rates := []
  hbm := []
  specIds := []
  colls := []
  areas := []
  dev := .reset
  serials := []
  nowNs := 0
  cycles := 0
  inputs := []
  tick := 0
  nextId := 0

/-- Why the model stops. -/
inductive Fault where
  /-- Raised by every meaning of a unit when `State.cur` names no executing split: there is no agent to act.
  No step of the machine raises it. Safe: the hardware has no such situation. -/
  | noExecutingSplit
  deriving DecidableEq, Repr

/-- What the model refuses. -/
inductive Refusal where
  /-- An instruction without a meaning in this model; raised by its arm of `exec` alone. Safe. -/
  | notModelled (mnemonic : String)
  deriving DecidableEq, Repr

end Sys2Proof.Machine
end

