-- ==== Sys2Proof/Machine/Map.lean ====
section
/-!
DEFINITION. Tables in canonical form, lane masks, and bytes in memory: the helpers every other file of the
machine is written over.
-/
namespace Sys2Proof.Machine

/-! ### Tables -/

/-- The value at a key; an unlisted key holds the default. -/
def Table.get {α : Type} (d : α) : Table α → Nat → α
  | [], _ => d
  | (k', v) :: t, k => if k' = k then v else Table.get d t k

/-- The table with a key removed. -/
def Table.erase {α : Type} : Table α → Nat → Table α
  | [], _ => []
  | (k', v) :: t, k => if k' = k then Table.erase t k else (k', v) :: Table.erase t k

/-- The table with an entry put at its place in rising order. -/
def Table.insert {α : Type} : Table α → Nat → α → Table α
  | [], k, x => [(k, x)]
  | (k', v) :: t, k, x =>
    if k < k' then (k, x) :: (k', v) :: t
    else if k' = k then (k, x) :: t
    else (k', v) :: Table.insert t k x

/-- The table with a value written: writing the default removes the entry. -/
def Table.put {α : Type} [DecidableEq α] (d : α) (t : Table α) (k : Nat) (x : α) : Table α :=
  if x = d then t.erase k else t.insert k x

/-- The canonical form: keys strictly rising, no entry equal to the default. -/
def Table.wf {α : Type} [DecidableEq α] (d : α) (t : Table α) : Bool :=
  decide (t.Pairwise fun a b => a.1 < b.1) && t.all fun e => decide (e.2 ≠ d)

/-- Every value of a table changed, keys kept, defaults dropped. -/
def Table.mapVals {α : Type} [DecidableEq α] (d : α) (f : Nat → α → α) (t : Table α) : Table α :=
  (t.map fun e => (e.1, f e.1 e.2)).filter fun e => decide (e.2 ≠ d)

/-! ### Lane masks -/

/-- The mask of one lane. -/
def laneBit (l : Nat) : LaneMask := 1 <<< l

/-- The lanes of a mask, in ascending order. -/
def lanesOf (m : LaneMask) : List Nat := (List.range 128).filter fun l => m.getLsbD l

/-- The mask of a list of lanes. -/
def maskOf (ls : List Nat) : LaneMask := ls.foldl (fun m l => m ||| laneBit l) 0

/-- Lanes 0 to w − 1. -/
def lowMask (w : Nat) : LaneMask := BitVec.ofNat 128 (2 ^ w - 1)

/-- The lowest lane of a mask; 128 for the empty mask. -/
def lowestLane (m : LaneMask) : Nat := ((List.range 128).find? fun l => m.getLsbD l).getD 128

/-- The highest lane of a mask; 0 for the empty mask. -/
def highestLane (m : LaneMask) : Nat := ((List.range 128).reverse.find? fun l => m.getLsbD l).getD 0

/-! ### Bytes -/

/-- n bytes from address k, little-endian. -/
def readLE (f : Nat → Byte) (k : Nat) : Nat → Nat
  | 0 => 0
  | n + 1 => (f k).toNat + 256 * readLE f (k + 1) n

/-- The n low bytes of a number, little-endian. -/
def bytesLE (v : Nat) : Nat → List Byte
  | 0 => []
  | n + 1 => BitVec.ofNat 8 v :: bytesLE (v / 256) n

/-- The number a list of bytes holds, little-endian. -/
def numLE : List Byte → Nat
  | [] => 0
  | b :: bs => b.toNat + 256 * numLE bs

/-- Bytes written from address k on. -/
def putBytes (t : Table Byte) (k : Nat) : List Byte → Table Byte
  | [] => t
  | b :: bs => putBytes (t.put 0 k b) (k + 1) bs

/-- A byte of memory (unlisted: 0). -/
def Mem.byte (m : Mem) (k : Nat) : Byte := Table.get 0 m.bytes k

/-- n bytes of memory, little-endian. -/
def Mem.read (m : Mem) (k n : Nat) : Nat := readLE m.byte k n

/-- Bytes of memory written, tags and marks kept. -/
def Mem.write (m : Mem) (k : Nat) (bs : List Byte) : Mem := { m with bytes := putBytes m.bytes k bs }

/-- The tag of the word that holds a byte (unlisted: NIL). -/
def Mem.tag (m : Mem) (k : Nat) : Tag := Table.get .nil m.tags (k / 8 * 8)

/-- The tag of a word written. -/
def Mem.setTag (m : Mem) (k : Nat) (t : Tag) : Mem := { m with tags := Table.put .nil m.tags (k / 8 * 8) t }

/-- Whether the raw line that holds a byte is marked poisoned. -/
def Mem.marked (m : Mem) (k : Nat) : Bool := Table.get false m.marks (k / 128)

/-- A raw line marked or cleared. -/
def Mem.setMark (m : Mem) (k : Nat) (b : Bool) : Mem := { m with marks := Table.put false m.marks (k / 128) b }

/-- The canonical form of a memory. -/
def Mem.wf (m : Mem) : Bool := Table.wf 0 m.bytes && Table.wf .nil m.tags && Table.wf false m.marks

/-- The tagged word at an aligned address. -/
def Mem.word (m : Mem) (k : Nat) : Word := ⟨m.tag k, BitVec.ofNat 64 (m.read k 8)⟩

/-! ### Bit fields -/

/-- Bits [hi:lo] of a word, as a number. -/
def bits (x : W64) (hi lo : Nat) : Nat := x.toNat / 2 ^ lo % 2 ^ (hi + 1 - lo)

/-- Bit i of a word. -/
def bitAt (x : W64) (i : Nat) : Bool := x.getLsbD i

/-- The word whose bits [hi:lo] are replaced. -/
def setBits (x : W64) (hi lo v : Nat) : W64 :=
  BitVec.ofNat 64 (x.toNat / 2 ^ (hi + 1) * 2 ^ (hi + 1) + v % 2 ^ (hi + 1 - lo) * 2 ^ lo + x.toNat % 2 ^ lo)

/-- The 64-bit two's complement of an integer. -/
def ofInt64 (i : Int) : W64 := BitVec.ofInt 64 i

/-- An INT word (R80). -/
def intWord (i : Int) : Word := ⟨.int, BitVec.ofInt 64 i⟩
/-- An INT word with this payload. -/
def intBits (x : W64) : Word := ⟨.int, x⟩
/-- An INT word holding a count. -/
def natWord (n : Nat) : Word := ⟨.int, BitVec.ofNat 64 n⟩

/-- A list with one element dropped at the first place the test holds. -/
def dropFirst {α : Type} (p : α → Bool) : List α → List α
  | [] => []
  | x :: xs => if p x then xs else x :: dropFirst p xs

/-- Insertion into a list in rising order of a key, behind equal keys. -/
def insertBy {α : Type} (key : α → Nat) (x : α) : List α → List α
  | [] => [x]
  | y :: ys => if key x < key y then x :: y :: ys else y :: insertBy key x ys

/-- A list in rising order of a key; equal keys keep their order. -/
def sortBy {α : Type} (key : α → Nat) (xs : List α) : List α := xs.foldl (fun acc x => insertBy key x acc) []

/-- The distinct elements of a list, in order of first appearance. -/
def distinct {α : Type} [DecidableEq α] (xs : List α) : List α :=
  xs.foldl (fun acc x => if x ∈ acc then acc else acc ++ [x]) []

end Sys2Proof.Machine
end

