-- ==== Sys2Proof/Machine/Mem.lean ====
section
/-!
DEFINITION. Memory as the agents reach it: store items and their effect on tagged and raw memory (R217, R218),
the L1 of a core (text before R189, R310, R311), performing a store at the point its hint names (R193), fences
(R230), and the two-stage translation of global addresses (R308, R309, R329 to R331).
-/
namespace Sys2Proof.Machine

/-! ### Spaces -/

/-- Addresses of one space. -/
def spaceSize : Nat := 2 ^ 48
/-- The key of a physical address of a partition (R308). -/
def partKey (p pa : Nat) : Nat := p * spaceSize + pa
/-- The key of a host physical address. -/
def hostKey (pa : Nat) : Nat := 16 * spaceSize + pa
/-- The key of an address of another package's memory (R330). -/
def fabricKey (pkg pa : Nat) : Nat := (17 + pkg) * spaceSize + pa
/-- Whether a key lies in the device memory of a partition. -/
def isDeviceKey (k : Nat) : Bool := decide (k < 16 * spaceSize)

/-- A core number that no core has: the device's own stores pass through no L1. -/
def noCore : Nat := 512

/-! ### Stores -/

/-- POISON with an origin (R90). -/
def poisonWord (origin : Nat) : Word := ⟨.poison, BitVec.ofNat 64 origin⟩

/-- The effect of one store item (R218, R391): a whole word of a tagged page takes its tag with it, a part
leaves BITS, and a POISON word drops a part; a raw line keeps its mark, and poison marks it. -/
def Mem.store (m : Mem) (it : StoreItem) : Mem :=
  let bs := bytesLE it.data.toNat it.size
  match it.tag with
  | none => if it.poison then m.setMark it.key true else if it.size = 0 then m.setMark it.key false else m.write it.key bs
  | some t =>
    if it.size = 8 then (m.write it.key bs).setTag it.key (if it.poison then .poison else t)
    else if m.tag it.key = .poison then m
    else (m.write it.key bs).setTag it.key .bits

/-- Several store items, in order. -/
def Mem.storeAll (m : Mem) (its : List StoreItem) : Mem := its.foldl Mem.store m

/-- The part of a memory that lies in one 128-byte line. -/
def Mem.line (m : Mem) (line : Nat) : Mem where
  bytes := m.bytes.filter fun c => decide (c.1 / 128 = line)
  tags := m.tags.filter fun c => decide (c.1 / 128 = line)
  marks := m.marks.filter fun c => decide (c.1 = line)

/-! ### The L1 of a core -/

/-- The line of a core's L1 under a context's id (R310). -/
def State.l1Find (s : State) (core ctx line : Nat) : Option L1Line :=
  s.l1.find? fun x => x.core == core && x.ctx == ctx && x.line == line

/-- One dirty byte of a line copied to its home, with the tag of its word; a byte of a part-written word is
dropped where the home word has become POISON (R218). -/
def wbByte (l : L1Line) (m : Mem) (i : Nat) : Mem :=
  if l.dirty.getLsbD i then
    let k := l.line * 128 + i
    let w := i / 8 * 8
    let whole := (List.range 8).all fun j => l.dirty.getLsbD (w + j)
    if m.tag k = .poison ∧ whole = false ∧ l.data.tag k ≠ .poison then m
    else
      let m := m.write k [l.data.byte k]
      if l.data.tag k = m.tag k then m else m.setTag k (l.data.tag k)
  else m

/-- A line's dirty bytes, and its poison mark where that was set or cleared here, written to its home. -/
def L1Line.flush (l : L1Line) (m : Mem) : Mem :=
  let m := (List.range 128).foldl (wbByte l) m
  match l.remark with
  | some b => m.setMark (l.line * 128) b
  | none => m

/-- The line of a core's L1 under another id, which a miss writes back before it reads (R311). -/
def State.l1Other (s : State) (core line : Nat) : Option L1Line := s.l1.find? fun x => x.core == core && x.line == line

/-- The home of an address with the dirty bytes of the core's own copy over it. -/
def State.freshAt (s : State) (core key : Nat) : Mem :=
  match s.l1Other core (key / 128) with
  | some l => l.flush s.mem
  | none => s.mem

/-- The memory through which a core's loads read an address: its L1 line, else the home, to which a copy under another id
has been written back (R311). -/
def State.memAt (s : State) (core ctx key : Nat) : Mem :=
  match s.l1Find core ctx (key / 128) with
  | some l => l.data
  | none => s.freshAt core key

/-- Whether a line differs from its home by what was written here. -/
def L1Line.isDirty (l : L1Line) : Bool := l.dirty != 0 || l.remark.isSome

/-- A store other than an atomic that no scope covers has reached some lines: what atomics in flight had read there counts no
more (R182). -/
def State.unsee (s : State) (lines : List Nat) : State :=
  if s.atoms = [] then s
  else
    let clear := fun (x : AtomItem) => if lines.contains (x.key / 128) then { x with seen := none } else x
    { s with atoms := s.atoms.map fun p => { p with items := p.items.map clear } }

/-- Lines that satisfy a test written back; they stay valid and clean. -/
def State.l1WriteBack (s : State) (p : L1Line → Bool) : State :=
  let dirty := s.l1.filter fun l => p l && l.isDirty
  if dirty = [] then s
  else
    let s := s.unsee (dirty.map fun l => l.line)
    { s with
      mem := dirty.foldl (fun m l => l.flush m) s.mem
      l1 := s.l1.map fun l => if p l then { l with dirty := 0, remark := none } else l }

/-- Lines that satisfy a test written back and dropped. -/
def State.l1Drop (s : State) (p : L1Line → Bool) : State :=
  let s := s.l1WriteBack p
  { s with l1 := s.l1.filter fun l => !p l }

/-- A line filled from its home under a context's id; a copy under another id is written back and dropped
first (R311). -/
def State.l1Fill (s : State) (core ctx line : Nat) : State :=
  match s.l1Find core ctx line with
  | some _ => s
  | none =>
    let s := s.l1Drop fun l => l.core == core && l.line == line
    { s with l1 := s.l1 ++ [⟨core, ctx, line, s.mem.line line, 0, none, 0, s.nowNs⟩] }

/-- A line of an L1 with the bytes that its core has not written taken afresh from their home (R183). -/
def State.refetched (s : State) (l : L1Line) : L1Line := { l with data := l.flush (s.mem.line l.line), since := s.nowNs }

/-- What a core's L1 holds of a line and has not written takes its home's contents. -/
def State.l1Refresh (s : State) (core line : Nat) : State :=
  { s with l1 := s.l1.map fun l => if l.core = core ∧ l.line = line then s.refetched l else l }

/-- The copies of some lines that a core holds under other ids than its accessor's, written back and dropped (R311). -/
def State.l1Others (s : State) (core ctx : Nat) (lines : List Nat) : State :=
  s.l1Drop fun l => l.core == core && l.ctx != ctx && lines.contains l.line

/-- Whether a store item is dropped: a part of a word that is POISON (R218). -/
def Mem.drops (m : Mem) (it : StoreItem) : Bool := it.tag.isSome && it.size != 8 && m.tag it.key == .poison

/-- The dirty mask of a store item within its line; poison leaves the bytes of a raw line as they are. -/
def StoreItem.mask (it : StoreItem) : LaneMask :=
  if it.tag.isNone && it.poison then 0 else BitVec.ofNat 128 ((2 ^ it.size - 1) * 2 ^ (it.key % 128))

/-- What a store item makes of the poison mark of its raw line: set, cleared by a write of the whole line, or kept (R367). -/
def StoreItem.remark (it : StoreItem) : Option Bool :=
  match it.tag with
  | none => if it.poison then some true else if it.size = 0 then some false else none
  | some _ => none

/-- A store performed in the L1: device memory, hint SPLIT or BLOCK (R193). -/
def State.storeL1 (s : State) (core ctx hint : Nat) (it : StoreItem) : State :=
  let s := s.l1Fill core ctx (it.key / 128)
  { s with l1 := s.l1.map fun l =>
      if l.core == core && l.ctx == ctx && l.line == it.key / 128 then
        { l with
          data := l.data.store it
          dirty := if l.data.drops it then l.dirty else l.dirty ||| it.mask
          remark := it.remark.or l.remark
          scope := hint }
      else l }

/-- A core's own copies of the lines of some keys written back and refreshed after a change at the home; a copy under another
id leaves (R311). DESIGN CHOICE (log entry 111): one home holds the value, so what has been performed there is seen there by every
agent at once. -/
def State.atHome (s : State) (core ctx hint : Nat) (keys : List Nat) (f : Mem → Mem) : State :=
  let mine := fun (l : L1Line) => l.core == core && decide (l.line ∈ keys.map (· / 128))
  let s := (s.l1Others core ctx (keys.map (· / 128))).l1WriteBack mine
  let m := f s.mem
  { s with
    mem := m
    l1 := s.l1.map fun l =>
      if mine l then { l with data := m.line l.line, dirty := 0, remark := none, scope := hint, since := s.nowNs } else l }

/-- Whether a store with this hint to this key is performed in the L1 (R193). -/
def inL1 (hint key : Nat) : Bool := decide (hint ≤ 1) && isDeviceKey key

/-- A store performed at the point its hint names. -/
def State.performItem (s : State) (core ctx hint : Nat) (it : StoreItem) : State :=
  if inL1 hint it.key then s.storeL1 core ctx hint it
  else s.atHome core ctx hint [it.key] fun m => m.store it

/-- Whether a fence of a scope that invalidates drops a line of its core (text before R189, R230): one recorded narrower than
the scope; and, where the scope reaches agents of other cores, every line, since the bytes of it that the core did not write
may be older than what R181 lets a later load return, whatever scope the line records (R189; log entry 101). -/
def L1Line.leaves (l : L1Line) (core scope : Nat) : Bool := l.core == core && (decide (l.scope < scope) || decide (2 ≤ scope))

/-- The L1 side of a fence (text before R189, R230): lines recorded narrower than the scope are written back for ST or AT, and
lines leave for LD or AT; dirty lines are written back before they leave. -/
def State.fenceL1 (s : State) (core : Nat) (wb inv : Bool) (scope : Nat) : State :=
  let s := if wb then s.l1WriteBack fun l => l.core == core && decide (l.scope < scope) else s
  if inv then s.l1Drop fun l => l.leaves core scope else s

/-! ### Dirty logging (R369) -/

/-- The bit of a guest-physical page set in the context's dirty bitmap, when logging is on. -/
def State.logDirty (s : State) (ctx page : Nat) : State :=
  let c := Table.get .reset s.ctxs ctx
  if c.dirtyEn && decide (page < c.dirtyPages) then
    let k := hostKey (c.dirtyBase + page / 8)
    let b := s.mem.byte k ||| (1 <<< (page % 8))
    { s with mem := s.mem.write k [b] }
  else s

/-- Several pages. -/
def State.logDirtyAll (s : State) (ctx : Nat) (pages : List Nat) : State :=
  pages.foldl (fun s p => s.logDirty ctx p) s

/-! ### The slice hash (R308, R309) -/

/-- The memory-side ports of a set, ascending. -/
def portsOf (m : W64) : List Nat := (List.range 64).filter fun i => m.getLsbD i

/-- h of HomeOf. -/
def sliceHash (x : Nat) : Nat := (x ^^^ (x / 2 ^ 11) ^^^ (x / 2 ^ 22) ^^^ (x / 2 ^ 33)) % 2048

/-- The HBM stack of a memory-side port (R17). -/
def stackOf (port : Nat) : Nat := 4 * (port / 32) + port / 8 % 4

/-- HomeOf (R309): the slice, port, stack and channel of a physical line. -/
def homeOf (ports : List Nat) (pa : Nat) : Nat × Nat × Nat × Nat :=
  let x := pa / 128
  let o := sliceHash x * (6 * ports.length) / 2048
  let port := ports.getD (o / 6) 0
  (6 * port + o % 6, port, stackOf port, 4 * (port % 8) + x / 8 % 4)

/-- The memory-side ports whose slice list names the home of a line of a partition: the old list up to the Castling's rehash, and
during that until the line has moved; then the new one (R332, R333). -/
def Part.homePorts (x : Part) (line : Nat) : W64 :=
  if x.state < 2 ∨ x.state = 2 ∧ x.moved.contains line = false then x.mports else x.smports

/-- The memory-side ports by which an access is routed: the new list from the start of the rehash, whose new home probes the old
one for a line that has not moved (R333). -/
def Part.routePorts (x : Part) : W64 := if x.state < 2 then x.mports else x.smports

/-- How many h the hash sends to port index a, for a value of the two channel bits folded into h: a channel is
chosen by (x >> 3)[1:0], which is h[4:3] XOR the fold of the higher bits (R308). -/
def channelLoad (M a c f : Nat) : Nat :=
  ((List.range 2048).filter fun h => decide (h * (6 * M) / 2048 / 6 = a) && decide ((h / 8 % 4) ^^^ f = c)).length

/-- Hc of Cap (R308). -/
def hashMax (M : Nat) : Nat :=
  ((List.range M).flatMap fun a => (List.range 4).flatMap fun c => (List.range 4).map fun f => channelLoad M a c f).foldl max 0

/-- CAP in 64 KiB units (R308); 0 without memory ports. -/
def capOf (ports : W64) : Nat :=
  let M := (portsOf ports).length
  if M = 0 then 0 else 4 * (12451840 / hashMax M)

/-! ### Translation (R329 to R331) -/

/-- What an access does to a page. -/
inductive AccKind where
  | read | write | fetch
  deriving DecidableEq, Repr

/-- A translation fault. -/
inductive XFault where
  /-- Bits [63:57] not zero: MEM_FAULT KIND 2 (R173). -/
  | wide
  /-- Stage 1: MEM_FAULT with this KIND (R347): 0 invalid, 1 permission, 7 a poisoned entry. -/
  | stage1 (kind : Nat)
  /-- Stage 2, at this guest-physical address (R331). -/
  | stage2 (gpa : Nat)
  /-- Stage 2 of kind "tag pool": the pool is exhausted (R308, R331). -/
  | tagPool (gpa : Nat)
  deriving DecidableEq, Repr

/-- The context of a virtual function. -/
def State.ctx (s : State) (v : Nat) : Ctx := Table.get .reset s.ctxs v
/-- A partition. -/
def State.part (s : State) (p : Nat) : Part := Table.get .reset s.parts p
/-- A context written. -/
def State.setCtx (s : State) (v : Nat) (c : Ctx) : State := { s with ctxs := Table.put .reset s.ctxs v c }
/-- A partition written. -/
def State.setPart (s : State) (p : Nat) (x : Part) : State := { s with parts := Table.put .reset s.parts p x }

/-- A translation entry (R330). -/
structure Pte where
  leaf : Bool
  rd : Bool
  wr : Bool
  ex : Bool
  user : Bool
  kind : Nat
  addr : Nat
  pkg : Nat
  deriving DecidableEq, Repr

/-- A valid entry of a level with its must-be-zero bits zero (R330): none where the entry is invalid. `size` is
the alignment of what it names. DESIGN CHOICE (log entry 112): KIND of a stage-2 entry that names a table must be 0. -/
def pteOf (stage2 : Bool) (level : Nat) (x : W64) : Option Pte :=
  let e : Pte := ⟨bitAt x 1 || decide (level = 4), bitAt x 2, bitAt x 3, bitAt x 4, bitAt x 5, bits x 7 6,
    bits x 47 8 * 256, bits x 57 48⟩
  let size := if e.leaf then (if level = 2 then 2 ^ 30 else if level = 3 then 2 ^ 21 else 2 ^ 16)
    else if level = 3 then 256 else 4096
  let ok := bitAt x 0 && decide (bits x 63 58 = 0) && !(e.leaf && decide (level < 2)) && decide (e.addr % size = 0) &&
    (if stage2 && e.leaf then decide (e.kind ≠ 3) && (decide (e.kind = 1) || decide (e.pkg = 0))
     else decide (e.kind = 0) && decide (e.pkg = 0))
  if ok then some e else none

/-- The index of an address in a table of a level (R329). -/
def pteIndex (level a : Nat) : Nat :=
  match level with
  | 0 => a / 2 ^ 48 % 512
  | 1 => a / 2 ^ 39 % 512
  | 2 => a / 2 ^ 30 % 512
  | 3 => a / 2 ^ 21 % 512
  | _ => a / 2 ^ 16 % 32

/-- The bytes a leaf of a level covers. -/
def leafSize (level : Nat) : Nat := if level = 2 then 2 ^ 30 else if level = 3 then 2 ^ 21 else 2 ^ 16

/-- The walk of one stage from a table at a level, on the number of levels left; `rd` reads an entry. -/
def walk (stage2 : Bool) (rd : Nat → Except XFault W64) (bad : XFault) (a : Nat) : Nat → Nat → Except XFault (Pte × Nat)
  | 0, _ => .error bad
  | n + 1, table =>
    let level := 4 - n
    match rd (table + 8 * pteIndex level a) with
    | .error e => .error e
    | .ok x =>
      match pteOf stage2 level x with
      | none => .error bad
      | some e => if e.leaf then .ok (e, leafSize level) else walk stage2 rd bad a n e.addr

/-- Whether a table word has met an uncorrectable error (R367). -/
def Mem.badWord (m : Mem) (k : Nat) : Bool := m.marked k || m.tag k == .poison

/-- Stage 2 of a guest-physical address (R329): the leaf and the physical address. -/
def State.stage2 (s : State) (ctx gpa : Nat) : Except XFault (Pte × Nat) :=
  let c := s.ctx ctx
  if !c.s2en then .error (.stage2 gpa)
  else
    let rd := fun pa => if s.mem.badWord (partKey c.part pa) then .error (.stage2 gpa) else .ok (BitVec.ofNat 64 (s.mem.read (partKey c.part pa) 8))
    match walk true rd (.stage2 gpa) gpa 4 c.s2root with
    | .error e => .error e
    | .ok (e, size) =>
      let pa := e.addr + gpa % size
      if e.kind = 0 ∧ (s.part c.part).cap * 65536 ≤ pa then .error (.stage2 gpa) else .ok (e, pa)

/-- The key of a physical address under a stage-2 leaf. -/
def pteKey (part : Nat) (e : Pte) (pa : Nat) : Nat :=
  if e.kind = 0 then partKey part pa else if e.kind = 1 then fabricKey e.pkg pa else hostKey pa

/-- The key of a guest-physical address of a context, where stage 2 translates it. -/
def State.guestKey (s : State) (v gpa : Nat) : Option Nat :=
  match s.stage2 v gpa with
  | .ok (e, pa) => some (pteKey (s.ctx v).part e pa)
  | .error _ => none

/-- The kind of page a stage-2 leaf names. -/
def pteKind (e : Pte) : PageKind := if e.kind = 0 then .device else if e.kind = 1 then .fabric else .host

/-- The walk of both stages for a 64 KiB virtual page (R329). -/
def State.walkPage (s : State) (ctx page : Nat) : Except XFault Trans :=
  let c := s.ctx ctx
  let rd := fun gpa =>
    match s.stage2 ctx gpa with
    | .error e => .error e
    | .ok (e, pa) =>
      let k := pteKey c.part e pa
      if !e.rd then .error (.stage2 gpa) else if s.mem.badWord k then .error (.stage1 7) else .ok (BitVec.ofNat 64 (s.mem.read k 8))
  match walk false rd (.stage1 0) (page * 65536) 5 c.s1root with
  | .error e => .error e
  | .ok (e1, size) =>
    let gpa := e1.addr + page * 65536 % size
    match s.stage2 ctx gpa with
    | .error e => .error e
    | .ok (e2, pa) =>
      .ok ⟨pteKey c.part e2 pa, gpa, pteKind e2, e2.user && decide (e2.kind ≠ 2), e1.rd, e1.wr, e1.ex, e1.user, e2.rd, e2.wr, e2.ex⟩

/-- The permission checks of both stages (R174, R331). -/
def Trans.check (t : Trans) (pl : Nat) (k : AccKind) (off : Nat) : Option XFault :=
  let p1 := match k with | .read => t.rd | .write => t.wr | .fetch => t.ex
  let p2 := match k with | .read => t.s2rd | .write => t.s2wr | .fetch => t.s2ex
  if !p1 || (decide (pl = 0) && !t.user) then some (.stage1 1)
  else if !p2 then some (.stage2 (t.gpa + off))
  else none

/-- The number of pages whose tags a partition's pool holds (R308). -/
def Part.tagRoom (p : Part) : Nat := 8 * p.tpsize

/-- Whether the tags of a tagged device page are held or can be taken from the pool (R308). -/
def State.tagPageOk (s : State) (ctx : Nat) (t : Trans) : Bool :=
  if t.tagged && t.kind == .device then
    let p := s.part (s.ctx ctx).part
    decide (t.base % spaceSize / 65536 ∈ p.tagPages) || decide (p.tagPages.length < p.tagRoom)
  else true

/-- The translation of a virtual page: the cached one if there is one, else that of the tables (R324, R359); without stage 2 every
access faults (R323). -/
def State.pageOf (s : State) (ctx page : Nat) : Except XFault Trans :=
  match s.tlb.find? fun e => e.ctx == ctx && e.page == page with
  | some e => if e.bad = 1 then .error (.stage1 7) else if e.bad = 2 ∨ (s.ctx ctx).s2en = false then .error (.stage2 e.tr.gpa) else .ok e.tr
  | none => s.walkPage ctx page

/-- The home of a device line at an address: slice, memory-side port, stack and channel (R309, R333). -/
def State.homeAt (s : State) (key : Nat) : Nat × Nat × Nat × Nat :=
  homeOf (portsOf ((s.part (key / spaceSize)).homePorts (key % spaceSize / 128))) (key % spaceSize)

/-- The memory-side port to which an access to a device line is sent (R309, R333). -/
def State.portAt (s : State) (key : Nat) : Nat :=
  (homeOf (portsOf (s.part (key / spaceSize)).routePorts) (key % spaceSize)).2.1

/-- Whether the packets of a context's access to a line pass the crossbar: the line's port is in the matrix set of the context's
partition, which is the row of its core ports and what its packets from an engine port carry (R306). -/
def State.inMatrix (s : State) (ctx key : Nat) : Bool := (s.part (s.ctx ctx).part).matrix.getLsbD (s.portAt key)

/-- What becomes of an access's packets: one that the crossbar refuses comes back as KIND 4 (R306), and the host link or another
package may answer with an error, KIND 5 (R340, R347). -/
def State.answer (s : State) (ctx : Nat) (t : Trans) (key : Nat) : Option XFault :=
  match t.kind with
  | .device => if s.inMatrix ctx key then none else some (.stage1 4)
  | .fabric | .host => if Config.linkError s.tick key then some (.stage1 5) else none

/-- The translation of an address, the permissions and the tag pool, for an access at a privilege level. -/
def State.mapped (s : State) (ctx pl : Nat) (k : AccKind) (va : W64) : Except XFault (Trans × Nat) :=
  if va.toNat / 2 ^ 57 ≠ 0 then .error .wide
  else
    match s.pageOf ctx (va.toNat / 65536) with
    | .error e => .error e
    | .ok t =>
      match t.check pl k (va.toNat % 65536) with
      | some e => .error e
      | none => if s.tagPageOk ctx t then .ok (t, t.base + va.toNat % 65536) else .error (.tagPool (t.gpa + va.toNat % 65536))

/-- The same with the answer of the network. -/
def State.translate (s : State) (ctx pl : Nat) (k : AccKind) (va : W64) : Except XFault (Trans × Nat) :=
  match s.mapped ctx pl k va with
  | .error e => .error e
  | .ok (t, key) => match s.answer ctx t key with
    | some e => .error e
    | none => .ok (t, key)

/-- The first of some pages, taken in order, whose tags the pool cannot hold (R308). -/
def State.overPool (s : State) (ctx : Nat) (ts : List Trans) : Option Trans :=
  let p := s.part (s.ctx ctx).part
  (ts.foldl (fun (r : List Nat × Option Trans) t =>
    let page := t.base % spaceSize / 65536
    if r.2.isSome || !(t.tagged && t.kind == .device) || r.1.contains page then r
    else if r.1.length < p.tagRoom then (r.1 ++ [page], none) else (r.1, some t)) (p.tagPages, none)).2

/-- Accesses to lines: those that a rehash has not moved yet are taken over by their new home, which probes the old one (R333). -/
def State.probeLines (s : State) (lines : List Nat) : State :=
  if s.parts.all fun p => p.2.state != 2 then s
  else lines.foldl (fun s k =>
    let pn := k * 128 / spaceSize
    let x := s.part pn
    let line := k * 128 % spaceSize / 128
    if x.state == 2 && !x.moved.contains line then s.setPart pn { x with moved := x.moved ++ [line] } else s) s

/-- A context's id (R310). -/
def ctxId (v : Nat) : Nat := v + 1

/-- The id under which the L2 holds a line after an access under an id: a copy under another id is written back, dropped and
filled again (R310, R311). -/
def State.l2Hold (s : State) (id line : Nat) : State := { s with l2 := Table.put 0 s.l2 line id }

/-- The tags of a tagged device page taken from its partition's pool (R308). DESIGN CHOICE (log entry 113): neither the tags nor a page
that a stage-2 entry maps inside the pool changes the other. -/
def State.takeTags (s : State) (ctx : Nat) (t : Trans) : State :=
  if t.tagged && t.kind == .device then
    let pn := (s.ctx ctx).part
    let p := s.part pn
    let page := t.base % spaceSize / 65536
    if page ∈ p.tagPages then s else s.setPart pn { p with tagPages := p.tagPages ++ [page] }
  else s

/-- The tags of several pages taken. -/
def State.takeAll (s : State) (ctx : Nat) (trs : List (Nat × Trans)) : State := trs.foldl (fun s x => s.takeTags ctx x.2) s

/-- What accesses to lines leave there: their homes have them, and the L2 has those of device memory under the context's id. -/
def State.visitLines (s : State) (ctx : Nat) (lines : List Nat) : State :=
  let dev := lines.filter fun k => isDeviceKey (k * 128)
  dev.foldl (fun s k => s.l2Hold (ctxId ctx) k) (s.probeLines dev)

/-- What an access leaves at its line. -/
def State.visit (s : State) (ctx : Nat) (t : Trans) (key : Nat) : State :=
  if t.kind == .device then (s.probeLines [key / 128]).l2Hold (ctxId ctx) (key / 128) else s

/-- The translation of a page cached, and the tags of the page taken from the pool. -/
def State.holdPage (s : State) (ctx page : Nat) (t : Trans) : State :=
  (if s.tlb.any fun e => e.ctx == ctx && e.page == page then s else { s with tlb := s.tlb ++ [⟨ctx, page, t, 0⟩] }).takeTags ctx t

/-- The translation cached, the line at its home, and the tags of its page taken from the pool. -/
def State.touch (s : State) (ctx : Nat) (va : W64) (t : Trans) : State :=
  (s.visit ctx t (t.base + va.toNat % 65536)).holdPage ctx (va.toNat / 65536) t

end Sys2Proof.Machine
end

