-- ==== Sys2Proof/Machine/Ops.lean ====
section
/-!
DEFINITION. The named operations over the machine: the executing unit, registers, in-flight counters, events
for the hypervisor, taking a thread trap (R345), divergence (R264, R265), the merges (R114, R267), regions,
transaction aborts (R235), and taking lane traps (R110 to R113).
-/
namespace Sys2Proof.Machine

/-! ### The executing unit -/

/-- What a unit executes in: its warp, split, sub-path (the head of the rotation), task and prefixes. -/
structure U where
  w : Warp
  sp : Split
  pa : Path
  t : Task
  c : Cur
  deriving DecidableEq, Repr

/-- A warp by identity. -/
def State.warp? (s : State) (id : Nat) : Option Warp := s.warps.find? fun w => w.id == id
/-- A task by identity. -/
def State.task? (s : State) (id : Nat) : Option Task := s.tasks.find? fun t => t.id == id
/-- A launch by identity. -/
def State.launch? (s : State) (id : Nat) : Option Launch := s.launches.find? fun l => l.id == id
/-- A split of a warp by number. -/
def Warp.split? (w : Warp) (n : Nat) : Option Split := w.splits.find? fun x => x.num == n

/-- The executing unit; none when `cur` names no split that has one. -/
def State.unit? (s : State) : Option U :=
  match s.cur with
  | none => none
  | some c =>
    match s.warp? c.warp with
    | none => none
    | some w =>
      match w.split? c.split, s.task? w.task with
      | some sp, some t =>
        match sp.paths with
        | [] => none
        | pa :: _ => some ⟨w, sp, pa, t, c⟩
      | _, _ => none

/-- A meaning over the executing unit; without one the model stops. -/
def State.onUnit (s : State) (f : U → State) : Host.Outcome State Fault Refusal :=
  match s.unit? with
  | none => .fault .noExecutingSplit
  | some u => .next (f u)

/-- A warp written back. -/
def State.setWarp (s : State) (w : Warp) : State :=
  { s with warps := s.warps.map fun x => if x.id = w.id then w else x }
/-- A task written back. -/
def State.setTask (s : State) (t : Task) : State :=
  { s with tasks := s.tasks.map fun x => if x.id = t.id then t else x }
/-- A change of one task by identity. -/
def State.onTask (s : State) (id : Nat) (f : Task → Task) : State :=
  { s with tasks := s.tasks.map fun x => if x.id = id then f x else x }
/-- A launch written back. -/
def State.setLaunch (s : State) (l : Launch) : State :=
  { s with launches := s.launches.map fun x => if x.id = l.id then l else x }
/-- A split written back. -/
def Warp.setSplit (w : Warp) (sp : Split) : Warp :=
  { w with splits := w.splits.map fun x => if x.num = sp.num then sp else x }
/-- The running sub-path of a split written back. -/
def Warp.setHead (w : Warp) (n : Nat) (p : Path) : Warp :=
  { w with splits := w.splits.map fun x => if x.num = n then { x with paths := p :: x.paths.drop 1 } else x }

/-- The running sub-path continues at an address. -/
def U.at (u : U) (w : Warp) (pc : W64) : Warp := w.setHead u.c.split { u.pa with pc := pc }
/-- The unit is done: the warp as changed, the sub-path at the next unit. -/
def U.done (u : U) (s : State) (w : Warp) : State := s.setWarp (u.at w u.c.next)
/-- The unit is done and changed nothing in its warp. -/
def U.skip (u : U) (s : State) : State := u.done s u.w

/-- RM of the unit's arithmetic prefix, rn without one (R40). -/
def U.rm (u : U) : RMode := match u.c.arith with | some (m, _, _, _) => m | none => .rn
/-- SAT of the unit's arithmetic prefix. -/
def U.sat (u : U) : Bool := match u.c.arith with | some (_, b, _, _) => b | none => false
/-- FTZ of the unit's arithmetic prefix. -/
def U.ftz (u : U) : Bool := match u.c.arith with | some (_, _, b, _) => b | none => false
/-- NOTRAP of the unit's arithmetic prefix. -/
def U.notrap (u : U) : Bool := match u.c.arith with | some (_, _, _, b) => b | none => false

/-! ### Registers (R79, R106, R131) -/

/-- The payload bits of a tag that are used (R80, R82; TILE: R134). -/
def tagUsed : Tag → W64
  | .nil => 0
  | .bool => 1
  | .int | .f64 | .bits | .hdr | .hdrc => BitVec.allOnes 64
  | .tile => 0xFFFFFF
  | .f32 | .sym => 0xFFFFFFFF
  | .f16 | .bf16 => 0xFFFF
  | .ref | .fwd => 0x01FFFFFFFFFFFFFF
  | .poison => 0xF

/-- A word with its unused payload bits zero (R82). -/
def mkWord (t : Tag) (x : W64) : Word := ⟨t, x &&& tagUsed t⟩
/-- A BOOL word. -/
def boolWord (b : Bool) : Word := ⟨.bool, if b then 1 else 0⟩

/-- The declared register a name reaches (R106). -/
def regIndex (n : Nat) (r : Reg) : Option Nat :=
  let k := r.toNat
  if 252 ≤ n ∨ n ≤ 3 then (if k < n then some k else none)
  else if k < n - 4 then some k
  else if 248 ≤ k ∧ k ≤ 251 then some (n - 4 + (k - 248))
  else none

/-- Whether a role of n registers has the handler registers (R106). -/
def hasHandlerRegs (n : Nat) : Bool := decide (4 ≤ n)

/-- A warp's turn ends, that of the half it stands in (R262, R274). -/
def Warp.endTurn (w : Warp) (upper : Bool) : Warp := if upper then { w with up := { w.up with turn := 64 } } else { w with turn := 64 }

/-- A lane register by name. -/
def Warp.getV (w : Warp) (lane : Nat) (r : Reg) : Word :=
  match regIndex w.nregs r with
  | some k => Table.get .nil w.v (lane * 256 + k)
  | none => .nil

/-- A lane register written; a name the role does not reach is written nowhere. -/
def Warp.setV (w : Warp) (lane : Nat) (r : Reg) (x : Word) : Warp :=
  match regIndex w.nregs r with
  | some k => { w with v := Table.put .nil w.v (lane * 256 + k) x }
  | none => w

/-- A predicate of a lane; p7 reads as true (R37). -/
def Warp.getP (w : Warp) (lane : Nat) (p : Reg) : Bool :=
  if p.toNat = 7 then true else Table.get false w.p (lane * 8 + p.toNat)

/-- A predicate written; p7 is not. -/
def Warp.setP (w : Warp) (lane : Nat) (p : Reg) (b : Bool) : Warp :=
  if p.toNat = 7 then w else { w with p := Table.put false w.p (lane * 8 + p.toNat) b }

/-- A warp scalar register. -/
def Warp.getS (w : Warp) (r : Reg) : Word := Table.get .nil w.s r.toNat
/-- A warp scalar register written. -/
def Warp.setS (w : Warp) (r : Reg) (x : Word) : Warp := { w with s := Table.put .nil w.s r.toNat x }
/-- The second register of a pair. -/
def pairHi (r : Reg) : Reg := r + 1

/-- The guard of a lane (R37). -/
def Warp.guardAt (w : Warp) (g : Guard) (lane : Nat) : Bool := w.getP lane (g.p.setWidth 8) != g.neg

/-- The active lanes of the unit. -/
def U.active (u : U) : List Nat := lanesOf u.pa.mask
/-- The acting lanes of a long instruction: active, with the guard true. -/
def U.acting (u : U) (g : Guard) : List Nat := u.active.filter fun l => u.w.guardAt g l

/-- A performance counter raised (R357). -/
def Warp.bump (w : Warp) (i n : Nat) : Warp :=
  { w with perf := w.perf.set i (w.perf.getD i 0 + BitVec.ofNat 64 n) }

/-! ### In-flight counters (R193) -/

/-- The counter of a path. -/
def Split.count (sp : Split) (p : Nat) : Nat := (sp.acc.filter fun a => a.path == p).length

/-- An access issued. -/
def Split.addAcc (sp : Split) (id path : Nat) : Split := { sp with acc := sp.acc ++ [⟨id, path, false⟩] }

/-- The accesses that still count: an access counts as complete only once every earlier one of its path has
completed. -/
def liveAcc (xs : List Access) : List Access :=
  xs.foldl (fun kept a => if a.done && !(kept.any fun b => b.path == a.path) then kept else kept ++ [a]) []

/-- An access completed, in the counters of every split that counts it. -/
def Split.complete (sp : Split) (id : Nat) : Split :=
  { sp with acc := liveAcc (sp.acc.map fun a => if a.id = id then { a with done := true } else a) }

/-- An access completed. -/
def State.completeAcc (s : State) (id : Nat) : State :=
  { s with warps := s.warps.map fun w => { w with splits := w.splits.map fun sp => sp.complete id } }

/-- The counters of merged units: each access once, in issue order (R193). -/
def mergeAcc (a b : List Access) : List Access :=
  sortBy (fun x => x.id) (a ++ b.filter fun x => !(a.any fun y => y.id == x.id && y.path == x.path))

/-- The executing split raises a counter. -/
def U.addAcc (u : U) (w : Warp) (id path : Nat) : Warp :=
  { w with splits := w.splits.map fun x => if x.num = u.c.split then x.addAcc id path else x }

/-- A new identity. -/
def State.fresh (s : State) : Nat × State := (s.nextId, { s with nextId := s.nextId + 1 })

/-- A free choice among n, drawn at the counter (log entry 3). -/
def State.choose (s : State) (n : Nat) : Nat × State :=
  if n ≤ 1 then (0, s) else (Config.pick s.tick % n, { s with tick := s.tick + 1 })

/-- A free word, drawn at the counter (log entry 3). -/
def State.freeWord (s : State) : W64 × State := (Config.freeWord s.tick, { s with tick := s.tick + 1 })

/-! ### Events for the hypervisor (R358) -/

/-- An event that waits in the device until it is posted to the ring. -/
def State.postEvent (s : State) (e : EvRec) : State := { s with dev := { s.dev with evwait := s.dev.evwait ++ [e] } }

/-- Something waits for the hypervisor's answer under a REF. -/
def State.addWaiter (s : State) (ctx ref : Nat) (x : Waiter) : State :=
  let c := s.ctx ctx
  s.setCtx ctx { c with waiters := c.waiters ++ [(ref, x)] }

/-- A unit that meets a stage-2 fault waits at its boundary, and the fault is reported (R331, R358). -/
def State.stage2Wait (s : State) (u : U) (gpa kind : Nat) (va : W64) (mask : LaneMask) : State :=
  let (ref, s) := s.fresh
  let w := u.w.setHead u.c.split { u.pa with pc := u.c.start, wait := .stage2 ref }
  let s := (s.setWarp w).postEvent ⟨1, u.t.ctx, ref, BitVec.ofNat 64 gpa, BitVec.ofNat 64 kind, []⟩
  s.addWaiter u.t.ctx ref (.unit va kind mask)

/-! ### Reading memory as the executing split (R181) -/

/-- The stores of a split that are not yet performed, and the task's speculative stores, in program order. -/
def State.ownStores (s : State) (sp : Split) (t : Task) : List StoreItem :=
  t.specStores ++ ((s.stores.filter fun p => sp.acc.any fun a => a.id == p.id).flatMap fun p => p.items)

/-- The memory an executing split's loads see at an address. -/
def U.view (u : U) (s : State) (key : Nat) : Mem :=
  let own := (s.ownStores u.sp u.t).filter fun it => it.key / 128 == key / 128
  let m := if isDeviceKey key then s.memAt u.t.core u.t.ctx key else s.mem
  if own = [] then m else m.storeAll own

/-- An 8-byte read at a privilege level, as the trap machinery makes it (R110, R345). DESIGN CHOICE (log entry 107): it gives the
bytes as they stand where they are poisoned. -/
def U.read8 (u : U) (s : State) (pl : Nat) (va : W64) : Except XFault W64 :=
  match s.translate u.t.ctx pl .read va with
  | .error e => .error e
  | .ok (_, k) => .ok (BitVec.ofNat 64 ((u.view s k).read k 8))

/-- The words that an aligned location has held since the launch of the unit began, where it has been written since (R192). -/
def U.heldWords (u : U) (s : State) (key : Nat) : List W64 :=
  (s.history.filter fun h => h.1 == u.t.launch && h.2.key == key).map fun h => h.2.data

/-- The read of a handler entry (R110): where the table has been written under its resident kernel, an old word or the new one,
freely. -/
def U.readEntry (u : U) (s : State) (va : W64) : Except XFault W64 :=
  match s.translate u.t.ctx u.sp.pl .read va with
  | .error e => .error e
  | .ok (_, k) =>
    let now : W64 := BitVec.ofNat 64 ((u.view s k).read k 8)
    let old := u.heldWords s k
    .ok (if old.isEmpty then now else (now :: old).getD (Config.pickAt s.tick k % (old.length + 1)) now)

/-! ### Thread traps (R343 to R347) -/

/-- Cause codes (R343). -/
def codeIllegal : Nat := 16
def codeOrphan : Nat := 17
def codeScratchBounds : Nat := 18
def codeMemFault : Nat := 19
def codeAlign : Nat := 20
def codeTagPriv : Nat := 21
def codeBregConflict : Nat := 22
def codeNestOverflow : Nat := 23
def codeScopeDenied : Nat := 24
def codePoisonRead : Nat := 25
def codeWidthFault : Nat := 26

/-- The code of a lane cause (R343). -/
def LaneCause.code : LaneCause → Nat
  | .tagPair => 1 | .overflow => 2 | .nurseryFull => 3 | .tagCheck => 4 | .divZero => 5

/-- A thread trap: the fields of %cause (R347), the lanes of %faultmask (R344) and %tval (R343). -/
structure Trap where
  code : Nat
  kind : Nat
  esc : Bool
  write : Bool
  fetch : Bool
  opclass : Nat
  mask : LaneMask
  tval : W64
  deriving DecidableEq, Repr

/-- A trap with only a kind, lanes and a value. -/
def mkTrap (code kind : Nat) (mask : LaneMask) (tval : W64) : Trap := ⟨code, kind, false, false, false, 0, mask, tval⟩

/-- %cause (R347). -/
def Trap.cause (x : Trap) : W64 :=
  BitVec.ofNat 64 (x.code + x.kind * 2 ^ 8 + (if x.esc then 2 ^ 12 else 0) + (if x.write then 2 ^ 13 else 0)
    + (if x.fetch then 2 ^ 14 else 0) + x.opclass * 2 ^ 16)

/-- %estat (R347). -/
def estatOf (pl : Nat) (busy upper : Bool) (num : Nat) : W64 :=
  BitVec.ofNat 64 (pl + (if busy then 4 else 0) + (if upper then 8 else 0) + num * 2 ^ 8)

/-- The frame a thread trap writes (R345). -/
def trapFrame (sp : Split) (start : W64) (x : Trap) : TrapFrame where
  epc := start
  cause := x.cause
  fm0 := x.mask.setWidth 64
  fm1 := x.mask.extractLsb' 64 64
  tval := x.tval
  estat := estatOf sp.pl true sp.upper sp.num

/-- A double trap stops the warp at the boundary before the unit and posts an event of type 3 (R345). -/
def State.doubleTrap (s : State) (u : U) (w : Warp) (x : Trap) : State :=
  let (ref, s) := s.fresh
  let w := { (u.at w u.c.start) with stopped := some ref }
  let s := (s.setWarp w).postEvent ⟨3, u.t.ctx, ref, u.c.start, BitVec.ofNat 64 x.code, []⟩
  s.addWaiter u.t.ctx ref (.doubleTrap u.w.id)

/-- Whether a frame is in use (R347). -/
def TrapFrame.busy (f : TrapFrame) : Bool := bitAt f.estat 2

/-- Delivery of a thread trap (R345). -/
def State.deliver (s : State) (u : U) (x : Trap) : State :=
  if u.sp.frame.busy then s.doubleTrap u u.w x
  else
    let w := u.w.setSplit { u.sp with frame := trapFrame u.sp u.c.start x }
    let ttab := (s.ctx u.t.ctx).ttab
    let entry := if ttab = 0 then .error .wide else u.read8 s 1 (ttab + BitVec.ofNat 64 (8 * x.code))
    match entry with
    | .error _ => s.doubleTrap u w x
    | .ok e =>
      if e = 0 ∨ e.toNat % 4 ≠ 0 ∨ e.toNat / 2 ^ 57 ≠ 0 then s.doubleTrap u w x
      else
        s.setWarp (Warp.endTurn { w with
          splits := w.splits.map fun sp =>
            if sp.num = u.c.split then { sp with pl := 1, paths := { u.pa with pc := e } :: sp.paths.drop 1 } else sp
          interval := none } u.sp.upper)

/-! ### Divergence (R264, R265) -/

/-- The lanes a sub-path holds: with an open serialisation record, every lane of its set. -/
def Path.span (p : Path) : LaneMask := match p.ser with | some r => r.all ||| p.mask | none => p.mask

/-- The split numbers not in use. -/
def Warp.freeSplits (w : Warp) : List Nat := (List.range 4).filter fun n => !(w.splits.any fun sp => sp.num == n)

/-- The nesting counter of the lanes of a mask raised. -/
def Warp.nestUp (w : Warp) (m : LaneMask) : Warp :=
  { w with nest := (lanesOf m).foldl (fun t l => Table.put 0 t l (Table.get 0 t l + 1)) w.nest }
/-- The nesting counter of the lanes of a mask lowered. -/
def Warp.nestDown (w : Warp) (m : LaneMask) : Warp :=
  { w with nest := (lanesOf m).foldl (fun t l => Table.put 0 t l (Table.get 0 t l - 1)) w.nest }
/-- The lanes of a mask whose nesting counter is 255. -/
def Warp.nestFull (w : Warp) (m : LaneMask) : LaneMask := maskOf ((lanesOf m).filter fun l => Table.get 0 w.nest l == 255)

/-- A split formed by divergence: the half, level and counters of its parent, a fresh frame (log entry 14). -/
def Split.child (sp : Split) (n : Nat) (paths : List Path) : Split :=
  { num := n, upper := sp.upper, paths := paths, pl := sp.pl, frame := .fresh, tscratch := 0, acc := sp.acc, skipped := 0 }

/-- Splits in rising order of their numbers. -/
def sortSplits (xs : List Split) : List Split := sortBy (fun x => x.num) xs

/-- The union of the masks of some sub-paths. -/
def masksOf (ps : List Path) : LaneMask := ps.foldl (fun m p => m ||| p.mask) 0

/-- A divergence of a split into the part that keeps it and the others (R264, R265); an error names the lanes
whose counter is at 255. -/
def Warp.diverge (w : Warp) (sp : Split) (keep : Path) (others : List Path) : Except LaneMask Warp :=
  let others := sortBy (fun p => lowestLane p.mask) others
  let rest := sp.paths.drop 1
  let free := if rest = [] then w.freeSplits else []
  let formed := others.take free.length
  let left := others.drop free.length
  let host := if left = [] then 0 else match formed.getLast? with | some h => h.mask | none => keep.mask
  let region := if left = [] then 0 else host ||| masksOf left
  let full := w.nestFull region
  if full ≠ 0 then .error full
  else
    let kids := (formed.zip free).mapIdx fun i x =>
      sp.child x.2 (if i + 1 = formed.length then x.1 :: left else [x.1])
    let mine := { sp with paths := keep :: (if formed = [] then left else []) ++ rest }
    let w := { (w.setSplit mine) with splits := sortSplits ((w.setSplit mine).splits ++ kids) }
    let w := w.bump 5 kids.length
    .ok (if left = [] then w else { ((w.nestUp region).bump 6 1) with regions := w.regions ++ [region] })

/-- Regions whose live lanes lie in one sub-path end, and their lanes lower their counters (R265). -/
def Warp.endRegions (w : Warp) : Warp :=
  let paths := w.splits.flatMap fun sp => sp.paths
  let closed := fun (r : LaneMask) => let live := r &&& w.live
    live == 0 || paths.any fun p => p.span &&& live == live
  let ended := w.regions.filter closed
  let w' := ended.foldl (fun w r => w.nestDown (r &&& w.live)) w
  { w' with regions := w.regions.filter fun r => !closed r }

/-- The lanes of a unit divided by their next address, in order of their lowest lanes. -/
def partsOf (targets : List (Nat × W64)) : List (W64 × LaneMask) :=
  (distinct (targets.map fun x => x.2)).map fun pc => (pc, maskOf ((targets.filter fun x => x.2 == pc).map fun x => x.1))

/-- The unit's lanes go to their next addresses (R264): the part at `stay` keeps the split when there is one,
else the part that holds the lowest lane. -/
def U.goTo (u : U) (w : Warp) (targets : List (Nat × W64)) (stay : Option W64) : Except LaneMask Warp :=
  let sp := (w.split? u.c.split).getD u.sp
  match partsOf targets with
  | [] => .ok w
  | (pc, m) :: more =>
    if more = [] then .ok (w.setHead u.c.split { u.pa with pc := pc })
    else
      let parts := (pc, m) :: more
      let keep := (parts.find? fun x => some x.1 == stay).getD (pc, m)
      let others := parts.filter fun x => x.1 != keep.1
      w.diverge sp { u.pa with pc := keep.1, mask := keep.2 } (others.map fun x => ⟨x.1, x.2, .run, none⟩)

/-- The running sub-path moves to the end of the rotation, and sub-paths that cannot run yield at once (R113, R266). -/
def rotateTo (fuel : Nat) (ps : List Path) : List Path :=
  match fuel, ps with
  | 0, ps => ps
  | _, [] => []
  | fuel + 1, p :: ps => if p.wait = .run then p :: ps else rotateTo fuel (ps ++ [p])

/-- Whether a wait keeps its sub-path at the head: the whole split waits with it (R266). -/
def Wait.keeps : Wait → Bool
  | .stage2 _ | .hcall _ => true
  | .run | .join | .gate _ | .barrier _ _ | .fuse _ _ _ | .latch _ _ _ | .leave | .syncw => false

/-- A rotation whose head can run, when some sub-path can; a head that waits for the hypervisor keeps its place (R266). -/
def settlePaths (ps : List Path) : List Path :=
  match ps with
  | [] => []
  | p :: qs => if p.wait.keeps then ps else if (p :: qs).any fun p => p.wait == .run then rotateTo ps.length ps else ps

/-- The running sub-path hands over (R266). -/
def handOver (ps : List Path) : List Path :=
  match ps with
  | [] => []
  | p :: ps => if ps.any fun q => q.wait == .run then rotateTo (ps.length + 1) (ps ++ [p]) else p :: ps

/-- The executing split hands over. -/
def Warp.handOver (w : Warp) (n : Nat) : Warp :=
  { w with splits := w.splits.map fun x => if x.num = n then { x with paths := Machine.handOver x.paths } else x }

/-! ### Merges -/

/-- Splits that hold no sub-path are free (R268). -/
def Warp.dropEmpty (w : Warp) : Warp := { w with splits := w.splits.filter fun sp => decide (sp.paths ≠ []) }

/-- A split that counts as parked (R267): every sub-path at a JOIN, and not in a thread handler. -/
def Split.parked (sp : Split) : Bool := (sp.paths.all fun p => p.wait == .join) && !sp.frame.busy

/-- The splits of a half; outside legacy-width mode, of the warp (R274). -/
def Warp.half (w : Warp) (upper : Bool) : List Split := if w.legacy then w.splits.filter fun sp => sp.upper == upper else w.splits

/-- The merge of some units that wait at boundaries into one unit per address, each in the lowest split among
its units, the units continuing `len` bytes on (R267; the order of several units of one split is that of their
lowest lanes, log entry 15). -/
def mergeUnits (sps : List Split) (len : Nat) : List Split :=
  let units := sps.flatMap fun sp => sp.paths.map fun p => (sp.num, p)
  let addrs := distinct (units.map fun x => x.2.pc)
  let groups := addrs.map fun pc =>
    let g := units.filter fun x => x.2.pc == pc
    (g.foldl (fun m (x : Nat × Path) => Nat.min m x.1) 4, (⟨pc + BitVec.ofNat 64 len, masksOf (g.map fun x => x.2), .run, none⟩ : Path), g.map fun x => x.1)
  let groups := sortBy (fun x => lowestLane x.2.1.mask) groups
  (sps.filter fun sp => groups.any fun x => x.1 == sp.num).map fun sp =>
    let mine := groups.filter fun x => x.1 == sp.num
    let from_ := sps.filter fun x => mine.any fun y => x.num ∈ y.2.2
    { sp with paths := mine.map fun x => x.2.1, acc := from_.foldl (fun a x => mergeAcc a x.acc) [] }

/-- The merge at JOINs when every split of the half is parked (R267). -/
def Warp.tryJoin (w : Warp) (upper : Bool) : Warp :=
  let sps := w.half upper
  if sps.all fun sp => sp.parked then
    let others := w.splits.filter fun sp => !(sps.any fun x => x.num == sp.num)
    ({ w with splits := sortSplits (others ++ mergeUnits sps 4), interval := none }).endRegions
  else w

/-- A gate whose lanes have all returned or exited opens: the waiting part runs (R112, R292). -/
def Warp.openGates (w : Warp) : Warp :=
  let opened := w.gates.filter fun g => (g.2 &&& w.live) == 0
  let isOpen := fun (p : Path) => opened.any fun g => p.wait == .gate g.1
  let w : Warp := { w with
    gates := w.gates.filter fun g => (g.2 &&& w.live) != 0
    splits := w.splits.map fun sp =>
      let ps := sp.paths.map fun p => if isOpen p then { p with wait := .run } else p
      { sp with paths := ps.filter fun p => decide (p.mask ≠ 0) || p.wait != .run } }
  w.dropEmpty.endRegions

/-- Lanes leave a sub-path. -/
def Path.without (p : Path) (m : LaneMask) : Path := { p with mask := p.mask &&& ~~~m }

/-! ### Transactions (R199 to R202, R235) -/

/-- The transaction of a lane. -/
def Warp.tx? (w : Warp) (lane : Nat) : Option Tx := w.txs.find? fun x => x.lane == lane
/-- A transaction written back. -/
def Warp.setTx (w : Warp) (x : Tx) : Warp := { w with txs := w.txs.map fun y => if y.lane = x.lane then x else y }

/-- The abort code word of R202. -/
def abortWord (code xcode winner cause : Nat) : W64 :=
  BitVec.ofNat 64 (code + xcode * 2 ^ 8 + winner * 2 ^ 16 + cause * 2 ^ 24)

/-- Loads in flight no longer write some registers of a warp, by lane and name. -/
def State.dropWrites (s : State) (w : Warp) (rs : List (Nat × Reg)) : State :=
  let hit := fun (d : RegWrite) => d.warp == w.id && rs.any fun x => d.lane == x.1 && regIndex w.nregs x.2 == some d.reg
  { s with loads := s.loads.map fun p => { p with dests := p.dests.filter fun d => !hit d } }

/-- An abort of some lanes with their code words, the other active lanes of the unit continuing at `rest`
(R202, R235): stores discarded, the code written, which no load in flight overwrites, the transaction closed, the lane at its
target. -/
def U.abort (u : U) (s : State) (w : Warp) (ls : List (Nat × W64)) (rest : W64) : State :=
  let tgt := ls.filterMap fun x => (w.tx? x.1).map fun t => (x.1, t.target, t.dreg, x.2)
  let w1 := tgt.foldl (fun w x => w.setV x.1 x.2.2.1 (intBits x.2.2.2)) w
  let w1 := { w1 with txs := w1.txs.filter fun t => !(tgt.any fun x => x.1 == t.lane) }
  let s := s.dropWrites w (tgt.map fun x => (x.1, x.2.2.1))
  let targets := u.active.map fun l => match tgt.find? fun x => x.1 == l with | some x => (l, x.2.1) | none => (l, rest)
  match u.goTo w1 targets none with
  | .ok w2 => s.setWarp w2
  | .error m => s.deliver u (mkTrap codeNestOverflow 0 m 0)

/-- A packet that the crossbar refused is counted for its partition (R306). -/
def State.isolatedIn (s : State) (p : Nat) : State :=
  let x := s.part p
  s.setPart p { x with isolcnt := x.isolcnt + 1 }

/-- A thread trap of the unit. Inside a transaction it is not delivered: the lanes concerned that hold one
abort with FAULT and the cause (R201), and the others execute the unit again. -/
def State.raise (s : State) (u : U) (x : Trap) : State :=
  let s := if x.code = codeMemFault ∧ x.kind = 4 then s.isolatedIn (s.ctx u.t.ctx).part else s
  let tx := (lanesOf (x.mask &&& u.pa.mask)).filter fun l => (u.w.tx? l).isSome
  if tx = [] then s.deliver u x
  else u.abort s u.w (tx.map fun l => (l, abortWord 5 0 0 x.code)) u.c.start

/-- ILLEGAL at issue, for the whole unit (R344, R347 KIND 2). -/
def State.illegal (s : State) (u : U) : State := s.raise u (mkTrap codeIllegal 2 u.pa.mask 0)

/-- A translation fault of the unit: MEM_FAULT, or the wait on stage 2. -/
def State.xfault (s : State) (u : U) (e : XFault) (va : W64) (mask : LaneMask) (write fetch : Bool) : State :=
  match e with
  | .wide => s.raise u ⟨codeMemFault, 2, false, write, fetch, 0, mask, va⟩
  | .stage1 k => s.raise u ⟨codeMemFault, k, false, write, fetch, 0, mask, va⟩
  | .stage2 gpa => s.stage2Wait u gpa (if fetch then 2 else if write then 1 else 0) va mask
  | .tagPool gpa => s.stage2Wait u gpa (if fetch then 6 else if write then 5 else 4) va mask

/-! ### Lane traps (R109 to R113) -/

/-- What a lane trap carries (R109, R111): cause, opclass, classes of the index, the words for v248 to v250. -/
structure LaneTrap where
  cause : LaneCause
  opclass : Nat
  clsA : Nat
  clsB : Nat
  a : Word
  b : Word
  c : Word
  deriving DecidableEq, Repr

/-- The fields of an instruction that the trap descriptor and the return record hold (R111, R114). -/
structure OpInfo where
  opcode : Nat
  long : Bool
  dreg : Reg
  dfile : Nat
  opsel : Nat
  sub : Nat
  deriving DecidableEq, Repr

/-- The class of a tag (R80). -/
def tagClass (t : Tag) : Nat := t.code.toNat / 16

/-- The address of a handler entry (R110). -/
def entryAddr (htab : W64) (x : LaneTrap) : W64 := htab + BitVec.ofNat 64 ((x.opclass * 256 + x.clsA * 16 + x.clsB) * 8)

/-- The trap descriptor of v251 (R111). -/
def trapDesc (u : U) (i : OpInfo) (opclass depth : Nat) : W64 :=
  let noarith := u.c.arith.isNone
  BitVec.ofNat 64 (opclass + i.opcode * 2 ^ 8 + (if i.long then 2 ^ 16 else 0) + (if u.notrap then 2 ^ 17 else 0)
    + (if u.sat then 2 ^ 18 else 0) + (if u.ftz then 2 ^ 19 else 0)
    + (if noarith then 0 else u.rm.code.toNat * 2 ^ 20) + i.dreg.toNat * 2 ^ 24 + i.dfile * 2 ^ 32
    + i.opsel * 2 ^ 35 + i.sub * 2 ^ 38 + depth * 2 ^ 48)

/-- The handler depth of a lane (R113). -/
def Warp.depth (w : Warp) (l : Nat) : Nat := (Table.get [] w.recs l).length

/-- What a trapping lane meets (R110). -/
inductive Entry where
  | fault (e : XFault) (addr : W64)
  | wide (entry : W64)
  | misaligned (entry : W64)
  | escalate
  | code (entry : W64)
  deriving DecidableEq, Repr

/-- A lane reads its handler entry (R110): what is wrong with the read or the entry comes before an escalation, whatever the depth of
the lane and the registers of its warp. -/
def U.entryOf (u : U) (s : State) (l : Nat) (x : LaneTrap) : Entry :=
  let a := entryAddr u.t.htab x
  if u.t.htab = 0 then .escalate
  else
    match u.readEntry s a with
    | .error e => .fault e a
    | .ok e =>
      if e.toNat / 2 ^ 57 ≠ 0 then .wide e
      else if e.toNat % 4 ≠ 0 then .misaligned e
      else if e = 0 ∨ hasHandlerRegs u.w.nregs = false ∨ u.w.depth l = 4 then .escalate
      else .code e

/-- A lane enters its handler: v248 to v251 and the return record (R111, R112). -/
def Warp.enter (w : Warp) (u : U) (i : OpInfo) (gate : Nat) (nested : Bool) (hint : Nat) (l : Nat) (x : LaneTrap) : Warp :=
  let w := w.setV l 248 x.a
  let w := w.setV l 249 x.b
  let w := w.setV l 250 x.c
  let w := w.setV l 251 (intBits (trapDesc u i x.opclass (w.depth l + 1)))
  let r : RetRec := ⟨x.cause, i.dfile, i.dreg, u.c.next, gate, nested, x.a, x.b, hint, i.opcode == 0xE4⟩
  { w with recs := Table.put [] w.recs l (r :: Table.get [] w.recs l) }

/-- The thread trap that the entries of the trapping lanes call for, if any (R110). DESIGN CHOICE (log entry 43): where some lanes meet
a stage-1 fault and others a stage-2 fault, that of the lowest lane decides between the trap and the wait, and the mask names them
all. -/
def entryTrap (es : List (Nat × LaneTrap × Entry)) : Option (Trap × Option (XFault × W64)) :=
  let faults := es.filter fun x => match x.2.2 with | .fault _ _ => true | _ => false
  let wides := es.filter fun x => match x.2.2 with | .wide _ => true | _ => false
  let mis := es.filter fun x => match x.2.2 with | .misaligned _ => true | _ => false
  let esc := es.filter fun x => match x.2.2 with | .escalate => true | _ => false
  let m := fun (xs : List (Nat × LaneTrap × Entry)) => maskOf (xs.map fun x => x.1)
  match faults, wides, mis, esc with
  | (_, _, .fault e a) :: _, _, _, _ => some (mkTrap codeMemFault 0 (m faults) a, some (e, a))
  | _, (_, _, .wide e) :: _, _, _ => some (mkTrap codeMemFault 2 (m wides) e, none)
  | _, _, (_, _, .misaligned e) :: _, _ => some (mkTrap codeAlign 0 (m mis) e, none)
  | _, _, _, (_, x, _) :: _ => some (⟨x.cause.code, 0, true, false, false, x.opclass, m esc, 0⟩, none)
  | _, _, _, _ => none

/-- The groups of R112: the lanes that read one handler entry address. -/
def trapGroups (htab : W64) (es : List (Nat × LaneTrap × Entry)) : List (W64 × List (Nat × LaneTrap)) :=
  (distinct (es.map fun x => entryAddr htab x.2.1)).map fun a =>
    let g := es.filter fun x => entryAddr htab x.2.1 == a
    ((match g with | (_, _, .code pc) :: _ => pc | _ => 0), g.map fun x => (x.1, x.2.1))

/-- Lane traps of a unit `u` whose other lanes' effects `k` gives; no effect stands where the traps call for a thread
trap instead, which is raised at `ur` (R110 to R113, R115). With a gate the traps are those of a reissue (R114). -/
def State.laneTraps {α : Type} (s : State) (ur u : U) (k : List (Nat × α) → State × Warp) (oks : List (Nat × α)) (i : OpInfo)
    (hint : Nat) (gate? : Option Nat) (ts : List (Nat × LaneTrap)) : State :=
  let es := ts.map fun x => (x.1, x.2, u.entryOf s x.1 x.2)
  match entryTrap es with
  | some (t, some (e, a)) => s.xfault ur e a t.mask false false
  | some (t, none) => s.raise ur t
  | none =>
    let groups := trapGroups u.t.htab es
    let all := maskOf (ts.map fun x => x.1)
    let waiting := u.pa.mask &&& ~~~all
    let done := k oks
    let gs : Nat × State := match gate? with | some g => (g, done.1) | none => done.1.fresh
    let g := gs.1
    let s' := gs.2
    let w := done.2
    let w : Warp := { w with gates := (w.gates.filter fun x => x.1 != g) ++
        [(g, all ||| (((w.gates.find? fun x => x.1 == g).map fun x => x.2).getD 0))], interval := none }
    let w := (w.endTurn u.sp.upper).bump 4 ts.length
    match groups, decide (waiting = 0) with
    | [(pc, ls)], true =>
      let w := ls.foldl (fun w x => w.enter u i g false hint x.1 x.2) w
      s'.setWarp (w.setHead u.c.split { u.pa with pc := pc })
    | _, _ =>
      let rest := u.sp.paths.drop 1
      let free := if rest = [] then w.freeSplits else []
      let n := free.length
      let left := groups.drop n
      let full := w.nestFull (maskOf ((left.flatMap fun x => x.2).map fun x => x.1))
      if full ≠ 0 then s.raise ur (mkTrap codeNestOverflow 0 full 0)
      else
        let w := (groups.take n).foldl (fun w x => x.2.foldl (fun w y => w.enter u i g false hint y.1 y.2) w) w
        let w := left.foldl (fun w x => x.2.foldl (fun w y => w.enter u i g true hint y.1 y.2) w) w
        let w := w.nestUp (maskOf ((left.flatMap fun x => x.2).map fun x => x.1))
        let path := fun (x : W64 × List (Nat × LaneTrap)) => (⟨x.1, maskOf (x.2.map fun y => y.1), .run, none⟩ : Path)
        let formed := groups.take n
        let sp := (w.split? u.c.split).getD u.sp
        let kids := (formed.zip free).mapIdx fun j x =>
          sp.child x.2 (if j + 1 = formed.length then path x.1 :: left.map path else [path x.1])
        let wait : List Path := if waiting = 0 ∧ gate?.isSome then [] else [{ u.pa with pc := u.c.next, mask := waiting, wait := .gate g }]
        let mine := { sp with paths := if formed = [] then left.map path ++ rest ++ wait else wait ++ rest }
        let w := { (w.setSplit mine) with splits := sortSplits ((w.setSplit mine).splits ++ kids) }
        s'.setWarp ((w.bump 5 kids.length).bump 6 (if left = [] then 0 else 1)).dropEmpty

/-! ### Per-lane execution (R115) -/

/-- A register a lane writes. -/
inductive LaneWrite where
  | v (r : Reg) (x : Word)
  | p (r : Reg) (b : Bool)
  deriving DecidableEq, Repr

/-- A thread trap that a lane raises; the lowest `rank` of any lane decides (R115, R215), and among its lanes the
lowest `pos`, the place of a POISON operand in the order D, A, B, C (R343), then the lowest lane, gives the details. -/
structure LaneFault where
  rank : Nat
  code : Nat
  kind : Nat
  tval : W64
  write : Bool
  pos : Nat
  deriving DecidableEq, Repr

/-- Why a lane does not complete: a lane trap, a thread trap, a stage-2 fault at a guest-physical address with its
access kind (R331, R358), or a condition that the whole unit waits for (R206). -/
inductive LaneStop where
  | trap (t : LaneTrap)
  | fault (t : LaneFault)
  | stage2 (gpa kind : Nat) (va : W64)
  | hold
  deriving DecidableEq, Repr

/-- What one acting lane comes to. -/
abbrev LaneRes (α : Type) := Except LaneStop α
/-- What a lane of a register instruction comes to: the registers it writes. -/
abbrev LaneOut := LaneRes (List LaneWrite)

/-- One write of a lane. -/
def Warp.write (w : Warp) (l : Nat) : LaneWrite → Warp
  | .v r x => w.setV l r x
  | .p r b => w.setP l r b

/-- The writes of a lane. -/
def Warp.writes (w : Warp) (l : Nat) (ws : List LaneWrite) : Warp := ws.foldl (fun w x => w.write l x) w

/-- The lane faults of an instruction's lanes: the trap of the lowest rank, with exactly its lanes. -/
def worstFault {α : Type} (outs : List (Nat × LaneRes α)) : Option Trap :=
  let fs := outs.filterMap fun x => match x.2 with | .error (.fault f) => some (x.1, f) | _ => none
  match fs with
  | [] => none
  | f0 :: rest =>
    let r := rest.foldl (fun m x => Nat.min m x.2.rank) f0.2.rank
    let mine := fs.filter fun x => x.2.rank == r
    let f := mine.foldl (fun m x => if x.2.pos < m.pos then x.2 else m) (mine.head?.getD f0).2
    some ⟨f.code, f.kind, false, f.write, false, 0, maskOf (mine.map fun x => x.1), f.tval⟩

/-- The stage-2 fault of the lowest lane that meets one, with its address and every lane that meets one. -/
def firstStage2 {α : Type} (outs : List (Nat × LaneRes α)) : Option (Nat × Nat × W64 × LaneMask) :=
  let fs := outs.filterMap fun x => match x.2 with | .error (.stage2 g k va) => some (x.1, g, k, va) | _ => none
  fs.head?.map fun x => (x.2.1, x.2.2.1, x.2.2.2, maskOf (fs.map fun y => y.1))

/-- The lanes that complete. -/
def doneLanes {α : Type} (outs : List (Nat × LaneRes α)) : List (Nat × α) :=
  outs.filterMap fun x => match x.2 with | .ok a => some (x.1, a) | _ => none

/-- The lanes that trap. -/
def trapLanes {α : Type} (outs : List (Nat × LaneRes α)) : List (Nat × LaneTrap) :=
  outs.filterMap fun x => match x.2 with | .error (.trap t) => some (x.1, t) | _ => none

/-- The outcome of an instruction from those of its acting lanes (R115): a thread trap before every lane trap, a
stage-2 fault before any effect; else `k` gives the machine and the warp with the other lanes' effects, and the
trapping lanes enter their handlers. -/
def State.settle {α : Type} (s : State) (u : U) (i : OpInfo) (hint : Nat) (outs : List (Nat × LaneRes α))
    (k : List (Nat × α) → State × Warp) : State :=
  match worstFault outs with
  | some t => s.raise u t
  | none =>
    match firstStage2 outs with
    | some (gpa, kind, va, m) => s.stage2Wait u gpa kind va m
    | none =>
      match trapLanes outs with
      | [] => let r := k (doneLanes outs); u.done r.1 r.2
      | ts => s.laneTraps u u k (doneLanes outs) i hint none ts

/-- The outcome of a register instruction from those of its acting lanes. -/
def State.combine (s : State) (u : U) (i : OpInfo) (outs : List (Nat × LaneOut)) : State :=
  s.settle u i 0 outs fun oks => (s, oks.foldl (fun w x => w.writes x.1 x.2) u.w)

/-- POISON_READ of a lane: the number of a POISON register and its place in the order D, A, B, C (R343). -/
def poisonFault (pos : Nat) (r : Reg) : LaneFault := ⟨2, codePoisonRead, 0, r.setWidth 64, false, pos⟩

/-- The first register of a list, in the order D, A, B, C, that holds POISON in a lane (R91). -/
def Warp.poisonIn (w : Warp) (l : Nat) (rs : List Reg) : Option Reg := rs.find? fun r => (w.getV l r).tag == .poison

/-- The place of a register in a list. -/
def placeOf (r : Reg) (rs : List Reg) : Nat := rs.findIdx fun x => x == r

/-- A lane instruction: registers named that the role does not reach raise ILLEGAL at issue (R106); then each
acting lane, POISON among its sources first (R64, R91). -/
def State.lanes (s : State) (u : U) (i : OpInfo) (named srcs : List Reg) (acting : List Nat) (f : Nat → LaneOut) : State :=
  if named.any fun r => (regIndex u.w.nregs r).isNone then s.illegal u
  else
    s.combine u i (acting.map fun l =>
      (l, match u.w.poisonIn l srcs with
        | some r => .error (.fault (poisonFault (placeOf r srcs) r))
        | none => f l))

/-- An instruction whose named lane registers the role does not all reach raises ILLEGAL at issue (R106). -/
def State.named (s : State) (u : U) (rs : List Reg) (k : State) : State :=
  if rs.any fun r => (regIndex u.w.nregs r).isNone then s.illegal u else k

/-- The first scalar register of a list, in the order D, A, B, C, that holds POISON. -/
def Warp.poisonS (w : Warp) (rs : List Reg) : Option Reg := rs.find? fun r => (w.getS r).tag == .poison

/-- An instruction that acts once for the executing split when some active lane's guard is true (R131); a
POISON scalar source raises POISON_READ for the whole unit (R344). -/
def State.once (s : State) (u : U) (g : Guard) (srcs : List Reg) (f : State) : State :=
  if u.acting g = [] then u.skip s
  else match u.w.poisonS srcs with
    | some r => s.raise u (mkTrap codePoisonRead 0 u.pa.mask (r.setWidth 64))
    | none => f

end Sys2Proof.Machine
end

