-- ==== Sys2Proof/Machine/Operands.lean ====
section
/-!
DEFINITION. Operand values: the exact value of a word under its tag or under a named format, the handled pairs of
the generic instructions and what they compute (R107, R108, R116 to R118, R120), and memory addresses of the
base forms (R173, R219).
-/
namespace Sys2Proof.Machine

/-! ### Generic operands (R107, R108) -/

/-- How a handled pair is computed (R107). -/
inductive GenKind where
  | int
  | flt (f : FFmt)
  deriving DecidableEq, Repr

/-- The handled tags of a unary generic instruction (R107). -/
def unaryKind (a : Tag) : Option GenKind := if a = .int then some .int else a.ffmt.map .flt

/-- The handled pairs (R107). -/
def pairKind (a b : Tag) : Option GenKind :=
  if a = b then unaryKind a
  else if a = .f64 ∧ (b = .int ∨ b = .f32) then some (.flt .f64)
  else if b = .f64 ∧ (a = .int ∨ a = .f32) then some (.flt .f64)
  else none

/-- The handled triples of FMA (R107). -/
def tripleKind (a b c : Tag) : Option GenKind :=
  if a = b ∧ b = c then unaryKind a
  else if (a = .f64 ∨ b = .f64 ∨ c = .f64) ∧
      ((a ∈ [Tag.int, .f64] ∧ b ∈ [Tag.int, .f64] ∧ c ∈ [Tag.int, .f64]) ∨
       (a ∈ [Tag.f32, .f64] ∧ b ∈ [Tag.f32, .f64] ∧ c ∈ [Tag.f32, .f64])) then some (.flt .f64)
  else none

/-- The exact value of a payload in a format, an operand of a unit (R97, R123). -/
def fmtValue (f : FFmt) (ftz : Bool) (x : W64) : FVal := readF f.spec ftz (x.toNat % 2 ^ f.spec.width)

/-- The exact value of a numeric word under its own tag (R108). -/
def tagValue (ftz : Bool) (x : Word) : FVal :=
  match x.tag.ffmt with
  | some f => fmtValue f ftz x.pay
  | none => .ofInt x.pay.toInt

/-- A value rounded to a format under the unit's prefix (R96, R108). -/
def U.round (u : U) (f : FFmt) (v : FVal) : Word :=
  ⟨f.tag, BitVec.ofNat 64 (roundFmt f.spec u.rm u.sat u.ftz v)⟩

/-- The two-operand generic operations. -/
inductive GenOp where
  | add | sub | mul | div | rem | min | max
  deriving DecidableEq, Repr

/-- The opclass of a generic operation (R109). -/
def GenOp.opclass : GenOp → Nat
  | .add => 0 | .sub => 1 | .mul => 2 | .div => 3 | .rem => 4 | .min => 5 | .max => 6

/-- The exact result of an integer pair; none for a division by zero (R116, R117). -/
def GenOp.onInt (o : GenOp) (x y : Int) : Option Int :=
  match o with
  | .add => some (x + y)
  | .sub => some (x - y)
  | .mul => some (x * y)
  | .div => if y = 0 then none else some (x.tdiv y)
  | .rem => if y = 0 then none else some (x.tmod y)
  | .min => some (if x ≤ y then x else y)
  | .max => some (if x ≤ y then y else x)

/-- The exact result of a float pair (R116 to R118). -/
def GenOp.onFloat (o : GenOp) (rd : RMode) (x y : FVal) : FVal :=
  match o with
  | .add => x.add rd y
  | .sub => x.add rd y.neg
  | .mul => x.mul y
  | .div => x.div y
  | .rem => x.rem y
  | .min => x.min y
  | .max => x.max y

/-- The lane trap OVERFLOW, opclass 16 (R109). -/
def overflowTrap (a b : Word) (clsB : Nat) : LaneTrap := ⟨.overflow, 16, tagClass a.tag, clsB, a, b, .nil⟩
/-- The lane trap DIVZERO, opclass 17 (R109). -/
def divZeroTrap (a b : Word) : LaneTrap := ⟨.divZero, 17, tagClass a.tag, tagClass b.tag, a, b, .nil⟩
/-- The lane trap TAG_PAIR (R107, R109). -/
def tagPairTrap (opclass : Nat) (a b c : Word) (clsB : Nat) : LaneTrap := ⟨.tagPair, opclass, tagClass a.tag, clsB, a, b, c⟩
/-- The lane trap TAG_CHECK, opclass 18: the tag operand and the class mask as INT (R109, R111). -/
def tagCheckTrap (a : Word) (t : Tag) (m : Byte) : LaneTrap :=
  ⟨.tagCheck, 18, tagClass a.tag, 0, a, natWord t.code.toNat, natWord m.toNat⟩

/-- One lane of a two-operand generic instruction (R107, R108, R116, R117). -/
def U.genPair (u : U) (o : GenOp) (a b : Word) : Except LaneTrap Word :=
  match pairKind a.tag b.tag with
  | none => .error (tagPairTrap o.opclass a b .nil (tagClass b.tag))
  | some .int =>
    match o.onInt a.pay.toInt b.pay.toInt with
    | none => .error (divZeroTrap a b)
    | some x =>
      match genInt u.sat u.notrap x with
      | some p => .ok (intBits p)
      | none => .error (overflowTrap a b (tagClass b.tag))
  | some (.flt f) => .ok (u.round f (o.onFloat u.rm (tagValue u.ftz a) (tagValue u.ftz b)))

/-- One lane of NEG or ABS (R116). -/
def U.genUnary (u : U) (isAbs : Bool) (a : Word) : Except LaneTrap Word :=
  match unaryKind a.tag with
  | none => .error (tagPairTrap (if isAbs then 8 else 7) a .nil .nil 0)
  | some .int =>
    match genInt u.sat u.notrap (if isAbs then (if a.pay.toInt < 0 then -a.pay.toInt else a.pay.toInt) else -a.pay.toInt) with
    | some p => .ok (intBits p)
    | none => .error (overflowTrap a .nil 0)
  | some (.flt f) =>
    let v := tagValue u.ftz a
    .ok (u.round f (if isAbs then v.abs else v.neg))

/-- One lane of FMA (R116). -/
def U.genFma (u : U) (a b c : Word) : Except LaneTrap Word :=
  match tripleKind a.tag b.tag c.tag with
  | none => .error (tagPairTrap 9 a b c (tagClass b.tag))
  | some .int =>
    match genInt u.sat u.notrap (a.pay.toInt * b.pay.toInt + c.pay.toInt) with
    | some p => .ok (intBits p)
    | none => .error { overflowTrap a b (tagClass b.tag) with c := c }
  | some (.flt f) => .ok (u.round f (((tagValue u.ftz a).mul (tagValue u.ftz b)).add u.rm (tagValue u.ftz c)))

/-- The order of a handled pair, by exact values (R118). -/
def genOrder (ftz : Bool) (a b : Word) : Option Ordering := (tagValue ftz a).cmp (tagValue ftz b)

/-- The lesser or greater of two exact values of one fold step or pair, in a format. -/
def boundOf (isMax : Bool) (x y : FVal) : FVal := if isMax then x.max y else x.min y

/-! ### Equivalence (R119, R121) -/

/-- EQV: tags equal and used payload bits equal (R82, R119). -/
def eqvWord (a b : Word) : Bool := a.tag == b.tag && (a.pay &&& tagUsed a.tag) == (b.pay &&& tagUsed b.tag)

/-- The pass test of CHKTAG (R119). -/
def tagTest (x t : Tag) (m : Byte) : Bool := x == t || (decide (tagClass x < 8) && m.getLsbD (tagClass x))

/-- An exact value as an INT, when it is integral and in range (R121). -/
def asExactInt : FVal → Option Int
  | .fin s n d => if n % d = 0 ∧ inInt (if s then -((n / d : Nat) : Int) else (n / d : Nat)) then some (if s then -((n / d : Nat) : Int) else (n / d : Nat)) else none
  | _ => none

/-- The key HASHV mixes (R121), subnormal floats read as zero under FTZ (R97); none raises TAG_PAIR. -/
def hashKey (ftz : Bool) (x : Word) : Option W64 :=
  match x.tag with
  | .nil => some (BitVec.allOnes 64)
  | .bool | .int => some (x.pay &&& tagUsed x.tag)
  | .f64 | .f32 | .f16 | .bf16 =>
    let v := tagValue ftz x
    some (match asExactInt v with
      | some i => BitVec.ofInt 64 i
      | none => BitVec.ofNat 64 (roundFmt .f64 .rn false false v))
  | .sym => some ((x.pay &&& tagUsed .sym) ^^^ 0x6000000000000000)
  | .bits => some (x.pay ^^^ 0x3000000000000000)
  | .ref | .tile | .hdr | .hdrc | .fwd | .poison => none

/-- The mixing of HASHV (R121). -/
def hashMix (k : W64) : W64 :=
  let x := k ^^^ (k >>> 33)
  let x := x * 0xFF51AFD7ED558CCD
  let x := x ^^^ (x >>> 33)
  let x := x * 0xC4CEB9FE1A85EC53
  x ^^^ (x >>> 33)

/-! ### Conversions (R120, R123) -/

/-- A float value rounded to an INT by CVT: none is OVERFLOW (R120). -/
def cvtInt (rd : RMode) (sat notrap : Bool) (v : FVal) : Option W64 :=
  match v with
  | .nan => if sat then some 0 else if notrap then some (BitVec.ofInt 64 intMin) else none
  | .inf s =>
    if sat then some (BitVec.ofInt 64 (if s then intMin else intMax))
    else if notrap then some (BitVec.ofInt 64 intMin) else none
  | .fin s n d => genInt sat notrap (toInteger rd s n d)

/-- A float value rounded to an integer by F2I: saturated, NaN gives 0 (R123). -/
def f2i (rd : RMode) (unsigned : Bool) (v : FVal) : W64 :=
  let lo : Int := if unsigned then 0 else intMin
  let hi : Int := if unsigned then 2 ^ 64 - 1 else intMax
  match v with
  | .nan => 0
  | .inf s => BitVec.ofInt 64 (if s then lo else hi)
  | .fin s n d =>
    let i := toInteger rd s n d
    BitVec.ofInt 64 (if i < lo then lo else if hi < i then hi else i)

/-! ### Addresses (R173, R219) -/

/-- The address of an L.M form in a lane: payload(base) + IMM24, modulo 2^64. -/
def Warp.baseAddr (w : Warp) (b : MBase) (imm : BitVec 24) (lane : Nat) : W64 :=
  (if b.scalar then (w.getS b.reg).pay else (w.getV lane b.reg).pay) + imm.signExtend 64

/-- The lane registers an L.M base names. -/
def baseV (b : MBase) : List Reg := if b.scalar then [] else [b.reg]
/-- The scalar registers an L.M base names. -/
def baseS (b : MBase) : List Reg := if b.scalar then [b.reg] else []

end Sys2Proof.Machine
end

