-- ==== Sys2Proof/Machine/Generic.lean ====
section
/-!
DEFINITION. The tag, move and generic instructions (spec 02, R48, R51; spec 04, R107 to R121).
-/
namespace Sys2Proof.Machine

/-- A short instruction's fields for the trap descriptor (R111). -/
def shortInfo (op : Nat) (d : Reg) : OpInfo := ⟨op, false, d, 1, 0, 0⟩
/-- A long instruction's fields for the trap descriptor (R111). -/
def longInfo (op : Nat) (d : Reg) (dfile opsel sub : Nat) : OpInfo := ⟨op, true, d, dfile, opsel, sub⟩

/-- A lane that writes a word, or traps. -/
def outOf (d : Reg) : Except LaneTrap Word → LaneOut
  | .ok x => .ok [.v d x]
  | .error t => .error (.trap t)

/-- A lane that writes a word. -/
def wordOut (d : Reg) (x : Word) : LaneOut := .ok [.v d x]

/-- A two-operand generic instruction, short form (R116). -/
def State.genShort (s : State) (op : Nat) (o : GenOp) (d a b : Reg) : Host.Outcome State Fault Refusal :=
  s.onUnit fun u => s.lanes u (shortInfo op d) [d, a, b] [a, b] u.active fun l =>
    outOf d (u.genPair o (u.w.getV l a) (u.w.getV l b))

/-- NOP does nothing (R48). -/
def execNop (s : State) : Host.Outcome State Fault Refusal := s.onUnit fun u => u.skip s

/-- MOV (R119): all 72 bits. -/
def execMov (d a : Reg) (s : State) : Host.Outcome State Fault Refusal :=
  s.onUnit fun u => s.lanes u (shortInfo 0x01 d) [d, a] [a] u.active fun l => wordOut d (u.w.getV l a)

/-- ADD (R116). -/
def execAdd (d a b : Reg) (s : State) : Host.Outcome State Fault Refusal := s.genShort 0x02 .add d a b
/-- SUB (R116). -/
def execSub (d a b : Reg) (s : State) : Host.Outcome State Fault Refusal := s.genShort 0x03 .sub d a b
/-- MUL (R116). -/
def execMul (d a b : Reg) (s : State) : Host.Outcome State Fault Refusal := s.genShort 0x04 .mul d a b
/-- MIN (R116, R118). -/
def execMin (d a b : Reg) (s : State) : Host.Outcome State Fault Refusal := s.genShort 0x05 .min d a b
/-- MAX (R116, R118). -/
def execMax (d a b : Reg) (s : State) : Host.Outcome State Fault Refusal := s.genShort 0x06 .max d a b

/-- NEG (R116). -/
def execNeg (d a : Reg) (s : State) : Host.Outcome State Fault Refusal :=
  s.onUnit fun u => s.lanes u (shortInfo 0x07 d) [d, a] [a] u.active fun l => outOf d (u.genUnary false (u.w.getV l a))
/-- ABS (R116). -/
def execAbs (d a : Reg) (s : State) : Host.Outcome State Fault Refusal :=
  s.onUnit fun u => s.lanes u (shortInfo 0x1F d) [d, a] [a] u.active fun l => outOf d (u.genUnary true (u.w.getV l a))

/-- MOVI (R119): INT, imm16 sign-extended. -/
def execMovi (d : Reg) (imm : BitVec 16) (s : State) : Host.Outcome State Fault Refusal :=
  s.onUnit fun u => s.lanes u (shortInfo 0x10 d) [d] [] u.active fun _ => wordOut d (intBits (imm.signExtend 64))

/-- ADDI (R116): the immediate is an INT. -/
def execAddi (d a : Reg) (imm : Byte) (s : State) : Host.Outcome State Fault Refusal :=
  s.onUnit fun u => s.lanes u (shortInfo 0x11 d) [d, a] [a] u.active fun l =>
    outOf d (u.genPair .add (u.w.getV l a) (intBits (imm.signExtend 64)))

/-- TAGOF (R119): the tag code; POISON raises nothing (R91). -/
def execTagof (d a : Reg) (s : State) : Host.Outcome State Fault Refusal :=
  s.onUnit fun u => s.lanes u (shortInfo 0x12 d) [d, a] [] u.active fun l =>
    wordOut d (natWord (u.w.getV l a).tag.code.toNat)

/-- The lane number within the current width; 0 to 31 in legacy-width mode (R127). -/
def Warp.laneNo (w : Warp) (l : Nat) : Nat := if w.legacy then l % 32 else l

/-- LANEID (R119, R127). -/
def execLaneid (d : Reg) (s : State) : Host.Outcome State Fault Refusal :=
  s.onUnit fun u => s.lanes u (shortInfo 0x13 d) [d] [] u.active fun l => wordOut d (natWord (u.w.laneNo l))

/-- MOVK (R119). -/
def execMovk (g : Guard) (k : MovkK) (d : Reg) (imm : W32) (s : State) : Host.Outcome State Fault Refusal :=
  s.onUnit fun u => s.lanes u (longInfo 0x00 d 1 0 k.code.toNat) [d] [] (u.acting g) fun _ =>
    wordOut d (match k with
      | .int => intBits (imm.signExtend 64)
      | .f32 => ⟨.f32, imm.setWidth 64⟩
      | .bits => ⟨.bits, imm.setWidth 64⟩
      | .sym => ⟨.sym, imm.setWidth 64⟩)

/-- MOVH (R119): vD is a source. -/
def execMovh (g : Guard) (k : MovhK) (d : Reg) (imm : W32) (s : State) : Host.Outcome State Fault Refusal :=
  s.onUnit fun u => s.lanes u (longInfo 0x01 d 1 0 k.code.toNat) [d] [d] (u.acting g) fun l =>
    let x := u.w.getV l d
    let t := match k with
      | .keep => if x.tag ∈ [Tag.int, .f64, .bits] then x.tag else .bits
      | .int => .int
      | .f64 => .f64
      | .bits => .bits
    wordOut d ⟨t, imm ++ x.pay.setWidth 32⟩

/-- Whether a RETAG is refused (R85, R86). -/
def retagDenied (pl : Nat) (t : Tag) (x : W64) : Bool :=
  (decide (pl = 0) && decide (t ∈ [Tag.ref, .tile, .hdr, .hdrc, .fwd, .poison])) ||
  (decide (t ∈ [Tag.ref, .fwd]) && (decide (x.toNat / 2 ^ 57 ≠ 0) || decide (x.toNat % 8 ≠ 0)))

/-- RETAG (R119, R85, R86); POISON made by it has origin 0 (R90). -/
def execRetag (g : Guard) (d a : Reg) (t : Tag) (s : State) : Host.Outcome State Fault Refusal :=
  s.onUnit fun u => s.lanes u (longInfo 0x02 d 1 0 0) [d, a] [a] (u.acting g) fun l =>
    let x := u.w.getV l a
    if retagDenied u.sp.pl t x.pay then .error (.fault ⟨6, codeTagPriv, 0, 0, false, 0⟩)
    else wordOut d (if t = .poison then poisonWord 0 else mkWord t x.pay)

/-- CHKTAG (R119): only the tag is read. -/
def execChktag (g : Guard) (a : Reg) (t : Tag) (m : Byte) (s : State) : Host.Outcome State Fault Refusal :=
  s.onUnit fun u => s.lanes u (longInfo 0x03 0 0 0 0) [a] [] (u.acting g) fun l =>
    let x := u.w.getV l a
    if tagTest x.tag t m then .ok [] else .error (.trap (tagCheckTrap x t m))

/-- TESTTAG (R119): the pass test of CHKTAG, to a predicate. -/
def execTesttag (g : Guard) (d a : Reg) (t : Tag) (m : Byte) (s : State) : Host.Outcome State Fault Refusal :=
  s.onUnit fun u => s.lanes u (longInfo 0x04 d 2 0 0) [a] [] (u.acting g) fun l =>
    .ok [.p d (tagTest (u.w.getV l a).tag t m)]

/-- SEL (R119): each lane reads only the word it selects. -/
def execSel (g : Guard) (d a b c : Reg) (s : State) : Host.Outcome State Fault Refusal :=
  s.onUnit fun u => s.lanes u (longInfo 0x05 d 1 0 0) [d, a, b] [] (u.acting g) fun l =>
    let r := if u.w.getP l c then a else b
    let x := u.w.getV l r
    if x.tag = .poison then .error (.fault (poisonFault (if u.w.getP l c then 0 else 1) r)) else wordOut d x

/-- FMA (R116). -/
def execFma (g : Guard) (d a b c : Reg) (s : State) : Host.Outcome State Fault Refusal :=
  s.onUnit fun u => s.lanes u (longInfo 0x06 d 1 0 0) [d, a, b, c] [a, b, c] (u.acting g) fun l =>
    outOf d (u.genFma (u.w.getV l a) (u.w.getV l b) (u.w.getV l c))

/-- A two-operand generic instruction, long form (R117). -/
def State.genLong (s : State) (op : Nat) (o : GenOp) (g : Guard) (d a b : Reg) : Host.Outcome State Fault Refusal :=
  s.onUnit fun u => s.lanes u (longInfo op d 1 0 0) [d, a, b] [a, b] (u.acting g) fun l =>
    outOf d (u.genPair o (u.w.getV l a) (u.w.getV l b))

/-- DIV (R117). -/
def execDiv (g : Guard) (d a b : Reg) (s : State) : Host.Outcome State Fault Refusal := s.genLong 0x07 .div g d a b
/-- REM (R117). -/
def execRem (g : Guard) (d a b : Reg) (s : State) : Host.Outcome State Fault Refusal := s.genLong 0x08 .rem g d a b

/-- CMP (R116, R118): exact values of a handled pair. -/
def execCmp (g : Guard) (cc : Cond) (d a b : Reg) (s : State) : Host.Outcome State Fault Refusal :=
  s.onUnit fun u => s.lanes u (longInfo 0x09 d 2 cc.code.toNat 0) [a, b] [a, b] (u.acting g) fun l =>
    let x := u.w.getV l a
    let y := u.w.getV l b
    match pairKind x.tag y.tag with
    | none => .error (.trap (tagPairTrap 10 x y .nil (tagClass y.tag)))
    | some _ => .ok [.p d (condHolds cc (genOrder u.ftz x y))]

/-- EQV (R119). -/
def execEqv (g : Guard) (d a b : Reg) (s : State) : Host.Outcome State Fault Refusal :=
  s.onUnit fun u => s.lanes u (longInfo 0x0A d 2 0 0) [a, b] [a, b] (u.acting g) fun l =>
    .ok [.p d (eqvWord (u.w.getV l a) (u.w.getV l b))]

/-- One lane of CVT (R120). -/
def U.cvtLane (u : U) (x : Word) (t : Tag) : Except LaneTrap Word :=
  let bad : Except LaneTrap Word := .error { tagPairTrap 13 x (natWord t.code.toNat) .nil (tagClass t) with b := natWord t.code.toNat }
  match t with
  | .int =>
    if x.tag = .int then .ok x
    else if x.tag = .bool then .ok (intBits (x.pay &&& 1))
    else if x.tag.ffmt.isSome then
      match cvtInt u.rm u.sat u.notrap (tagValue u.ftz x) with
      | some p => .ok (intBits p)
      | none => .error (overflowTrap x (natWord t.code.toNat) (tagClass t))
    else bad
  | .f64 | .f32 | .f16 | .bf16 =>
    match t.ffmt with
    | some f =>
      if x.tag = .bool then .ok (u.round f (.ofInt (x.pay &&& 1).toNat))
      else if x.tag = .int ∨ x.tag.ffmt.isSome then .ok (u.round f (tagValue u.ftz x))
      else bad
    | none => bad
  | .bool =>
    if x.tag = .nil then .ok (boolWord false)
    else if x.tag = .bool then .ok (mkWord .bool x.pay)
    else if x.tag = .int ∨ x.tag.ffmt.isSome then .ok (boolWord !(tagValue u.ftz x).isZero)
    else bad
  | .bits => if x.tag = .poison then bad else .ok ⟨.bits, x.pay &&& tagUsed x.tag⟩
  | .nil | .sym | .ref | .tile | .hdr | .hdrc | .fwd | .poison => bad

/-- CVT (R120). -/
def execCvt (g : Guard) (d a : Reg) (t : Tag) (s : State) : Host.Outcome State Fault Refusal :=
  s.onUnit fun u => s.lanes u (longInfo 0x0B d 1 0 0) [d, a] [a] (u.acting g) fun l => outOf d (u.cvtLane (u.w.getV l a) t)

/-- HASHV (R121). -/
def execHashv (g : Guard) (d a : Reg) (s : State) : Host.Outcome State Fault Refusal :=
  s.onUnit fun u => s.lanes u (longInfo 0x0C d 1 0 0) [d, a] [a] (u.acting g) fun l =>
    let x := u.w.getV l a
    match hashKey u.ftz x with
    | some k => wordOut d (intBits (hashMix k))
    | none => .error (.trap (tagPairTrap 12 x .nil .nil 0))

end Sys2Proof.Machine
end

