-- ==== Sys2Proof/Machine/Integer.lean ====
section
/-!
DEFINITION. The typed integer instructions (spec 02, R52; spec 04, R122): payloads as 64-bit integers whatever
the tags, results INT, wrapping unless SAT.
-/
namespace Sys2Proof.Machine

/-- A short integer instruction of sources `srcs`, writing the word `f` gives (R122). -/
def State.intShort (s : State) (op : Nat) (d : Reg) (srcs : List Reg) (f : U → Nat → Word) : Host.Outcome State Fault Refusal :=
  s.onUnit fun u => s.lanes u (shortInfo op d) (d :: srcs) srcs u.active fun l => wordOut d (f u l)

/-- A long integer instruction of sources `srcs`, writing the word `f` gives (R122). -/
def State.intLong (s : State) (op : Nat) (g : Guard) (d : Reg) (srcs : List Reg) (f : U → Nat → Word) :
    Host.Outcome State Fault Refusal :=
  s.onUnit fun u => s.lanes u (longInfo op d 1 0 0) (d :: srcs) srcs (u.acting g) fun l => wordOut d (f u l)

/-- The payload of a source in a lane. -/
def U.pay (u : U) (l : Nat) (r : Reg) : W64 := (u.w.getV l r).pay

/-- A bitwise result: BOOL when every source is BOOL, else INT (R122). -/
def bitWord (a b : Word) (x : W64) : Word := mkWord (if a.tag = .bool ∧ b.tag = .bool then .bool else .int) x

/-- NOT of a word: a BOOL inverts payload bit 0 only (R122). -/
def notWord (a : Word) : Word := if a.tag = .bool then mkWord .bool (a.pay ^^^ 1) else intBits (~~~a.pay)

/-- A shift amount: payload bits [5:0] (R122). -/
def shiftAmount (x : W64) : Nat := x.toNat % 64

/-- IADD (R122). -/
def execIadd (d a b : Reg) (s : State) : Host.Outcome State Fault Refusal :=
  s.intShort 0x08 d [a, b] fun u l => intBits (wrapSat u.sat ((u.pay l a).toInt + (u.pay l b).toInt))
/-- ISUB (R122). -/
def execIsub (d a b : Reg) (s : State) : Host.Outcome State Fault Refusal :=
  s.intShort 0x09 d [a, b] fun u l => intBits (wrapSat u.sat ((u.pay l a).toInt - (u.pay l b).toInt))
/-- AND (R122). -/
def execAnd (d a b : Reg) (s : State) : Host.Outcome State Fault Refusal :=
  s.intShort 0x0A d [a, b] fun u l => bitWord (u.w.getV l a) (u.w.getV l b) (u.pay l a &&& u.pay l b)
/-- OR (R122). -/
def execOr (d a b : Reg) (s : State) : Host.Outcome State Fault Refusal :=
  s.intShort 0x0B d [a, b] fun u l => bitWord (u.w.getV l a) (u.w.getV l b) (u.pay l a ||| u.pay l b)
/-- XOR (R122). -/
def execXor (d a b : Reg) (s : State) : Host.Outcome State Fault Refusal :=
  s.intShort 0x0C d [a, b] fun u l => bitWord (u.w.getV l a) (u.w.getV l b) (u.pay l a ^^^ u.pay l b)
/-- SHL (R122). -/
def execShl (d a b : Reg) (s : State) : Host.Outcome State Fault Refusal :=
  s.intShort 0x0D d [a, b] fun u l => intBits (u.pay l a <<< shiftAmount (u.pay l b))
/-- SHR (R122). -/
def execShr (d a b : Reg) (s : State) : Host.Outcome State Fault Refusal :=
  s.intShort 0x0E d [a, b] fun u l => intBits (u.pay l a >>> shiftAmount (u.pay l b))
/-- SAR (R122). -/
def execSar (d a b : Reg) (s : State) : Host.Outcome State Fault Refusal :=
  s.intShort 0x0F d [a, b] fun u l => intBits ((u.pay l a).sshiftRight (shiftAmount (u.pay l b)))
/-- NOT (R122). -/
def execNot (d a : Reg) (s : State) : Host.Outcome State Fault Refusal :=
  s.intShort 0x1E d [a] fun u l => notWord (u.w.getV l a)

/-- IMUL (R122). -/
def execImul (g : Guard) (d a b : Reg) (s : State) : Host.Outcome State Fault Refusal :=
  s.intLong 0x20 g d [a, b] fun u l => intBits (wrapSat u.sat ((u.pay l a).toInt * (u.pay l b).toInt))
/-- IMULH (R122): bits [127:64] of the product. -/
def execImulh (g : Guard) (sg : Sgn) (d a b : Reg) (s : State) : Host.Outcome State Fault Refusal :=
  s.intLong 0x21 g d [a, b] fun u l => intBits (BitVec.ofInt 64 ((asInt sg (u.pay l a) * asInt sg (u.pay l b)) / 2 ^ 64))
/-- IMAD (R122). -/
def execImad (g : Guard) (d a b c : Reg) (s : State) : Host.Outcome State Fault Refusal :=
  s.intLong 0x22 g d [a, b, c] fun u l =>
    intBits (wrapSat u.sat ((u.pay l a).toInt * (u.pay l b).toInt + (u.pay l c).toInt))

/-- One lane of IDIV or IREM: DIVZERO, or the result `f` of the operands (R122). -/
def State.intDivide (s : State) (op : Nat) (g : Guard) (sg : Sgn) (d a b : Reg) (f : U → Int → Int → W64) :
    Host.Outcome State Fault Refusal :=
  s.onUnit fun u => s.lanes u (longInfo op d 1 0 sg.code.toNat) [d, a, b] [a, b] (u.acting g) fun l =>
    let x := u.w.getV l a
    let y := u.w.getV l b
    if y.pay = 0 then .error (.trap (divZeroTrap x y)) else wordOut d (intBits (f u (asInt sg x.pay) (asInt sg y.pay)))

/-- IDIV (R122): the one signed quotient out of range wraps, or saturates under SAT. -/
def execIdiv (g : Guard) (sg : Sgn) (d a b : Reg) (s : State) : Host.Outcome State Fault Refusal :=
  s.intDivide 0x23 g sg d a b fun u x y => match sg with
    | .s => wrapSat u.sat (x.tdiv y)
    | .u => BitVec.ofInt 64 (x.tdiv y)
/-- IREM (R122). -/
def execIrem (g : Guard) (sg : Sgn) (d a b : Reg) (s : State) : Host.Outcome State Fault Refusal :=
  s.intDivide 0x24 g sg d a b fun _ x y => BitVec.ofInt 64 (x.tmod y)

/-- IMIN (R122). -/
def execImin (g : Guard) (sg : Sgn) (d a b : Reg) (s : State) : Host.Outcome State Fault Refusal :=
  s.intLong 0x25 g d [a, b] fun u l =>
    intBits (if asInt sg (u.pay l a) ≤ asInt sg (u.pay l b) then u.pay l a else u.pay l b)
/-- IMAX (R122). -/
def execImax (g : Guard) (sg : Sgn) (d a b : Reg) (s : State) : Host.Outcome State Fault Refusal :=
  s.intLong 0x26 g d [a, b] fun u l =>
    intBits (if asInt sg (u.pay l a) ≤ asInt sg (u.pay l b) then u.pay l b else u.pay l a)

/-- ICMP (R122). -/
def execIcmp (g : Guard) (sg : Sgn) (cc : Cond) (d a b : Reg) (s : State) : Host.Outcome State Fault Refusal :=
  s.onUnit fun u => s.lanes u (longInfo 0x27 d 2 cc.code.toNat sg.code.toNat) [a, b] [a, b] (u.acting g) fun l =>
    .ok [.p d (intCond sg cc (u.pay l a) (u.pay l b))]

/-- IADDI (R122). -/
def execIaddi (g : Guard) (d a : Reg) (imm : W32) (s : State) : Host.Outcome State Fault Refusal :=
  s.intLong 0x28 g d [a] fun u l => intBits (wrapSat u.sat ((u.pay l a).toInt + imm.toInt))
/-- ANDI (R122): the immediate sign-extended; the result INT (R52). -/
def execAndi (g : Guard) (d a : Reg) (imm : W32) (s : State) : Host.Outcome State Fault Refusal :=
  s.intLong 0x29 g d [a] fun u l => intBits (u.pay l a &&& imm.signExtend 64)
/-- ORI (R122). -/
def execOri (g : Guard) (d a : Reg) (imm : W32) (s : State) : Host.Outcome State Fault Refusal :=
  s.intLong 0x2A g d [a] fun u l => intBits (u.pay l a ||| imm.signExtend 64)
/-- XORI (R122). -/
def execXori (g : Guard) (d a : Reg) (imm : W32) (s : State) : Host.Outcome State Fault Refusal :=
  s.intLong 0x2B g d [a] fun u l => intBits (u.pay l a ^^^ imm.signExtend 64)

/-- SHI (R122). -/
def execShi (g : Guard) (k : ShiftK) (d a : Reg) (n : Byte) (s : State) : Host.Outcome State Fault Refusal :=
  s.intLong 0x2C g d [a] fun u l => intBits (match k with
    | .l => u.pay l a <<< n.toNat
    | .r => u.pay l a >>> n.toNat
    | .a => (u.pay l a).sshiftRight n.toNat)

/-- ROT (R122). -/
def execRot (g : Guard) (k : Side) (d a b : Reg) (s : State) : Host.Outcome State Fault Refusal :=
  s.intLong 0x2D g d [a, b] fun u l =>
    let x := u.pay l a
    let n := shiftAmount (u.pay l b)
    intBits (match k with
      | .l => (x <<< n) ||| (x >>> (64 - n))
      | .r => (x >>> n) ||| (x <<< (64 - n)))

/-- The number of one bits. -/
def popcount (x : W64) : Nat := ((List.range 64).filter fun i => x.getLsbD i).length
/-- The number of leading zeros; 64 for 0. -/
def leadingZeros (x : W64) : Nat := (((List.range 64).reverse.find? fun i => x.getLsbD i).map fun i => 63 - i).getD 64

/-- POPC (R122). -/
def execPopc (g : Guard) (d a : Reg) (s : State) : Host.Outcome State Fault Refusal :=
  s.intLong 0x2E g d [a] fun u l => natWord (popcount (u.pay l a))
/-- CLZ (R122). -/
def execClz (g : Guard) (d a : Reg) (s : State) : Host.Outcome State Fault Refusal :=
  s.intLong 0x2F g d [a] fun u l => natWord (leadingZeros (u.pay l a))

/-- A[pos + len − 1 : pos], zero- or sign-extended (R122). -/
def bitField (sx : Bool) (x : W64) (pos len : Nat) : W64 :=
  let f := (x <<< (64 - pos - len))
  if sx then f.sshiftRight (64 - len) else f >>> (64 - len)

/-- BFX (R122). -/
def execBfx (g : Guard) (sx : Bool) (d a : Reg) (pos len : Byte) (s : State) : Host.Outcome State Fault Refusal :=
  s.intLong 0x30 g d [a] fun u l => intBits (bitField sx (u.pay l a) pos.toNat len.toNat)

/-- BFI (R122): vD is read as a source. -/
def execBfi (g : Guard) (d a : Reg) (pos len : Byte) (s : State) : Host.Outcome State Fault Refusal :=
  s.intLong 0x31 g d [d, a] fun u l =>
    let m : W64 := BitVec.ofNat 64 ((2 ^ len.toNat - 1) * 2 ^ pos.toNat)
    intBits ((u.pay l d &&& ~~~m) ||| ((u.pay l a <<< pos.toNat) &&& m))

/-- LEA (R122). -/
def execLea (g : Guard) (d a b : Reg) (sh : BitVec 3) (s : State) : Host.Outcome State Fault Refusal :=
  s.intLong 0x32 g d [a, b] fun u l => intBits (wrapSat u.sat ((u.pay l a).toInt + (u.pay l b).toInt * 2 ^ sh.toNat))

/-- IADDC (R122): unsigned, carry in and out in p[C]. -/
def execIaddc (g : Guard) (d a b c : Reg) (s : State) : Host.Outcome State Fault Refusal :=
  s.onUnit fun u => s.lanes u (longInfo 0x33 d 1 0 0) [d, a, b] [a, b] (u.acting g) fun l =>
    let x := u.pay l a
    let y := u.pay l b
    let cin := u.w.getP l c
    .ok [.v d (intBits (x + y + (if cin then 1 else 0))), .p c (carryOut x y cin)]

/-- BREV (R122). -/
def execBrev (g : Guard) (d a : Reg) (s : State) : Host.Outcome State Fault Refusal :=
  s.intLong 0x34 g d [a] fun u l => intBits (u.pay l a).reverse

/-- ISAT (R122): the operand is signed, the range signed or unsigned. -/
def execIsat (g : Guard) (w : SatW) (un : Bool) (d a : Reg) (s : State) : Host.Outcome State Fault Refusal :=
  s.intLong 0x35 g d [a] fun u l =>
    let n := match w with | .b8 => 8 | .b16 => 16 | .b32 => 32
    let lo : Int := if un then 0 else -(2 ^ (n - 1))
    let hi : Int := if un then 2 ^ n - 1 else 2 ^ (n - 1) - 1
    let x := (u.pay l a).toInt
    intWord (if x < lo then lo else if hi < x then hi else x)

end Sys2Proof.Machine
end

