-- ==== Sys2Proof/Machine/CrossLane.lean ====
section
/-!
DEFINITION. The cross-lane instructions (spec 02, R48, R54; spec 04, R126 to R130).
-/
namespace Sys2Proof.Machine

/-- The width lane numbers are reduced by (R127). -/
def Warp.laneWidth (w : Warp) : Nat := if w.legacy then 32 else w.width

/-- The hardware lane of lane number n in the group of lane l: the warp, or in legacy-width mode its own 32-lane
warp (R127). -/
def Warp.laneIn (w : Warp) (l n : Nat) : Nat := if w.legacy then l / 32 * 32 + n % 32 else n % w.width

/-- Whether two lanes share a group of R127. -/
def Warp.sameGroup (w : Warp) (l m : Nat) : Bool := if w.legacy then l / 32 == m / 32 else true

/-- A word read from another lane: that of a participating lane, else NIL (R126). -/
def U.laneWord (u : U) (acting : List Nat) (a : Reg) (src : Nat) : Word :=
  if src ∈ acting then u.w.getV src a else .nil

/-- A shuffle: each lane receives A of its source lane (R128). -/
def State.shuffle (s : State) (u : U) (i : OpInfo) (d a : Reg) (extra : List Reg) (acting : List Nat) (src : Nat → Nat) : State :=
  s.lanes u i ([d, a] ++ extra) (a :: extra) acting fun l => wordOut d (u.laneWord acting a (src l))

/-- The source lane of SHFL with index or distance x (R128). -/
def U.shflSrc (u : U) (k : ShflK) (l x : Nat) : Nat :=
  let w := u.w.laneWidth
  let n := u.w.laneNo l
  match k with
  | .idx => u.w.laneIn l (x % w)
  | .up => if n < x then l else u.w.laneIn l (n - x)
  | .down => if w ≤ n + x then l else u.w.laneIn l (n + x)
  | .xor => u.w.laneIn l (n ^^^ (x % w))

/-- SHFL (R128): the operand modulo w, or the immediate. -/
def execShfl (g : Guard) (k : ShflK) (imm : Bool) (d a b : Reg) (s : State) : Host.Outcome State Fault Refusal :=
  s.onUnit fun u => s.shuffle u (longInfo 0x60 d 1 0 0) d a (if imm then [] else [b]) (u.acting g) fun l =>
    u.shflSrc k l (if imm then b.toNat else (u.w.getV l b).pay.toNat % u.w.laneWidth)

/-- SHFLX (R128). -/
def execShflx (d a : Reg) (m : Byte) (s : State) : Host.Outcome State Fault Refusal :=
  s.onUnit fun u => s.shuffle u (shortInfo 0x1D d) d a [] u.active fun l => u.shflSrc .xor l m.toNat

/-- BCAST (R128). -/
def execBcast (g : Guard) (d a : Reg) (lane : Byte) (s : State) : Host.Outcome State Fault Refusal :=
  s.onUnit fun u => s.shuffle u (longInfo 0x66 d 1 0 0) d a [] (u.acting g) fun l => u.w.laneIn l lane.toNat

/-- MATCH (R128): the lowest participating lane number whose word is equivalent. -/
def execMatchv (g : Guard) (d a : Reg) (s : State) : Host.Outcome State Fault Refusal :=
  s.onUnit fun u =>
    let acting := u.acting g
    s.lanes u (longInfo 0x65 d 1 0 0) [d, a] [a] acting fun l =>
      let x := u.w.getV l a
      let lead := (acting.find? fun m => u.w.sameGroup l m && eqvWord (u.w.getV m a) x).getD l
      wordOut d (natWord (u.w.laneNo lead))

/-- The value of VOTE for a group of predicate values (R129). -/
def voteValue (k : VoteK) (ps : List Bool) : Bool :=
  match k with
  | .all => ps.all id
  | .any => ps.any id
  | .uni => ps.all id || !(ps.any id)
  | .ballot => false

/-- A mask written to a scalar pair with tag BITS (R127, R129). -/
def Warp.setPair (w : Warp) (r : Reg) (t : Tag) (m : LaneMask) : Warp :=
  (w.setS r ⟨t, m.setWidth 64⟩).setS (pairHi r) ⟨t, m.extractLsb' 64 64⟩

/-- The mask a scalar pair holds. -/
def Warp.getPair (w : Warp) (r : Reg) : LaneMask := (w.getS (pairHi r)).pay ++ (w.getS r).pay

/-- VOTE (R129). -/
def execVote (g : Guard) (k : VoteK) (d a : Reg) (s : State) : Host.Outcome State Fault Refusal :=
  s.onUnit fun u =>
    let acting := u.acting g
    match k with
    | .ballot =>
      s.once u g [] (u.done s (u.w.setPair d .bits (maskOf (acting.filter fun l => u.w.getP l a))))
    | .all | .any | .uni =>
      s.lanes u (longInfo 0x61 d 2 0 0) [] [] acting fun l =>
        .ok [.p d (voteValue k ((acting.filter fun m => u.w.sameGroup l m).map fun m => u.w.getP m a))]

/-- LANESEL (R129): the inverse of the ballot. -/
def execLanesel (g : Guard) (d a : Reg) (s : State) : Host.Outcome State Fault Refusal :=
  s.onUnit fun u => s.once u g [a, pairHi a]
    (u.done s ((u.acting g).foldl (fun w l => w.setP l d ((u.w.getPair a).getLsbD l)) u.w))

/-! ### Reductions (R130) -/

/-- How the values of a reduction are folded (R130). -/
inductive FoldKind where
  | logic
  | int
  | flt (f : FFmt)
  deriving DecidableEq, Repr

/-- The fold kind of an op over the tags folded; none raises TAG_PAIR. -/
def foldKind (op : RedOp) (tags : List Tag) : Option FoldKind :=
  match op with
  | .and | .or | .xor => some .logic
  | .add | .min | .max =>
    match distinct tags with
    | [] => some .int
    | [t] => if t = .int then some .int else t.ffmt.map .flt
    | [t, t'] =>
      if (t = .f64 ∧ (t' = .int ∨ t' = .f32)) ∨ (t' = .f64 ∧ (t = .int ∨ t = .f32)) then some (.flt .f64) else none
    | _ => none

/-- One step of a logical fold: BOOL while every value is BOOL (R130). -/
def logicStep (op : RedOp) (x y : Word) : Word :=
  bitWord x y (match op with
    | .and => x.pay &&& y.pay
    | .or => x.pay ||| y.pay
    | .xor | .add | .min | .max => x.pay ^^^ y.pay)

/-- The first value of a logical fold. -/
def logicFirst (x : Word) : Word := bitWord x x x.pay

/-- One step of a fold over exact integers (R130). -/
def intStep (op : RedOp) (x y : Int) : Int :=
  match op with
  | .min => if x ≤ y then x else y
  | .max => if x ≤ y then y else x
  | .add | .and | .or | .xor => x + y

/-- A value of a float fold: its own format, or F64 in a mixed set, an INT rounded under RM (R130). -/
def U.foldValue (u : U) (f : FFmt) (x : Word) : FVal := fmtValue f u.ftz (u.round f (tagValue u.ftz x)).pay

/-- One step of a float fold, rounded to the format (R130). -/
def U.fltStep (u : U) (op : RedOp) (f : FFmt) (x y : FVal) : FVal :=
  let r := match op with
    | .min => x.min y
    | .max => x.max y
    | .add | .and | .or | .xor => x.add u.rm y
  fmtValue f u.ftz (u.round f r).pay

/-- What a fold comes to in one lane: a word, or OVERFLOW. -/
def U.fold (u : U) (op : RedOp) (k : FoldKind) (xs : List Word) : Option Word :=
  match xs with
  | [] => some .nil
  | x :: rest =>
    match k with
    | .logic => some (rest.foldl (logicStep op) (logicFirst x))
    | .int => (genInt u.sat u.notrap (rest.foldl (fun a y => intStep op a y.pay.toInt) x.pay.toInt)).map intBits
    | .flt f => some (u.round f (rest.foldl (fun a y => u.fltStep op f a (u.foldValue f y)) (u.foldValue f x)))

/-- The lanes that a lane's result folds. -/
inductive FoldSpan where
  | all
  | incl
  | excl
  | seg (c : Reg)
  deriving DecidableEq, Repr

/-- The segment of a lane: from the greatest start at or below it to the lane before the next (R130). -/
def segmentOf (starts : Nat → Bool) (ps : List Nat) (l : Nat) : List Nat :=
  let first := ps.head?.getD l
  let isStart := fun m => m == first || starts m
  let from_ := (ps.filter fun m => decide (m ≤ l) && isStart m).getLast?.getD first
  match ps.find? fun m => decide (l < m) && isStart m with
  | some next => ps.filter fun m => decide (from_ ≤ m) && decide (m < next)
  | none => ps.filter fun m => decide (from_ ≤ m)

/-- The lanes that lane l folds, of the participating lanes `ps` of its group. -/
def U.spanOf (u : U) (k : FoldSpan) (ps : List Nat) (l : Nat) : List Nat :=
  match k with
  | .all => ps
  | .incl => ps.filter fun m => decide (m ≤ l)
  | .excl => ps.filter fun m => decide (m < l)
  | .seg c => segmentOf (fun m => u.w.getP m c) ps l

/-- The fold kind of what each of the participating lanes `ps` folds; an empty fold takes any kind (R130). -/
def U.foldKinds (u : U) (op : RedOp) (k : FoldSpan) (a : Reg) (ps : List Nat) : List (Option FoldKind) :=
  ps.map fun l => foldKind op ((u.spanOf k ps l).map fun m => (u.w.getV m a).tag)

/-- A reduction (R130); in legacy-width mode within each 32-lane warp (R127). Where the tags that some lane folds form none of the
sets, every participating lane raises TAG_PAIR. -/
def State.reduce (s : State) (op8 : Nat) (sub : Nat) (g : Guard) (op : RedOp) (k : FoldSpan) (d a : Reg) :
    Host.Outcome State Fault Refusal :=
  s.onUnit fun u =>
    let acting := u.acting g
    s.lanes u (longInfo op8 d 1 op.code.toNat sub) [d, a] [a] acting fun l =>
      let ps := acting.filter fun m => u.w.sameGroup l m
      let x := u.w.getV l a
      let mine := u.spanOf k ps l
      match (u.foldKinds op k a ps).contains none, foldKind op (mine.map fun m => (u.w.getV m a).tag) with
      | false, some fk =>
        match u.fold op fk (mine.map fun m => u.w.getV m a) with
        | some r => wordOut d r
        | none => .error (.trap (overflowTrap x .nil 0))
      | _, _ => .error (.trap (tagPairTrap 11 x .nil .nil 0))

/-- RDX (R130). -/
def execRdx (g : Guard) (op : RedOp) (d a : Reg) (s : State) : Host.Outcome State Fault Refusal := s.reduce 0x62 0 g op .all d a
/-- SCAN (R130). -/
def execScan (g : Guard) (op : RedOp) (excl : Bool) (d a : Reg) (s : State) : Host.Outcome State Fault Refusal :=
  s.reduce 0x63 (if excl then 1 else 0) g op (if excl then .excl else .incl) d a
/-- SEGRDX (R130). -/
def execSegrdx (g : Guard) (op : RedOp) (d a c : Reg) (s : State) : Host.Outcome State Fault Refusal :=
  s.reduce 0x64 0 g op (.seg c) d a

end Sys2Proof.Machine
end

