-- ==== Sys2Proof/Machine/Access.lean ====
section
/-!
DEFINITION. Lane accesses to memory: the checks of R215 in the order of their ranks, the words loads write (R217),
the read barrier (R221), accesses inside a transaction (R198 to R200), accesses issued (R193) and stores performed.
-/
namespace Sys2Proof.Machine

/-! ### Scope (R191, R216) -/

/-- The scope an access names: that of its placement prefix, checked against LIMIT and clamped; without a prefix
the default (R191, R216). `k` continues with it. -/
def State.checkScope (s : State) (u : U) (sc : Nat) (clampable : Bool) (k : State → Nat → State) : State :=
  let c := s.ctx u.t.ctx
  if sc ≤ c.scopeLimit then k s sc
  else if c.scopeClamp && clampable then k (s.setCtx u.t.ctx { c with scopeClamped := true }) c.scopeLimit
  else s.raise u (mkTrap codeScopeDenied 0 u.pa.mask (BitVec.ofNat 64 sc))

/-- The hint of an access; it is checked when some lane acts. -/
def State.withHint (s : State) (u : U) (acting : List Nat) (dflt : Nat) (k : State → Nat → State) : State :=
  match u.c.place with
  | none => k s dflt
  | some (sc, _) => if acting = [] then k s dflt else s.checkScope u sc true k

/-- The policy of an access: 3 is no-allocate (R41, R216). -/
def U.pol (u : U) : Nat := match u.c.place with | some (_, p) => p | none => 0

/-- The unit waits at the boundary before it. -/
def U.hold (u : U) (s : State) : State :=
  { s.setWarp (u.at u.w u.c.start) with cur := some { u.c with stays := true } }

/-- The memory requests outstanding of a core: the accesses in flight of its warps and the commands its engines execute (R18;
log entry 104). -/
def State.requests (s : State) (core : Nat) : Nat :=
  (s.loads.filter fun p => p.core == core).length + (s.stores.filter fun p => p.core == core).length +
  (s.atoms.filter fun p => p.core == core).length + (s.tiles.filter fun x => x.core == core).length +
  ((s.tasks.filter fun t => t.core == core).map fun t =>
    (t.eng.map fun e => (e.2.cmds.filter fun c => c.started && !c.done).length).sum).sum

/-- The limit of a core's outstanding requests (R18). -/
def requestLimit : Nat := 2048

/-- A split whose counter would pass 4,095, or whose core has no room for another request, stalls at issue (R18, R193). -/
def State.paced (s : State) (u : U) (paths : List Nat) (k : State) : State :=
  if (paths.any fun p => decide (4095 ≤ u.sp.count p)) ∨ requestLimit ≤ s.requests u.t.core then u.hold s else k

/-! ### Access forms (R55, R217) -/

/-- The bytes of an access (R55). -/
def memBytes : MemTy → Nat
  | .i1 | .z1 => 1
  | .i2 | .z2 | .f2 | .bf => 2
  | .i4 | .z4 | .f4 => 4
  | .w | .i8 | .f8 | .bits => 8

/-- The word a typed load writes for the bytes it reads; also a whole-word load of memory that holds no tags. -/
def typedWord (ty : MemTy) (v : Nat) : Word :=
  match ty with
  | .w | .bits => ⟨.bits, BitVec.ofNat 64 v⟩
  | .i1 => intBits ((BitVec.ofNat 8 v).signExtend 64)
  | .i2 => intBits ((BitVec.ofNat 16 v).signExtend 64)
  | .i4 => intBits ((BitVec.ofNat 32 v).signExtend 64)
  | .i8 | .z1 | .z2 | .z4 => intBits (BitVec.ofNat 64 v)
  | .f2 => ⟨.f16, BitVec.ofNat 64 v⟩
  | .f4 => ⟨.f32, BitVec.ofNat 64 v⟩
  | .f8 => ⟨.f64, BitVec.ofNat 64 v⟩
  | .bf => ⟨.bf16, BitVec.ofNat 64 v⟩

/-- The tag a store leaves in a word of a tagged page (R218): that of the data for a whole-word store. -/
def storeTag (ty : MemTy) (x : Word) : Tag :=
  match ty with
  | .w => x.tag
  | .i8 => .int
  | .f8 => .f64
  | .i1 | .i2 | .i4 | .z1 | .z2 | .z4 | .f2 | .f4 | .bf | .bits => .bits

/-- The stored word with the payload bits its tag does not use zeroed, as a whole-word load returns it (R82). -/
def Mem.loadWord (m : Mem) (k : Nat) : Word := mkWord (m.tag k) (m.word (k / 8 * 8)).pay

/-- What a load of a type reads at a key (R217). -/
def Mem.load (m : Mem) (tagged : Bool) (k : Nat) (ty : MemTy) : Word :=
  if tagged then
    if m.tag k = .poison then m.loadWord k
    else match ty with
      | .w => m.loadWord k
      | _ => typedWord ty (m.read k (memBytes ty))
  else if m.marked k then poisonWord 3
  else typedWord ty (m.read k (memBytes ty))

/-! ### Reaching memory (R215) -/

/-- One place an instruction touches: its address, translation, key and size, whether it writes, whether it was read at
its home (R203, R206), and the past word that an invariant load took there, where it took one (R192). -/
structure Touch where
  va : W64
  tr : Trans
  key : Nat
  size : Nat
  write : Bool
  fresh : Bool
  past : Option TxRead
  deriving DecidableEq, Repr

/-- What a lane's access comes to: the word for its destination, what it touched and what it stores. -/
structure LaneMem where
  word : Option Word
  touches : List Touch
  items : List StoreItem
  deriving DecidableEq, Repr

/-- A MEM_FAULT of a lane (R215 item 5). -/
def memFault (kind : Nat) (va : W64) (write : Bool) : LaneStop := .fault ⟨5, codeMemFault, kind, va, write, 0⟩

/-- A translation fault of a lane. -/
def XFault.stop (e : XFault) (va : W64) (write : Bool) : LaneStop :=
  match e with
  | .wide => memFault 2 va write
  | .stage1 k => memFault k va write
  | .stage2 gpa => .stage2 gpa (if write then 1 else 0) va
  | .tagPool gpa => .stage2 gpa (if write then 5 else 4) va

/-- Alignment, translation and permission of a lane's access (R215 items 3 and 5). -/
def State.reach (s : State) (u : U) (k : AccKind) (va : W64) (size : Nat) : LaneRes Touch :=
  if va.toNat % size ≠ 0 then .error (.fault ⟨3, codeAlign, 0, va, false, 0⟩)
  else
    match s.translate u.t.ctx u.sp.pl k va with
    | .ok (tr, key) => .ok ⟨va, tr, key, size, k == .write, false, none⟩
    | .error e => .error (e.stop va (k == .write))

/-- Whether an access in flight of the split, an ATOM, a CAS or a DRAIN, writes the word or the line of a key: a later load of
the split returns what it leaves (R181). -/
def U.ownAhead (u : U) (s : State) (key : Nat) : Bool :=
  (s.atoms.any fun p => (u.sp.acc.any fun a => a.id == p.id) && p.items.any fun x => x.key / 8 == key / 8) ||
  (s.tiles.any fun x => (u.sp.acc.any fun a => a.id == x.id) && x.lines.contains (key / 128))

/-- Whether a DRAIN in flight of the split writes the scratchpad at a window address: a later access of the split follows it
(R162, R181). -/
def U.ownPad (u : U) (s : State) (va : W64) : Bool :=
  s.tiles.any fun x => (u.sp.acc.any fun a => a.id == x.id) && x.pads.contains (va.toNat / 32)

/-- A lane's load: it waits for the accesses of its split that it must see and that leave their value at the home. -/
def State.reachLoad (s : State) (u : U) (va : W64) (size : Nat) : LaneRes Touch :=
  match s.reach u .read va size with
  | .error e => .error e
  | .ok t => if u.ownAhead s t.key then .error .hold else .ok t

/-- The open transaction of a lane; one that a conflict has doomed no longer counts (R199, R200). -/
def Warp.openTx (w : Warp) (l : Nat) : Option Tx := w.txs.find? fun x => x.lane == l && x.doom.isNone

/-- The memory a lane's loads see: its transaction's stores over that of its split (R200). -/
def U.laneView (u : U) (s : State) (l key : Nat) : Mem :=
  let m := u.view s key
  match u.w.openTx l with
  | some x => m.storeAll (x.writes.filter fun it => it.key / 128 == key / 128)
  | none => m

/-! ### Headers (R203 to R206, R221) -/

/-- The home of an address with the dirty bytes of the core's own copy and the split's own stores over it. -/
def U.homeView (u : U) (s : State) (key : Nat) : Mem :=
  (s.freshAt u.t.core key).storeAll ((s.ownStores u.sp u.t).filter fun it => it.key / 128 == key / 128)

/-- The memory a header check, and an access that FWD has redirected, reads: the home with the dirty bytes of the core's own
copy, the split's own stores and the lane's transaction over it (R181, R203, R204, R206). -/
def U.headerView (u : U) (s : State) (l key : Nat) : Mem :=
  let m := u.homeView s key
  match u.w.openTx l with
  | some x => m.storeAll (x.writes.filter fun it => it.key / 128 == key / 128)
  | none => m

/-- The header word at an address, as stored, and what reading it touched. -/
def U.readHeader (u : U) (s : State) (l : Nat) (o : W64) : LaneRes (Word × Touch) :=
  match s.reachLoad u o 8 with
  | .error e => .error e
  | .ok t =>
    let m := u.headerView s l t.key
    let t : Touch := { t with fresh := true }
    .ok (if t.tr.tagged then m.loadWord t.key else if m.marked t.key then poisonWord 3 else ⟨.bits, BitVec.ofNat 64 (m.read t.key 8)⟩, t)

/-- Whether a tag is HDR or HDRC. -/
def isHeader (t : Tag) : Bool := t == .hdr || t == .hdrc

/-- The read barrier on a loaded REF (R221). -/
def U.barrier (u : U) (s : State) (l : Nat) (x : Word) : LaneRes (Word × List Touch) :=
  if x.tag ≠ .ref then .ok (x, [])
  else
    match u.readHeader s l x.pay with
    | .error e => .error e
    | .ok (h, t) =>
      if isHeader h.tag then .ok (x, [t])
      else if h.tag = .poison then .ok (poisonWord 2, [t])
      else if h.tag = .fwd then
        match u.readHeader s l h.pay with
        | .error e => .error e
        | .ok (h2, t2) =>
          if isHeader h2.tag then .ok (⟨.ref, h.pay⟩, [t, t2])
          else if h2.tag = .poison then .ok (poisonWord 2, [t, t2])
          else .error (memFault (if h2.tag = .fwd then 3 else 8) h.pay false)
      else .error (memFault 8 x.pay false)

/-! ### Transactions (R198 to R200) -/

/-- The lines of all open transactions of a warp together. -/
def Warp.txLines (w : Warp) : List Nat := distinct ((w.txs.filter fun x => x.doom.isNone).flatMap fun x => x.lines)

/-- A transaction that will abort with a code word. -/
def Warp.doomTx (w : Warp) (l : Nat) (code : W64) : Warp :=
  { w with txs := w.txs.map fun x => if x.lane = l ∧ x.doom = none then { x with doom := some code } else x }

/-- Whether two footprints share a line that at least one of them has stored (R199). -/
def Tx.conflicts (x y : Tx) : Bool := x.lines.any fun k => y.lines.contains k && (x.stored.contains k || y.stored.contains k)

/-- The memory that holds one word of the record of R192. -/
def TxRead.mem (r : TxRead) : Mem := (Mem.empty.write r.key (bytesLE r.data.toNat 8)).setTag r.key (r.tag.getD .nil)

/-- The word of the record of R192 that an access returned, or the memory below every transaction that it read. -/
def Touch.source (t : Touch) (u : U) (s : State) : Mem :=
  match t.past with
  | some r => r.mem
  | none => if t.fresh then u.homeView s t.key else u.view s t.key

/-- The values that a load of a transaction returned from memory, which TXEND compares (R201): all its bytes with their tag, or those
that no store of the transaction has covered. -/
def Tx.returned (x : Tx) (u : U) (s : State) (t : Touch) : List TxRead :=
  let m := t.source u s
  let own := fun (k : Nat) => x.writes.any fun it => decide (it.key ≤ k) && decide (k < it.key + it.size)
  let ks := (List.range t.size).map fun i => t.key + i
  if ks.any own then (ks.filter fun k => !own k).map fun k => ⟨k, 1, BitVec.ofNat 64 (m.read k 1), none⟩
  else [⟨t.key, t.size, BitVec.ofNat 64 (m.read t.key t.size), if t.tr.tagged then some (m.tag t.key) else none⟩]

/-- A lane's transactional access: what it touches enters its footprint, its loads and stores are kept, and the
conflicts and limits of R198 and R199 doom it or a higher lane; an atomic, which returns a word, has loaded what it writes. DESIGN
CHOICE (log entry 109): where several lower lanes win, WINNER
names the lowest. -/
def U.txAccess (u : U) (s : State) (w : Warp) (l : Nat) (x : Tx) (a : LaneMem) : Warp :=
  if a.touches.any fun t => t.tr.kind != .device then w.doomTx l (abortWord 5 0 0 0)
  else
    let lines := distinct (x.lines ++ a.touches.map fun t => t.key / 128)
    let stored := distinct (x.stored ++ (a.touches.filter fun t => t.write).map fun t => t.key / 128)
    let reads := (a.touches.filter fun t => !t.write || a.word.isSome).flatMap fun t => x.returned u s t
    let pages := distinct (x.pages ++ (a.touches.filter fun t => t.write).map fun t => t.tr.gpa / 65536)
    let x' : Tx := { x with lines := lines, stored := stored, reads := x.reads ++ reads, writes := x.writes ++ a.items, pages := pages }
    let w' := w.setTx x'
    if 32 < w'.txLines.length then w.doomTx l (abortWord 1 0 0 0)
    else
      match (w'.txs.filter fun y => y.doom.isNone && decide (y.lane < l) && y.conflicts x').map fun y => y.lane with
      | win :: rest => w.doomTx l (abortWord 2 0 (rest.foldl Nat.min win) 0)
      | [] => (w'.txs.filter fun y => y.doom.isNone && decide (l < y.lane) && y.conflicts x').foldl
          (fun w y => w.doomTx y.lane (abortWord 2 0 l 0)) w'

/-- The unit is done: active lanes whose transactions are doomed abort at its end (R235). -/
def U.doneTx (u : U) (s : State) (w : Warp) : State :=
  let ls := u.active.filterMap fun l => (w.tx? l).bind fun x => x.doom.map fun c => (l, c)
  if ls = [] then u.done s w else u.abort s w ls u.c.next

/-- A write of some lines by an agent outside them dooms the transactions whose footprints hold one (R200). -/
def State.doomLines (s : State) (writer : Option Nat) (lines : List Nat) : State :=
  let s := s.unsee lines
  if s.warps.all fun w => w.txs.isEmpty then s
  else { s with warps := s.warps.map fun w => { w with txs := w.txs.map fun x =>
      if x.doom.isNone && (x.lines.any fun k => lines.contains k) then
        { x with doom := some (abortWord (if writer = some w.id then 2 else 3) 0 0 0) }
      else x } }

/-- A warp in hand with the aborts that the writes of its unit have meanwhile caused in its transactions (R200). -/
def State.dooms (s : State) (w : Warp) : Warp :=
  match s.warp? w.id with
  | some x => { w with txs := w.txs.map fun t => if t.doom.isNone then { t with doom := (x.tx? t.lane).bind fun y => y.doom } else t }
  | none => w

/-! ### Stores performed -/

/-- The words that stores change, as they stand with what the storing core has written, are kept for the invariant loads of
every launch whose first task has started (R192). -/
def State.note (s : State) (core : Nat) (keys : List Nat) : State :=
  let add := fun (h : List (Nat × TxRead)) (e : Nat × TxRead) => if e ∈ h then h else h ++ [e]
  { s with history := (s.launches.filter fun l => l.begun).foldl (fun h l =>
      keys.foldl (fun h k =>
        let m := s.freshAt core k
        add h (l.id, ⟨k / 8 * 8, 8, (m.word (k / 8 * 8)).pay, some (m.tag k)⟩)) h) s.history }

/-- The words that stores are about to change, kept for the fetches that may still return them (R353). -/
def State.passWords (s : State) (core : Nat) (keys : List Nat) : State :=
  { s with past := s.past ++ (distinct (keys.map fun k => k / 8 * 8)).map fun k => ⟨k, ((s.freshAt core k).word k).pay, s.tick⟩ }

/-- A queue in error whose table entry some stores rewrite (R327). -/
def VQueue.rewritten (q : VQueue) (keys : List Nat) : VQueue :=
  match q.entry with
  | some e => if (keys.any fun k => decide (e ≤ k + 7) && decide (k < e + 64)) then { q with entry := none } else q
  | none => q

/-- The queues in error whose table entries some stores rewrite (R327). -/
def State.rewriteQueues (s : State) (keys : List Nat) : State :=
  if (s.ctxs.any fun c => c.2.queues.any fun q => q.2.entry.isSome) then
    { s with ctxs := s.ctxs.map fun c => (c.1, { c.2 with queues := c.2.queues.map fun q => (q.1, q.2.rewritten keys) }) }
  else s

/-- Store items performed at the point their hint names, with the dirty bitmap and the records of R192 and R353. -/
def State.performItems (s : State) (core ctx hint : Nat) (items : List StoreItem) (pages : List Nat) : State :=
  if items = [] then s
  else
    let keys := items.map fun it => it.key
    let s := (s.logDirtyAll ctx pages).unsee (items.map fun it => it.key / 128)
    let s := ((s.note core keys).passWords core keys).rewriteQueues keys
    let s := items.foldl (fun s it => s.performItem core ctx hint it) s
    s.note core keys

/-- Non-transactional stores performed: they also doom the transactions they meet (R200). -/
def State.perform (s : State) (writer : Option Nat) (core ctx hint : Nat) (items : List StoreItem) (pages : List Nat) : State :=
  if items = [] then s
  else (s.performItems core ctx hint items pages).doomLines writer (distinct (items.map fun it => it.key / 128))

/-! ### Accesses issued (R193) -/

/-- Whether two of some store items write a byte in common. -/
def collide (items : List StoreItem) : Bool :=
  items.any fun a => decide (1 < (items.filter fun b => decide (a.key < b.key + b.size) && decide (b.key < a.key + a.size)).length)

/-- The number of orders of a list. -/
def orders {α : Type} : List α → Nat
  | [] => 1
  | x :: xs => (x :: xs).length * orders xs

/-- The order of a list that a number names: every order has one below `orders`. -/
def orderOf {α : Type} : Nat → List α → List α
  | _, [] => []
  | n, x :: xs =>
    let ys := orderOf (n / (xs.length + 1)) xs
    ys.take (n % (xs.length + 1)) ++ x :: ys.drop (n % (xs.length + 1))

/-- The order in which the lanes of one instruction are taken: any order where two of them meet (R178). -/
def State.laneOrder {α : Type} (s : State) (meet : Bool) (xs : List α) : State × List α :=
  if meet then
    let c := s.choose (orders xs)
    (c.2, orderOf c.1 xs)
  else (s, xs)

/-- The set of the L2 that keeps a device line: its home slice, and the set there (R21, R208, R309). -/
def State.l2SetOf (s : State) (line : Nat) : Nat × Nat := ((s.homeAt (line * 128)).1, Config.l2Set line % 512)

/-- The ways that marked lines of a class may fill: those of its mask, ways 14 and 15 where that is empty (R314). -/
def SClass.markedWays (c : SClass) : BitVec 16 := if c.ways = 0 then 0xC000 else c.ways

/-- The lines of device memory that store items write. -/
def deviceLines (items : List StoreItem) : List Nat := distinct ((items.filter fun it => isDeviceKey it.key).map fun it => it.key / 128)

/-- A service class (R312). -/
def State.sclass (s : State) (k : Nat) : SClass := Table.get .reset s.classes k

/-- The ways that speculation-marked lines fill in the set of a line (R208, R314). -/
def State.filledWays (s : State) (line : Nat) : List Nat :=
  (s.tasks.filter fun t => t.spec == .running).flatMap fun t => (t.ways.filter fun x => s.l2SetOf x.1 == s.l2SetOf line).map fun x => x.2

/-- The lines that some store items mark for a task beside those it has marked. -/
def Task.newLines (t : Task) (items : List StoreItem) : List Nat := (deviceLines items).filter fun k => !(t.ways.any fun x => x.1 == k)

/-- The ways that the new lines of a task may fill in the set of a line: those of its class that no marked line fills (R314). -/
def State.openWays (s : State) (t : Task) (line : Nat) : List Nat :=
  (List.range 16).filter fun i => (s.sclass t.pri).markedWays.getLsbD i && !(s.filledWays line).contains i

/-- Whether the L2 has room for a task's further speculative stores: at most two marked lines in a set, in ways of their classes
(R208, R314). A line stays in the way it has filled, whatever becomes of the mask of its class. -/
def State.specFits (s : State) (t : Task) (items : List StoreItem) : Bool :=
  t.spec != .running ||
    let new := t.newLines items
    new.all fun k =>
      let here := (new.filter fun x => s.l2SetOf x == s.l2SetOf k).length
      decide ((s.filledWays k).length + here ≤ 2) && decide (here ≤ (s.openWays t k).length)

/-- The ways that the lines of a task fill once some store items have marked theirs: of those open in its set, a free choice for
each. -/
def State.fillWays (s : State) (t : Task) (items : List StoreItem) : Table Nat :=
  (t.newLines items).foldl (fun ws k =>
    let open_ := (s.openWays t k).filter fun i => !(ws.any fun x => x.2 == i && s.l2SetOf x.1 == s.l2SetOf k)
    Table.insert ws k (open_.getD (Config.pickAt s.tick k % open_.length) 0)) t.ways

/-- Speculative stores held with a task (R208). -/
def State.holdSpec (s : State) (t : Task) (items : List StoreItem) (pages : List Nat) : Task :=
  { t with specStores := t.specStores ++ items, specPages := distinct (t.specPages ++ pages), ways := s.fillWays t items }

/-- The same for the task of the executing split. -/
def U.specRoom (u : U) (s : State) (items : List StoreItem) : Bool := s.specFits u.t items

/-- The items of the lanes that complete a store. -/
def laneItems (oks : List (Nat × LaneMem)) : List StoreItem := oks.flatMap fun x => x.2.items

/-- The warp-registers of a core (R28). -/
def coreRegs : Nat := 2048

/-- The warp-register of a core that holds a declared register of a lane, and its generation (R268). -/
def State.regTag (s : State) (core : Nat) (w : Warp) (lane reg : Nat) : Nat × BitVec 4 :=
  let k := core * coreRegs + w.rows.getD ((w.off + lane * w.nregs + reg) / 64) 0
  (k, Table.get 0 s.regGen k)

/-- Loads in flight: the destinations are written at completion; `lines` are requested beyond the L1. -/
def U.issueLoad (u : U) (s : State) (w : Warp) (path : Nat) (dests : List RegWrite) (lines : List Nat := []) : State × Warp :=
  let f := s.fresh
  ({ f.2 with loads := f.2.loads ++ [⟨f.1, u.t.core, u.t.ctx, dests, u.t.pri, lines⟩] }, u.addAcc w f.1 path)

/-- Stores in flight; those of a speculative task are held with the task (R208). -/
def U.issueStore (u : U) (s : State) (w : Warp) (hint : Nat) (items : List StoreItem) (pages : List Nat) : State × Warp :=
  let f := s.fresh
  let spec := u.t.spec == .running
  let s := if spec ∧ items ≠ [] then f.2.onTask u.t.id fun t => f.2.holdSpec t items pages
    else f.2
  let p : PendStore := ⟨f.1, w.id, u.t.id, u.t.core, u.t.ctx, hint, if spec then [] else items, if spec then [] else pages,
    u.sp.acc.map fun a => a.id, s.nowNs⟩
  ({ s with stores := s.stores ++ [p] }, u.addAcc w f.1 3)

/-- A destination register of a lane, when the role reaches it. -/
def U.dest (u : U) (s : State) (l : Nat) (r : Reg) (x : Word) : List RegWrite :=
  match regIndex u.w.nregs r with
  | some k => let t := s.regTag u.t.core u.w l k; [⟨u.w.id, l, k, x, t.1, t.2⟩]
  | none => []

/-- The size that the header partition of a core has, as HDRP counts it: one that a write of HDRP has not changed yet (R205). -/
def Part.hdrpAt (x : Part) (core : Nat) : Nat := ((x.hdrpOld.find? fun y => y.1 == core).map fun y => y.2).getD x.hdrp

/-- HDRP written (R205): it changes at once where no task is resident, elsewhere once none is. -/
def State.setHdrp (s : State) (p v : Nat) : State :=
  let x := s.part p
  let busy := distinct ((s.tasks.filter fun t => x.cports.getLsbD (t.core / 8)).map fun t => t.core)
  s.setPart p { x with hdrp := v, hdrpOld := busy.map fun c => (c, x.hdrpAt c) }

/-- Header partitions emptied on cores where HDRP has changed and no task is resident (R205). -/
def State.emptyHeaders (s : State) : State :=
  let free := fun (core : Nat) => !(s.tasks.any fun t => t.core == core)
  if s.parts.all fun p => p.2.hdrpOld.isEmpty then s
  else
    let gone := s.parts.flatMap fun p => (p.2.hdrpOld.map fun y => y.1).filter free
    { s with
      hdrs := s.hdrs.filter fun h => !gone.contains h.core
      parts := Table.mapVals .reset (fun _ x => { x with hdrpOld := x.hdrpOld.filter fun y => !free y.1 }) s.parts }

/-- A line read at its home as a header kept in the core's header partition under its context's id, where the partition's HDRP gives
one (R204, R205, R310); a copy under another id is dropped (R311). -/
def State.holdHeader (s : State) (core ctx line : Nat) : State :=
  if !isDeviceKey (line * 128) || (s.part (s.ctx ctx).part).hdrpAt core == 0 then s
  else { s with hdrs := (s.hdrs.filter fun x => !(x.core == core && x.line == line)) ++ [⟨core, ctxId ctx, line⟩] }

/-- What accesses leave behind: translations cached, and lines loaded into the L1 unless the policy forbids; what was read at
its home makes the core's copy as new (R181). -/
def U.touchAll (u : U) (s : State) (ts : List Touch) : State :=
  ts.foldl (fun s t =>
    let s := s.touch u.t.ctx t.va t.tr
    let k := t.key / 128
    let s := if t.fresh then (((s.l1Others u.t.core u.t.ctx [k]).l1Refresh u.t.core k).holdHeader u.t.core u.t.ctx k) else s
    if t.tr.kind == .device && !t.write && u.pol != 3 then s.l1Fill u.t.core u.t.ctx (t.key / 128) else s) s

/-- The device lines that some touches load. -/
def loadLines (ts : List Touch) : List Nat := distinct ((ts.filter fun t => !t.write && t.tr.kind == .device).map fun t => t.key / 128)

/-- Those of them that the core's L1 does not hold. -/
def U.missLines (u : U) (s : State) (ts : List Touch) : List Nat :=
  (loadLines ts).filter fun k => (s.l1Find u.t.core u.t.ctx k).isNone

/-- The lines that some loads request beyond the L1: what it does not hold of device memory, and what lies beyond the crossbar. -/
def U.sentLines (u : U) (s : State) (ts : List Touch) : List Nat :=
  u.missLines s ts ++ distinct ((ts.filter fun t => !t.write && t.tr.kind != .device).map fun t => t.key / 128)

/-- L1 hits and misses (R357): of the lines that loads read, and of those that stores write in the L1. -/
def U.countL1 (u : U) (s : State) (hint : Nat) (w : Warp) (ts : List Touch) : Warp :=
  let lines := distinct (loadLines ts ++ (ts.filter fun t => t.write && inL1 hint t.key).map fun t => t.key / 128)
  let misses := (lines.filter fun k => (s.l1Find u.t.core u.t.ctx k).isNone).length
  (w.bump 2 (lines.length - misses)).bump 3 misses

/-- The lanes that complete a memory instruction: transactional lanes act in their transactions, the others' loads
and stores are issued on `path` with `hint`. Destinations are written at completion for loads. -/
def U.finishLanes (u : U) (s : State) (path hint : Nat) (d : Reg) (oks : List (Nat × LaneMem)) : State × Warp :=
  if oks = [] then (s, u.w)
  else
    let touches := oks.flatMap fun x => x.2.touches
    let w := u.countL1 s hint u.w touches
    let misses := u.sentLines s touches
    let tx := oks.filter fun x => (u.w.openTx x.1).isSome
    let plain := oks.filter fun x => (u.w.openTx x.1).isNone
    let w := tx.foldl (fun w x => match w.openTx x.1 with | some t => u.txAccess s w x.1 t x.2 | none => w) w
    let s := u.touchAll s touches
    let kept := plain ++ tx.filter fun x => (w.openTx x.1).isSome
    let dests := kept.flatMap fun x => match x.2.word with | some v => u.dest s x.1 d v | none => []
    let items := plain.flatMap fun x => x.2.items
    let pages := distinct (plain.flatMap fun x => (x.2.touches.filter fun t => t.write).map fun t => t.tr.gpa / 65536)
    let ld : State × Warp := if path < 3 then u.issueLoad s w path dests misses else (s, w)
    if path = 3 ∧ plain ≠ [] then
      let o := ld.1.laneOrder (collide items) items
      u.issueStore o.1 ld.2 hint o.2 pages
    else ld

/-- The outcome of a memory instruction (R115, R215): as `State.settle`, with the aborts of R235 at its end. A unit for whose
stores there is no `room` stalls (R208). -/
def State.settleMem {α : Type} (s : State) (u : U) (i : OpInfo) (hint : Nat) (outs : List (Nat × LaneRes α))
    (k : List (Nat × α) → State × Warp) (room : List (Nat × α) → Bool := fun _ => true) : State :=
  match worstFault outs with
  | some t => s.raise u t
  | none =>
    match firstStage2 outs with
    | some (gpa, kind, va, m) => s.stage2Wait u gpa kind va m
    | none =>
      if outs.any fun x => match x.2 with | .error .hold => true | _ => false then u.hold s
      else if !room (doneLanes outs) then u.hold s
      else
        match trapLanes outs with
        | [] => let r := k (doneLanes outs); u.doneTx r.1 r.2
        | ts => s.laneTraps u u k (doneLanes outs) i hint none ts

/-- The outcomes of lanes whose pages need more tags than the pool holds: the lanes from the first page that finds it exhausted
on meet a stage-2 fault of kind "tag pool" (R308). -/
def State.poolCheck {α : Type} (s : State) (u : U) (touches : α → List Touch) (outs : List (Nat × LaneRes α)) : List (Nat × LaneRes α) :=
  let pages := fun (x : Nat × LaneRes α) => match x.2 with | .ok a => (touches a).map fun t => t.tr | .error _ => []
  if (s.overPool u.t.ctx (outs.flatMap pages)).isNone then outs
  else
    (outs.foldl (fun (r : List Trans × List (Nat × LaneRes α)) x =>
      match x.2 with
      | .error _ => (r.1, r.2 ++ [x])
      | .ok a =>
        match (touches a).find? fun t => (s.overPool u.t.ctx (r.1 ++ [t.tr])).isSome with
        | some t => (r.1, r.2 ++ [(x.1, .error ((XFault.tagPool (t.tr.gpa + t.va.toNat % 65536)).stop t.va t.write))])
        | none => (r.1 ++ pages x, r.2 ++ [x])) ([], [])).2

/-- A memory instruction of the acting lanes (R215): the names it uses (R106), its hint, then the lanes, POISON
among `srcs` (lane registers in the order D, A, B) or in a scalar base first. -/
def State.memLanes {α : Type} (s : State) (u : U) (i : OpInfo) (g : Guard) (named srcs : List Reg) (scal : List Reg)
    (paths : List Nat) (dflt : Nat) (f : State → Nat → LaneRes α) (k : State → Nat → List (Nat × α) → State × Warp)
    (room : State → List (Nat × α) → Bool := fun _ _ => true) (touches : α → List Touch := fun _ => []) : State :=
  if named.any fun r => (regIndex u.w.nregs r).isNone then s.illegal u
  else
    let acting := u.acting g
    s.withHint u acting dflt fun s hint =>
      s.paced u paths <|
        let outs := acting.map fun l =>
          (l, match u.w.poisonIn l srcs, u.w.poisonS scal with
            | some r, _ => .error (.fault (poisonFault (placeOf r srcs) r))
            | none, some r => .error (.fault (poisonFault srcs.length r))
            | none, none => f s l)
        s.settleMem u i hint (s.poolCheck u touches outs) (k s hint) (room s)

end Sys2Proof.Machine
end

