-- ==== Sys2Proof/Machine/Scratch.lean ====
section
/-!
DEFINITION. The cohort window and scratchpad (R20, R137, R173, R175): resolving a window address to an allocation,
and reading and writing its bytes and poison marks (R218, R391).
-/
namespace Sys2Proof.Machine

/-- The size of a task's allocation: SCRATCH rounded up to a multiple of 1,024 (R137). -/
def Task.alloc (t : Task) : Nat := (t.scratchSize + 1023) / 1024 * 1024

/-- Whether a task belongs to the cohort of another; a task outside any cohort forms one of its own (R137). -/
def Task.mate (t x : Task) : Bool := x.id == t.id || (t.cohort.isSome && x.cohort == t.cohort)

/-- The task whose allocation a window slot names (R137). -/
def State.slotTask (s : State) (t : Task) (slot : Nat) : Option Task := s.tasks.find? fun x => t.mate x && x.core % 64 == slot

/-- A window extent resolved (R137, R173): the task and the offset, when every byte lies in one allocation. -/
def State.window (s : State) (t : Task) (va : W64) (size : Nat) : Option (Task × Nat) :=
  if va.toNat / 2 ^ 25 ≠ 0 then none
  else
    match s.slotTask t (va.toNat / 2 ^ 19) with
    | none => none
    | some x => if va.toNat % 2 ^ 19 + size ≤ x.alloc then some (x, va.toNat % 2 ^ 19) else none

/-- A byte of scratchpad. -/
def Task.sbyte (t : Task) (o : Nat) : Byte := Table.get 0 t.scratch o
/-- n bytes of scratchpad, little-endian. -/
def Task.sread (t : Task) (o n : Nat) : Nat := readLE t.sbyte o n
/-- Whether the aligned 8-byte word that holds a byte is marked poisoned. -/
def Task.smark (t : Task) (o : Nat) : Bool := Table.get false t.smarks (o / 8)

/-- A store to scratchpad (R218): a whole word clears its mark; a part of a marked word is dropped. -/
def Task.sstore (t : Task) (o n : Nat) (v : W64) : Task :=
  let wr := { t with scratch := putBytes t.scratch o (bytesLE v.toNat n) }
  if n = 8 then { wr with smarks := Table.put false t.smarks (o / 8) false }
  else if t.smark o then t else wr

/-- The words that hold some bytes marked poisoned (R391). -/
def Task.spoison (t : Task) (o : Nat) : Task := { t with smarks := Table.put false t.smarks (o / 8) true }

/-- A lane's window access: alignment, then bounds (R215 items 3 and 4). -/
def State.reachWindow (s : State) (u : U) (va : W64) (size : Nat) : LaneRes (Task × Nat) :=
  if va.toNat % size ≠ 0 then .error (.fault ⟨3, codeAlign, 0, va, false, 0⟩)
  else
    match s.window u.t va size with
    | some x => .ok x
    | none => .error (.fault ⟨4, codeScratchBounds, 0, va, false, 0⟩)

end Sys2Proof.Machine
end

