-- ==== Sys2Proof/Machine/Memory.lean ====
section
/-!
DEFINITION. Loads, stores and cache control (spec 02, R55; spec 07, R215 to R220, R232, R233).
-/
namespace Sys2Proof.Machine

/-- What a load of a word comes to: the word through the read barrier (R217, R221). -/
def U.loaded (u : U) (s : State) (l : Nat) (t : Touch) (x : Word) : LaneRes LaneMem :=
  match u.barrier s l x with
  | .error e => .error e
  | .ok (y, ts) => .ok ⟨some y, t :: ts, []⟩

/-- One lane of a load from an address (R217, R219). -/
def U.loadLane (u : U) (s : State) (ty : MemTy) (l : Nat) (va : W64) : LaneRes LaneMem :=
  match s.reachLoad u va (memBytes ty) with
  | .error e => .error e
  | .ok t => u.loaded s l t ((u.laneView s l t.key).load t.tr.tagged t.key ty)

/-- LD (R217, R219). -/
def execLd (g : Guard) (ty : MemTy) (d : Reg) (base : MBase) (imm : BitVec 24) (s : State) : Host.Outcome State Fault Refusal :=
  s.onUnit fun u => s.memLanes u (longInfo 0x70 d 1 0 0) g (d :: baseV base) (baseV base) (baseS base) [0] 0
    (fun s l => u.loadLane s ty l (u.w.baseAddr base imm l))
    (fun s hint oks => u.finishLanes s 0 hint d oks) (touches := LaneMem.touches)

/-- LDX (R219): payload(A) + (payload(B) << sh). -/
def execLdx (g : Guard) (ty : MemTy) (d a b : Reg) (sh : BitVec 3) (s : State) : Host.Outcome State Fault Refusal :=
  s.onUnit fun u => s.memLanes u (longInfo 0x85 d 1 0 0) g [d, a, b] [a, b] [] [0] 0
    (fun s l => u.loadLane s ty l ((u.w.getV l a).pay + ((u.w.getV l b).pay <<< sh.toNat)))
    (fun s hint oks => u.finishLanes s 0 hint d oks) (touches := LaneMem.touches)

/-- The words that an invariant load of a location may return (R192): what it holds and what it has held since the
launch began. -/
def U.invariantWords (u : U) (s : State) (ty : MemTy) (l : Nat) (t : Touch) : List Word :=
  let past := s.history.filter fun h => h.1 == u.t.launch && h.2.key == t.key / 8 * 8
  distinct ((u.laneView s l t.key).load t.tr.tagged t.key ty :: past.map fun h => h.2.mem.load t.tr.tagged t.key ty)

/-- The past word that an invariant load of a word takes; none where the location holds it now. -/
def U.invariantPast (u : U) (s : State) (ty : MemTy) (l : Nat) (t : Touch) (x : Word) : Option TxRead :=
  if (u.laneView s l t.key).load t.tr.tagged t.key ty = x then none
  else ((s.history.filter fun h => h.1 == u.t.launch && h.2.key == t.key / 8 * 8).find? fun h => h.2.mem.load t.tr.tagged t.key ty == x).map
    fun h => h.2

/-- One lane of LDINV: a free choice among the words of R192. -/
def U.loadInvLane (u : U) (s : State) (ty : MemTy) (l : Nat) (va : W64) : LaneRes LaneMem :=
  match s.reach u .read va (memBytes ty) with
  | .error e => .error e
  | .ok t =>
    let xs := u.invariantWords s ty l t
    let x := xs.getD (if xs.length ≤ 1 then 0 else Config.pickAt s.tick l % xs.length) .nil
    u.loaded s l { t with past := u.invariantPast s ty l t x } x

/-- LDINV (R192, R219): the choices of its lanes are drawn at one value of the counter. -/
def execLdinv (g : Guard) (ty : MemTy) (d : Reg) (base : MBase) (imm : BitVec 24) (s : State) : Host.Outcome State Fault Refusal :=
  s.onUnit fun u => s.memLanes u (longInfo 0x72 d 1 0 0) g (d :: baseV base) (baseV base) (baseS base) [0] 0
    (fun s l => u.loadInvLane s ty l (u.w.baseAddr base imm l))
    (fun s hint oks => u.finishLanes { s with tick := s.tick + 1 } 0 hint d oks) (touches := LaneMem.touches)

/-- Whether a stored word is forbidden at the level (R85). -/
def storeDenied (pl : Nat) (t : Tag) : Bool := pl == 0 && (t == .hdr || t == .hdrc || t == .fwd)
/-- TAG_PRIV of a lane (R215 item 6). -/
def tagPriv : LaneStop := .fault ⟨6, codeTagPriv, 0, 0, false, 0⟩

/-- One lane of a store to an address (R218). -/
def U.storeLane (u : U) (s : State) (ty : MemTy) (x : Word) (va : W64) : LaneRes LaneMem :=
  match s.reach u .write va (memBytes ty) with
  | .error e => .error e
  | .ok t =>
    if storeDenied u.sp.pl x.tag then .error tagPriv
    else .ok ⟨none, [t], [⟨t.key, memBytes ty, x.pay, if t.tr.tagged then some (storeTag ty x) else none, false⟩]⟩

/-- ST (R218, R219): hint BLOCK without a prefix (R216). -/
def execSt (g : Guard) (ty : MemTy) (d : Reg) (base : MBase) (imm : BitVec 24) (s : State) : Host.Outcome State Fault Refusal :=
  s.onUnit fun u => s.memLanes u (longInfo 0x71 d 0 0 0) g (d :: baseV base) (d :: baseV base) (baseS base) [3] 1
    (fun s l => u.storeLane s ty (u.w.getV l d) (u.w.baseAddr base imm l))
    (fun s hint oks => u.finishLanes s 3 hint d oks)
    (fun s oks => u.specRoom s (laneItems oks)) LaneMem.touches

/-- One lane of LDS: whether the slot is the task's own, and the word (R217, R220). -/
def U.ldsLane (u : U) (s : State) (ty : MemTy) (va : W64) : LaneRes (Bool × Word) :=
  match s.reachWindow u va (memBytes ty) with
  | .error e => .error e
  | .ok (t, o) => if u.ownPad s va then .error .hold else .ok (t.id == u.t.id, if t.smark o then poisonWord 4 else typedWord ty (t.sread o (memBytes ty)))

/-- LDS (R217, R220): path 1 for the task's own slot and path 2 for another. -/
def execLds (g : Guard) (ty : MemTy) (d : Reg) (base : MBase) (imm : BitVec 24) (s : State) : Host.Outcome State Fault Refusal :=
  s.onUnit fun u => s.memLanes u (longInfo 0x73 d 1 0 0) g (d :: baseV base) (baseV base) (baseS base) [1, 2] 0
    (fun s l => u.ldsLane s ty (u.w.baseAddr base imm l))
    (fun s _ oks =>
      let dests := fun (own : Bool) => (oks.filter fun x => x.2.1 == own).flatMap fun x => u.dest s x.1 d x.2.2
      let r := if oks.any fun x => x.2.1 then u.issueLoad s u.w 1 (dests true) else (s, u.w)
      if oks.any fun x => !x.2.1 then u.issueLoad r.1 r.2 2 (dests false) else r)

/-- One lane of STS: the task and offset written, and the bytes (R218, R220). -/
def U.stsLane (u : U) (s : State) (ty : MemTy) (x : Word) (va : W64) : LaneRes (Nat × Nat × W64) :=
  match s.reachWindow u va (memBytes ty) with
  | .error e => .error e
  | .ok (t, o) =>
    if storeDenied u.sp.pl x.tag then .error tagPriv else if u.ownPad s va then .error .hold else .ok (t.id, o, x.pay)

/-- STS (R218, R220): performed at the bank; path 3. -/
def execSts (g : Guard) (ty : MemTy) (d : Reg) (base : MBase) (imm : BitVec 24) (s : State) : Host.Outcome State Fault Refusal :=
  s.onUnit fun u => s.memLanes u (longInfo 0x74 d 0 0 0) g (d :: baseV base) (d :: baseV base) (baseS base) [3] 1
    (fun s l => u.stsLane s ty (u.w.getV l d) (u.w.baseAddr base imm l))
    (fun s hint oks =>
      if oks = [] then (s, u.w)
      else
        let places := oks.map fun x => (x.2.1, x.2.2.1 / 8)
        let o := s.laneOrder (decide ((distinct places).length < places.length)) oks
        let s := o.2.foldl (fun s x => s.onTask x.2.1 fun t => t.sstore x.2.2.1 (memBytes ty) x.2.2.2) o.1
        u.issueStore s u.w hint [] [])

/-! ### Cache control -/

/-- The line of global memory a lane of PREF or CCTL names, when it has one: not on a host page, and readable
(R232, R233). -/
def U.cacheLine (u : U) (s : State) (va : W64) : Option (Trans × Nat) :=
  match s.translate u.t.ctx u.sp.pl .read va with
  | .ok (tr, k) => if tr.kind = .host then none else some (tr, k)
  | .error _ => none

/-- The frame of PREF and CCTL: POISON_READ of the base, then the lanes in turn. -/
def State.cacheLanes (s : State) (u : U) (g : Guard) (base : MBase) (imm : BitVec 24) (f : State → Trans → W64 → Nat → State) : State :=
  s.memLanes u (longInfo 0x80 0 0 0 0) g (baseV base) (baseV base) (baseS base) [] 0
    (fun _ l => .ok (u.w.baseAddr base imm l))
    (fun s0 _ oks => (oks.foldl (fun s x => match u.cacheLine s0 x.2 with | some (tr, k) => f s tr x.2 k | none => s) s0, u.w))

/-- PREF (R232): the line fetched into the L1; into the L2 it changes no state of the model. -/
def execPref (g : Guard) (l2 : Bool) (base : MBase) (imm : BitVec 24) (s : State) : Host.Outcome State Fault Refusal :=
  s.onUnit fun u => s.cacheLanes u g base imm fun s tr va k =>
    let s := s.touch u.t.ctx va tr
    if !l2 && tr.kind == .device && u.pol != 3 then s.l1Fill u.t.core u.t.ctx (k / 128) else s

/-- CCTL (R233): a line of an open transaction's footprint is not touched; `wb` keeps the line, `inv` and `wbinv`
drop it once written back. -/
def execCctl (g : Guard) (op : CctlOp) (base : MBase) (imm : BitVec 24) (s : State) : Host.Outcome State Fault Refusal :=
  s.onUnit fun u => s.cacheLanes u g base imm fun s _ _ k =>
    let mine := fun (x : L1Line) => x.core == u.t.core && x.ctx == u.t.ctx && x.line == k / 128
    if s.warps.any fun w => w.txLines.contains (k / 128) then s
    else match op with
      | .wb => s.l1WriteBack mine
      | .inv | .wbinv => s.l1Drop mine

end Sys2Proof.Machine
end

