-- ==== Sys2Proof/Machine/Heap.lean ====
section
/-!
DEFINITION. References, headers, fields and allocation (spec 02, R55; spec 06, R203 to R206; spec 07, R221 to R227).
-/
namespace Sys2Proof.Machine

/-- TAG_CHECK of LDREF, LDF, STF and HDRLD (R111, R222, R223): v249 = INT 0x40, v250 = INT 0. -/
def refCheck (x : Word) : LaneStop := .trap ⟨.tagCheck, 18, tagClass x.tag, 0, x, natWord 0x40, natWord 0⟩

/-- One lane of LDREF (R222). -/
def U.ldrefLane (u : U) (s : State) (l : Nat) (va : W64) : LaneRes LaneMem :=
  match s.reachLoad u va 8 with
  | .error e => .error e
  | .ok t =>
    let x := (u.laneView s l t.key).load t.tr.tagged t.key .w
    match x.tag with
    | .ref => u.loaded s l t x
    | .nil | .poison => .ok ⟨some x, [t], []⟩
    | _ => .error (refCheck x)

/-- LDREF (R222). -/
def execLdref (g : Guard) (d : Reg) (base : MBase) (imm : BitVec 24) (s : State) : Host.Outcome State Fault Refusal :=
  s.onUnit fun u => s.memLanes u (longInfo 0x75 d 1 0 3) g (d :: baseV base) (baseV base) (baseS base) [0] 0
    (fun s l => u.ldrefLane s l (u.w.baseAddr base imm l))
    (fun s hint oks => u.finishLanes s 0 hint d oks) (touches := LaneMem.touches)

/-- SIZE of a header (R88). -/
def headerSize (h : Word) : Nat := bits h.pay 39 16

/-- The copy of an object that LDF or STF accesses: its address, its header and the headers touched, two where FWD has
redirected it; an STF waits on
HDRC, one hop through FWD is made, and a second FWD raises MEM_FAULT with KIND 3 (R206, R223). -/
def U.objectOf (u : U) (s : State) (stf : Bool) (l : Nat) (o : W64) : LaneRes (W64 × Word × List Touch) :=
  match u.readHeader s l o with
  | .error e => .error e
  | .ok (h, t) =>
    if stf && h.tag == .hdrc then .error .hold
    else if h.tag = .fwd then
      match u.readHeader s l h.pay with
      | .error e => .error e
      | .ok (h2, t2) =>
        if stf && h2.tag == .hdrc then .error .hold
        else if h2.tag = .fwd then .error (memFault 3 h.pay false)
        else if isHeader h2.tag || h2.tag == .poison then .ok (h.pay, h2, [t, t2])
        else .error (memFault 8 h.pay false)
    else if isHeader h.tag || h.tag == .poison then .ok (o, h, [t])
    else .error (memFault 8 o false)

/-- The address of a field (R223). -/
def fieldAddr (o : W64) (idx : BitVec 24) : W64 := o + (idx.signExtend 64 <<< 3)

/-- A field's word: read as any load reads it, and at its home where FWD has redirected the access (R206). -/
def U.fieldLane (u : U) (s : State) (redirected : Bool) (l : Nat) (va : W64) : LaneRes LaneMem :=
  if redirected then
    match s.reachLoad u va 8 with
    | .error e => .error e
    | .ok t => u.loaded s l { t with fresh := true } ((u.headerView s l t.key).load t.tr.tagged t.key .w)
  else u.loadLane s .w l va

/-- One lane of LDF (R223). -/
def U.ldfLane (u : U) (s : State) (idx : BitVec 24) (l : Nat) (x : Word) : LaneRes LaneMem :=
  if x.tag ≠ .ref then .error (refCheck x)
  else
    match u.objectOf s false l x.pay with
    | .error e => .error e
    | .ok (o, h, ts) =>
      if h.tag = .poison then .ok ⟨some (poisonWord 2), ts, []⟩
      else if idx.toInt < 1 ∨ (headerSize h : Int) - 1 < idx.toInt then .error (refCheck x)
      else
        match u.fieldLane s (decide (1 < ts.length)) l (fieldAddr o idx) with
        | .error e => .error e
        | .ok r => .ok { r with touches := ts ++ r.touches }

/-- LDF (R223). -/
def execLdf (g : Guard) (d a : Reg) (idx : BitVec 24) (s : State) : Host.Outcome State Fault Refusal :=
  s.onUnit fun u => s.memLanes u (longInfo 0x76 d 1 0 3) g [d, a] [a] [] [0] 0
    (fun s l => u.ldfLane s idx l (u.w.getV l a))
    (fun s hint oks => u.finishLanes s 0 hint d oks) (touches := LaneMem.touches)

/-- Whether a store in flight of the split writes the word of a key: an STF, whose check and write are one step, waits for it
(R181, R203). -/
def State.ownStoreAhead (s : State) (u : U) (key : Nat) : Bool :=
  s.stores.any fun p => (u.sp.acc.any fun a => a.id == p.id) && p.items.any fun it => it.key / 8 == key / 8

/-- One lane of STF (R223), but for the privilege of its data: the data word whole, with its tag. -/
def U.stfField (u : U) (s : State) (idx : BitVec 24) (l : Nat) (x y : Word) : LaneRes LaneMem :=
  if x.tag ≠ .ref then .error (refCheck x)
  else
    match u.objectOf s true l x.pay with
    | .error e => .error e
    | .ok (o, h, ts) =>
      if h.tag = .poison then .ok ⟨none, ts, []⟩
      else if idx.toInt < 1 ∨ (headerSize h : Int) - 1 < idx.toInt then .error (refCheck x)
      else
        match s.reach u .write (fieldAddr o idx) 8 with
        | .error e => .error e
        | .ok t =>
          if u.ownAhead s t.key || s.ownStoreAhead u t.key then .error .hold
          else .ok ⟨none, ts ++ [t], [⟨t.key, 8, y.pay, if t.tr.tagged then some y.tag else none, false⟩]⟩

/-- One lane of STF: TAG_PRIV after every MEM_FAULT and before every lane trap (R215). -/
def U.stfLane (u : U) (s : State) (idx : BitVec 24) (l : Nat) (x y : Word) : LaneRes LaneMem :=
  match u.stfField s idx l x y with
  | .error (.fault f) => .error (.fault f)
  | .error (.stage2 gpa k va) => .error (.stage2 gpa k va)
  | r => if storeDenied u.sp.pl y.tag then .error tagPriv else r

/-- STF (R223): the field writes are performed with the header check, in a lane's transaction at its commit, in a
speculative task as speculative stores; path 3. -/
def execStf (g : Guard) (d a : Reg) (idx : BitVec 24) (s : State) : Host.Outcome State Fault Refusal :=
  s.onUnit fun u => s.memLanes u (longInfo 0x77 d 0 0 3) g [d, a] [d, a] [] [3] 1
    (fun s l => u.stfLane s idx l (u.w.getV l a) (u.w.getV l d))
    (fun s hint oks =>
      let tx := oks.filter fun x => (u.w.openTx x.1).isSome
      let plain := oks.filter fun x => (u.w.openTx x.1).isNone
      let r := u.finishLanes s 3 hint d tx
      if plain = [] then r
      else
        let items := plain.flatMap fun x => x.2.items
        let touches := plain.flatMap fun x => x.2.touches
        let pages := distinct ((touches.filter fun t => t.write).map fun t => t.tr.gpa / 65536)
        let o := (u.touchAll r.1 touches).laneOrder (collide items) items
        if u.t.spec == .running then u.issueStore o.1 r.2 hint o.2 pages
        else
          let s := o.1.perform (some u.w.id) u.t.core u.t.ctx (if hint < 2 then 2 else hint) o.2 pages
          u.issueStore s (s.dooms r.2) hint [] [])
    (fun s oks => u.specRoom s (laneItems oks)) LaneMem.touches

/-- One lane of HDRLD (R224): the header exactly as stored. -/
def U.hdrldLane (u : U) (s : State) (l : Nat) (x : Word) : LaneRes LaneMem :=
  if x.tag ≠ .ref then .error (refCheck x)
  else
    match u.readHeader s l x.pay with
    | .error e => .error e
    | .ok (h, t) => .ok ⟨some h, [t], []⟩

/-- HDRLD (R224). -/
def execHdrld (g : Guard) (d a : Reg) (s : State) : Host.Outcome State Fault Refusal :=
  s.onUnit fun u => s.memLanes u (longInfo 0x78 d 1 0 3) g [d, a] [a] [] [0] 0
    (fun s l => u.hdrldLane s l (u.w.getV l a))
    (fun s hint oks => u.finishLanes s 0 hint d oks) (touches := LaneMem.touches)

/-! ### Allocation -/

/-- A block of an allocation: lane, first byte, words, layout. -/
structure Block where
  lane : Nat
  base : Nat
  words : Nat
  layout : Nat
  deriving DecidableEq, Repr

/-- The blocks of the lanes that fit, in ascending order; from the first that does not fit none does (R227). The
lanes come with their size and layout words; the second part is the next free byte. -/
def allocPlan (lim : Nat) : Nat → List (Nat × Word × Word) → List Block × Nat
  | base, [] => ([], base)
  | base, (l, a, b) :: rest =>
    if lim < base + 8 * a.pay.toNat then ([], base)
    else
      let r := allocPlan lim (base + 8 * a.pay.toNat) rest
      (⟨l, base, a.pay.toNat, bits b.pay 15 0⟩ :: r.1, r.2)

/-- The header word NALLOC writes (R88, R227). -/
def newHeader (b : Block) : W64 :=
  BitVec.ofNat 64 (b.layout + b.words * 2 ^ 16 + ((b.base / 8 % 65536) ^^^ (b.base / 2 ^ 19 % 65536)) * 2 ^ 48)

/-- The pages of a block translated for writing; a raw page raises MEM_FAULT with KIND 9 (R227). -/
def U.blockPages (u : U) (s : State) (b : Block) : LaneRes (List Touch) :=
  let first := b.base / 65536
  ((List.range ((b.base + 8 * b.words - 1) / 65536 + 1 - first)).foldl (fun acc j =>
    match acc with
    | .error e => .error e
    | .ok ts =>
      let va : W64 := BitVec.ofNat 64 (if j = 0 then b.base else (first + j) * 65536)
      match s.reach u .write va 8 with
      | .error e => .error e
      | .ok t => if t.tr.tagged then .ok (ts ++ [t]) else .error (memFault 9 va true)) (.ok []))

/-- The key of a word of a block. -/
def pageKey (ts : List Touch) (va : Nat) : Nat :=
  match ts.find? fun t => t.va.toNat / 65536 == va / 65536 with
  | some t => t.tr.base + va % 65536
  | none => 0

/-- The words of a block: its header, then NIL (R227). -/
def blockItems (b : Block) (ts : List Touch) : List StoreItem :=
  (List.range b.words).map fun i =>
    ⟨pageKey ts (b.base + 8 * i), 8, if i = 0 then newHeader b else 0, some (if i = 0 then .hdr else .nil), false⟩

/-- Whether a size word is one NALLOC accepts (R227). -/
def sizeOk (a : Word) : Bool := a.tag == .int && decide (1 ≤ a.pay.toNat) && decide (a.pay.toNat ≤ 0xFFFFFF)

/-- One lane of an allocation whose blocks are planned (R227). -/
def U.allocLane (u : U) (s : State) (plan : List Block) (l : Nat) (a b : Word) : LaneRes LaneMem :=
  if !sizeOk a then .error (.fault ⟨3, codeIllegal, 2, 0, false, 0⟩)
  else if (u.w.openTx l).isSome then .ok ⟨none, [], []⟩
  else
    match plan.find? fun x => x.lane == l with
    | none => .error (.trap ⟨.nurseryFull, 19, 0, 0, a, b, .nil⟩)
    | some blk =>
      match u.blockPages s blk with
      | .error e => .error e
      | .ok ts => .ok ⟨some ⟨.ref, BitVec.ofNat 64 blk.base⟩, ts, blockItems blk ts⟩

/-- The effect of an allocation: references written, blocks stored, %nbase moved; transactional lanes abort with
CAPACITY (R227, R239). `regs` gives each lane's destination. -/
def U.finishAlloc (u : U) (s : State) (w : Warp) (next : Nat) (hint : Nat) (reg : Nat → Reg) (oks : List (Nat × LaneMem)) : State × Warp :=
  let tx := oks.filter fun x => (u.w.openTx x.1).isSome
  let plain := oks.filter fun x => (u.w.openTx x.1).isNone
  let w := tx.foldl (fun w x => w.doomTx x.1 (abortWord 1 0 0 0)) w
  let w := plain.foldl (fun w x => match x.2.word with | some v => w.setV x.1 (reg x.1) v | none => w) w
  if plain = [] then (s, w)
  else
    let touches := plain.flatMap fun x => x.2.touches
    let pages := distinct (touches.map fun t => t.tr.gpa / 65536)
    u.issueStore (u.touchAll s touches) { w with nbase := BitVec.ofNat 64 next } hint (plain.flatMap fun x => x.2.items) pages

/-- NALLOC (R227). -/
def execNalloc (g : Guard) (d a b : Reg) (s : State) : Host.Outcome State Fault Refusal :=
  s.onUnit fun u =>
    let lanes := ((u.acting g).filter fun l => (u.w.openTx l).isNone).map fun l => (l, u.w.getV l a, u.w.getV l b)
    let plan := allocPlan u.w.nlim.toNat u.w.nbase.toNat lanes
    s.memLanes u (longInfo 0x79 d 1 0 0) g [d, a, b] [a, b] [] [3] 1
      (fun s l => u.allocLane s plan.1 l (u.w.getV l a) (u.w.getV l b))
      (fun s hint oks => u.finishAlloc s u.w plan.2 hint (fun _ => d) oks)
      (fun s oks => u.specRoom s (laneItems oks)) LaneMem.touches

/-- NSET (R225, R226). -/
def execNset (g : Guard) (a b : Reg) (s : State) : Host.Outcome State Fault Refusal :=
  s.onUnit fun u => s.once u g [a, b] <|
    let x := (u.w.getS a).pay
    let y := (u.w.getS b).pay
    let bad := fun (z : W64) => decide (z.toNat / 2 ^ 57 ≠ 0) || decide (z.toNat % 8 ≠ 0)
    if bad x || bad y || decide (y.toNat < x.toNat) then s.illegal u
    else u.done (s.setTask { u.t with nsets := u.t.nsets ++ [(x, y)] }) { u.w with nbase := x, nlim := y }

end Sys2Proof.Machine
end

