-- ==== Sys2Proof/Machine/Atomic.lean ====
section
/-!
DEFINITION. Atomics (spec 06, R178, R182, R204; spec 07, R228, R229): the update of one location, and the issue of
ATOM and CAS. The updates are made at the home when the access completes (Events.lean).
-/
namespace Sys2Proof.Machine

/-- The bytes of an atomic (R55). -/
def atomBytes : ASize → Nat
  | .b4 => 4 | .b8 => 8

/-- The float format of an atomic (R228). -/
def atomFmt (size : Nat) : FFmt := if size = 4 then .f32 else .f64

/-- An operand taken at the access size, as a signed integer. -/
def atomSigned (size : Nat) (x : Nat) : Int := if size = 4 then (BitVec.ofNat 32 x).toInt else (BitVec.ofNat 64 x).toInt

/-- The new value of an atomic operation (R228). -/
def atomNew (op : AtomOp) (size old x : Nat) : Nat :=
  let f := (atomFmt size).spec
  let v := fun y => decodeF f y
  let so := atomSigned size old
  let sx := atomSigned size x
  match op with
  | .iadd => (old + x) % 2 ^ (8 * size)
  | .fadd => roundFmt f .rn false false ((v old).add .rn (v x))
  | .smin => if so ≤ sx then old else x
  | .smax => if so ≤ sx then x else old
  | .umin => Nat.min old x
  | .umax => Nat.max old x
  | .and => old &&& x
  | .or => old ||| x
  | .xor => old ^^^ x
  | .xchg => x
  | .fmin => roundFmt f .rn false false ((v old).min (v x))
  | .fmax => roundFmt f .rn false false ((v old).max (v x))

/-- The tag an 8-byte atomic leaves in a word of a tagged page (R228). -/
def atomTag (op : AtomOp) (operand : Word) : Tag :=
  match op with
  | .fadd | .fmin | .fmax => .f64
  | .xchg => operand.tag
  | .iadd | .smin | .smax | .umin | .umax | .and | .or | .xor => .int

/-- The old value an atomic returns (R228). -/
def atomOld (op : AtomOp) (size old : Nat) (whole : Word) : Word :=
  match op with
  | .fadd | .fmin | .fmax => if size = 4 then ⟨.f32, BitVec.ofNat 64 old⟩ else ⟨.f64, BitVec.ofNat 64 old⟩
  | .umin | .umax => natWord old
  | .xchg => if size = 4 then intBits ((BitVec.ofNat 32 old).signExtend 64) else whole
  | .iadd | .smin | .smax | .and | .or | .xor =>
    if size = 4 then intBits ((BitVec.ofNat 32 old).signExtend 64) else natWord old

/-- The 8-byte word that holds a location, as a whole-word load returns it. -/
def Mem.whole (m : Mem) (tagged : Bool) (k : Nat) : Word :=
  if tagged then m.loadWord k else ⟨.bits, BitVec.ofNat 64 (m.read k 8)⟩

/-- One read-modify-write (R228, R229): what it stores, if it stores, and the word its lane receives. A POISON word
is left unchanged and received. DESIGN CHOICE (log entry 109): so is the location of a raw line that is marked poisoned, and the lane
receives POISON with origin 3. -/
def atomOn (m : Mem) (tagged : Bool) (k size : Nat) (act : AtomDo) : Option StoreItem × Word :=
  if tagged && m.tag k == .poison then (none, m.loadWord k)
  else if !tagged && m.marked k then (none, poisonWord 3)
  else
    let old := m.read k size
    let whole := m.whole tagged k
    match act with
    | .op o x =>
      let y := x.pay.toNat % 2 ^ (8 * size)
      (some ⟨k, size, BitVec.ofNat 64 (atomNew o size old y), if tagged then some (atomTag o x) else none, false⟩,
       atomOld o size old whole)
    | .cas e n =>
      let full := tagged && size == 8
      let hit := if full then eqvWord whole e else decide (old = e.pay.toNat % 2 ^ (8 * size))
      (if hit then some ⟨k, size, n.pay, if tagged then some n.tag else none, false⟩ else none,
       if size = 4 then intBits ((BitVec.ofNat 32 old).signExtend 64) else whole)

/-- One lane's place of an atomic: readable and writable, not on a host page (R215, R228). -/
def State.reachAtom (s : State) (u : U) (va : W64) (size : Nat) : LaneRes Touch :=
  match s.reach u .write va size with
  | .error e => .error e
  | .ok t =>
    if t.tr.kind = .host then .error (memFault 9 va true)
    else
      match s.reach u .read va size with
      | .error e => .error e
      | .ok _ => .ok t

/-- What one lane of an atomic will do: the place and the action. -/
structure AtomLane where
  touch : Touch
  act : AtomDo
  deriving DecidableEq, Repr

/-- The atomics of the lanes issued (R193, R228, R229): those of lanes inside a transaction act in it (R239), the
others on path 3, in a free order where two meet (R178). -/
def U.finishAtoms (u : U) (s : State) (hint : Nat) (d : Reg) (oks : List (Nat × AtomLane)) : State × Warp :=
  let tx := oks.filter fun x => (u.w.openTx x.1).isSome
  let plain := oks.filter fun x => (u.w.openTx x.1).isNone
  let txMem := tx.map fun x =>
    let t := x.2.touch
    let r := atomOn (u.laneView s x.1 t.key) t.tr.tagged t.key t.size x.2.act
    (x.1, (⟨some r.2, [t], r.1.toList⟩ : LaneMem))
  let r := if txMem = [] then (s, u.w) else
    let r := u.finishLanes s 3 0 d txMem
    u.issueLoad r.1 r.2 3 ((txMem.filter fun x => (r.2.openTx x.1).isSome).flatMap fun x =>
      match x.2.word with | some v => u.dest s x.1 d v | none => [])
  if plain = [] then r
  else
    let keys := plain.map fun x => x.2.touch.key / 8
    let f := (u.touchAll r.1 (plain.map fun x => x.2.touch)).fresh
    let o := f.2.laneOrder (decide ((distinct keys).length < keys.length)) plain
    let items := o.2.map fun x =>
      let k := (regIndex u.w.nregs d).getD 0
      let row := s.regTag u.t.core u.w x.1 k
      (⟨u.w.id, x.1, k, x.2.touch.key, x.2.touch.size, x.2.touch.tr.tagged, x.2.act, none, row.1, row.2⟩ : AtomItem)
    let pages := distinct (plain.map fun x => x.2.touch.tr.gpa / 65536)
    ({ o.1 with atoms := o.1.atoms ++ [⟨f.1, u.w.id, u.t.id, u.t.core, u.t.ctx, hint, items, pages,
      u.sp.acc.map fun a => a.id, o.1.nowNs⟩] }, u.addAcc r.2 f.1 3)

/-- ATOM (R228): hint GRID without a prefix; in a speculative task it waits (R211). -/
def execAtom (g : Guard) (op : AtomOp) (sz : ASize) (a b : Reg) (imm : BitVec 24) (s : State) : Host.Outcome State Fault Refusal :=
  s.onUnit fun u => s.memLanes u (longInfo 0x7B b 1 0 0) g [a, b] [a, b] [] [3] 4
    (fun s l =>
      match s.reachAtom u ((u.w.getV l a).pay + imm.signExtend 64) (atomBytes sz) with
      | .error e => .error e
      | .ok t =>
        let x := u.w.getV l b
        if op == .xchg && storeDenied u.sp.pl x.tag then .error tagPriv
        else if u.t.spec == .running then .error .hold
        else .ok ⟨t, .op op x⟩)
    (fun s hint oks => u.finishAtoms s hint b oks) (touches := fun a => [a.touch])

/-- CAS (R229): a new value with a class-7 tag needs a hint of GRID or wider (R204, R215 item 7). -/
def execCas (g : Guard) (sz : ASize) (d a b : Reg) (imm : BitVec 24) (s : State) : Host.Outcome State Fault Refusal :=
  s.onUnit fun u => s.named u [d, a, b] <| s.withHint u (u.acting g) 4 fun s hint =>
    s.memLanes { u with c := { u.c with place := none } } (longInfo 0x7C b 1 0 0) g [d, a, b] [d, a, b] [] [3] 4
      (fun s l =>
        match s.reachAtom u ((u.w.getV l a).pay + imm.signExtend 64) (atomBytes sz) with
        | .error e => .error e
        | .ok t =>
          let n := u.w.getV l d
          if storeDenied u.sp.pl n.tag then .error tagPriv
          else if tagClass n.tag = 7 ∧ hint < 4 then .error (.fault ⟨7, codeScopeDenied, 0, BitVec.ofNat 64 hint, false, 0⟩)
          else if u.t.spec == .running then .error .hold
          else .ok ⟨t, .cas (u.w.getV l b) n⟩)
      (fun s _ oks => u.finishAtoms s hint b oks) (touches := fun a => [a.touch])

end Sys2Proof.Machine
end

