-- ==== Sys2Proof/Machine/Fence.lean ====
section
/-!
DEFINITION. Fences and waits (spec 02, R56; spec 06, R185, R186, R194; spec 07, R230, R231).
-/
namespace Sys2Proof.Machine

/-- Whether an access is a DRAIN in flight (R162). -/
def State.isDrain (s : State) (id : Nat) : Bool :=
  s.tiles.any fun t => t.id == id && (match t.act with | .drain _ _ | .drainAdd _ => true | .product _ _ _ | .accld _ => false)

/-- Whether the fence of a PRED set may pass (R230). -/
def U.fenceOpen (u : U) (s : State) (pred : BitVec 4) : Bool :=
  let z := fun (p : Nat) => u.sp.count p == 0
  (!pred.getLsbD 0 || (z 0 && z 1 && z 2)) &&
  (!(pred.getLsbD 1 || pred.getLsbD 2) || (z 3 && !(u.sp.acc.any fun a => a.path == 5 && s.isDrain a.id))) &&
  (!pred.getLsbD 3 || (z 4 && z 5))

/-- The L1 side of a fence of a core (R230): ST or AT writes back, LD or AT invalidates, and so does ST before LD, whose later
loads return every store that the order of these fences puts before them (R186). AS before LD invalidates at every scope: a later load
returns nothing older than what a command has read at the home (R185). -/
def State.fenceCore (s : State) (core : Nat) (pred succ : BitVec 4) (scope : Nat) : State :=
  let s := if pred.getLsbD 3 && succ.getLsbD 0 then s.fenceL1 core false true 7 else s
  s.fenceL1 core (pred.getLsbD 1 || pred.getLsbD 2)
    (pred.getLsbD 0 || pred.getLsbD 2 || (pred.getLsbD 1 && succ.getLsbD 0)) scope

/-- The acting lanes whose open transactions a unit aborts with a code word at its end (R239). -/
def U.doomActing (u : U) (g : Guard) (w : Warp) (code : W64) : Warp := (u.acting g).foldl (fun w l => w.doomTx l code) w

/-- A fence of some PRED, SUCC and scope by the executing split (R186, R230): it waits at its boundary for what R230
names, and every later unit follows it. In a speculative task one of scope SYSTEM waits (R211). -/
def State.fenceBy (s : State) (u : U) (g : Guard) (pred succ : BitVec 4) (scope : Nat) : State :=
  s.once u g [] <| s.checkScope u scope true fun s sc =>
    if (u.t.spec == .running && sc == 6) || !u.fenceOpen s pred then u.hold s
    else u.doneTx (s.fenceCore u.t.core pred succ sc) (u.doomActing g u.w (abortWord 5 0 0 0))

/-- FENCE (R230). -/
def execFence (g : Guard) (pred succ : BitVec 4) (scope : BitVec 3) (s : State) : Host.Outcome State Fault Refusal :=
  s.onUnit fun u => s.fenceBy u g pred succ scope.toNat

/-- Whether the four conditions of WAITC hold (R194). -/
def U.waitcOpen (u : U) (ld st cp tile : Byte) : Bool :=
  let ok := fun (t : Byte) (n : Nat) => decide (t.toNat = 255) || decide (n ≤ t.toNat)
  ok ld (u.sp.count 0 + u.sp.count 1 + u.sp.count 2) && ok st (u.sp.count 3) && ok cp (u.sp.count 4) && ok tile (u.sp.count 5)

/-- WAITC by the executing split (R194, R231). -/
def State.waitcBy (s : State) (u : U) (g : Guard) (ld st cp tile : Byte) : State :=
  s.once u g [] (if u.waitcOpen ld st cp tile then u.skip s else u.hold s)

/-- WAITC (R231). -/
def execWaitc (g : Guard) (ld st cp tile : Byte) (s : State) : Host.Outcome State Fault Refusal :=
  s.onUnit fun u => s.waitcBy u g ld st cp tile

/-- WAITP (R231). -/
def execWaitp (g : Guard) (a : Reg) (path : Byte) (s : State) : Host.Outcome State Fault Refusal :=
  s.onUnit fun u => s.once u g [a] <|
    let th := (u.w.getS a).pay.toNat
    if 4095 ≤ th ∨ u.sp.count path.toNat ≤ th then u.skip s else u.hold s

end Sys2Proof.Machine
end

