-- ==== Sys2Proof/Machine/Transfer.lean ====
section
/-!
DEFINITION. Blocks of bytes moved by engine commands, Screed and DRAIN: sources with their poison, and writes word
by word (R391, R240), to memory as store items and to scratchpad.
-/
namespace Sys2Proof.Machine

/-- A clean byte. -/
def SByte.clean (b : Byte) : SByte := ⟨b, none⟩

/-- The key of a virtual address under the translations a command took. -/
def transKey (trs : List (Nat × Trans)) (va : Nat) : Option (Trans × Nat) :=
  (trs.find? fun x => x.1 == va / 65536).map fun x => (x.2, x.2.base + va % 65536)

/-- The memory a command of a core reads: the home with the dirty bytes of the core's own copy, and in a speculative
task its own stores (R197, R208). -/
def State.engineMem (s : State) (t : Task) (key : Nat) : Mem :=
  let m := s.freshAt t.core key
  if t.specStores = [] then m else m.storeAll (t.specStores.filter fun it => it.key / 128 == key / 128)

/-- A byte of a memory as a source (R391). -/
def Mem.source (m : Mem) (tagged : Bool) (va key : Nat) : SByte :=
  if tagged && m.tag key == .poison then ⟨0, some (va, bits (m.word (key / 8 * 8)).pay 3 0)⟩
  else if !tagged && m.marked key then ⟨0, some (va, 3)⟩
  else .clean (m.byte key)

/-- The bytes of an extent in one state: n bytes from a virtual address under a command's translations. -/
def State.extentBytes (s : State) (t : Task) (trs : List (Nat × Trans)) (va n : Nat) : List SByte :=
  let lines := (List.range ((va + n + 127) / 128 - va / 128)).map fun j =>
    let a := (va / 128 + j) * 128
    match transKey trs a with
    | some (tr, k) => (some (tr.tagged, k), s.engineMem t k)
    | none => (none, Mem.empty)
  (List.range n).map fun i =>
    let a := va + i
    match lines.getD (a / 128 - va / 128) (none, Mem.empty) with
    | (some (tagged, k), m) => m.source tagged a (k + a % 128)
    | (none, _) => .clean 0

/-- What a state keeps for commands that start in it. -/
def State.snap (s : State) : Snap := ⟨s.mem, s.l1, s.tasks.map fun t => (t.id, t.scratch, t.smarks)⟩

/-- The state with its memory and scratchpads as they were. -/
def State.back (s : State) (o : Option Snap) : State :=
  match o with
  | none => s
  | some o => { s with
      mem := o.mem
      l1 := o.l1
      tasks := s.tasks.map fun t => match o.scratch.find? fun x => x.1 == t.id with
        | some x => { t with scratch := x.2.1, smarks := x.2.2 }
        | none => t }

/-- A source that was written meanwhile: byte by byte, or part by part, the old or the new one, freely (R145, R197). -/
def mixed {α : Type} [DecidableEq α] (tick : Nat) (part : Nat) (old new : α) : α :=
  if old = new then new else if Config.pickAt tick (4 * part + 1) % 2 = 1 then new else old

/-- Bytes read by a command: those of its start where they have not been written since. -/
def mixBytes (tick va : Nat) (old new : List SByte) : List SByte :=
  (old.zip new).mapIdx fun i x => mixed tick (va + i) x.1 x.2

/-- n bytes of memory as a command reads them (R197); `o` is the state with what the command saw at its start. -/
def State.readExtent (s o : State) (t : Task) (trs : List (Nat × Trans)) (va n : Nat) : List SByte :=
  mixBytes s.tick va (o.extentBytes t trs va n) (s.extentBytes t trs va n)

/-- n bytes of scratchpad as a source (R391). -/
def Task.readScratch (t : Task) (o n : Nat) : List SByte :=
  (List.range n).map fun i => if t.smark (o + i) then ⟨0, some (o + i, 4)⟩ else .clean (t.sbyte (o + i))

/-- Among some poisons, with the addresses of their sources, that of the lowest-addressed (R391). -/
def lowestBad (xs : List (Option (Nat × Nat))) : Option (Nat × Nat) :=
  xs.foldl (fun (m : Option (Nat × Nat)) b =>
    match m, b with
    | none, x => x
    | some x, none => some x
    | some x, some y => if y.1 < x.1 then some y else some x) none

/-- The poison of some bytes, with its address. -/
def badOf (bs : List SByte) : Option (Nat × Nat) := lowestBad (bs.map fun b => b.bad)

/-- The origin of the poison of some bytes: that of the lowest-addressed source (R391). -/
def poisonOf (bs : List SByte) : Option Nat := (badOf bs).map fun x => x.2

/-- The aligned 8-byte words that a run touches, each with its bytes; the bytes of a word stand together in a run. -/
def wordsOf : ByteRun → List (Nat × ByteRun)
  | [] => []
  | x :: xs =>
    match wordsOf xs with
    | (w, ys) :: more => if w = x.1 / 8 then (w, x :: ys) :: more else (x.1 / 8, [x]) :: (w, ys) :: more
    | [] => [(x.1 / 8, [x])]

/-- The store items of one word of a run (R391): poisoned whole, written whole, or in part. -/
def wordItems (tagged : Bool) (key : Nat) (xs : ByteRun) : List StoreItem :=
  let t : Option Tag := if tagged then some .bits else none
  match poisonOf (xs.map fun x => x.2) with
  | some o => [⟨key, 8, BitVec.ofNat 64 o, t, true⟩]
  | none =>
    if xs.length = 8 then [⟨key, 8, BitVec.ofNat 64 (numLE (xs.map fun x => x.2.val)), t, false⟩]
    else xs.map fun x => ⟨key + x.1 % 8, 1, x.2.val.setWidth 64, t, false⟩

/-- The store items of a run under a command's translations; a raw line written whole with no poison is cleared of
its mark (R367). -/
def runItems (trs : List (Nat × Trans)) (r : ByteRun) : List StoreItem :=
  let words := wordsOf r
  let items := words.flatMap fun w =>
    match transKey trs (w.1 * 8) with
    | some (tr, k) => wordItems tr.tagged k w.2
    | none => []
  let lines := distinct (words.map fun w => w.1 / 16)
  let full := lines.filter fun l =>
    let mine := words.filter fun w => w.1 / 16 == l
    decide (mine.length = 16) && mine.all fun w => decide (w.2.length = 8) && (poisonOf (w.2.map fun x => x.2)).isNone
  items ++ full.flatMap fun l =>
    match transKey trs (l * 128) with
    | some (tr, k) => if tr.tagged then [] else [⟨k, 0, 0, none, false⟩]
    | none => []

/-- The guest-physical pages a run writes. -/
def runPages (trs : List (Nat × Trans)) (r : ByteRun) : List Nat :=
  distinct (r.filterMap fun x => (transKey trs x.1).map fun t => t.1.gpa / 65536)

/-- A run written to memory for a task: at the point its hint names, or held as speculative stores (R208, R240), and
dropped once the task is squashed (R279). -/
def State.writeRun (s : State) (tid hint : Nat) (trs : List (Nat × Trans)) (r : ByteRun) : State :=
  match s.task? tid with
  | none => s
  | some t =>
    if t.spec == .squashed then s
    else if t.spec == .running then s.setTask (s.holdSpec t (runItems trs r) (runPages trs r))
    else s.perform none t.core t.ctx hint (runItems trs r) (runPages trs r)

/-- A run written to an allocation (R391). -/
def Task.writeScratch (t : Task) (r : ByteRun) : Task :=
  (wordsOf r).foldl (fun t w =>
    match poisonOf (w.2.map fun x => x.2) with
    | some _ => t.spoison (w.1 * 8)
    | none =>
      if w.2.length = 8 then t.sstore (w.1 * 8) 8 (BitVec.ofNat 64 (numLE (w.2.map fun x => x.2.val)))
      else w.2.foldl (fun t x => t.sstore x.1 1 (x.2.val.setWidth 64)) t) t

/-- Bytes laid from an address on. -/
def layRun (a : Nat) (bs : List SByte) : ByteRun := bs.mapIdx fun i b => (a + i, b)

/-! ### Overlap (R240) -/

/-- Whether byte i of a copy whose source lies in its own destination takes the new value of its source: free. -/
def takesNew (tick i : Nat) : Bool := Config.pickAt tick (4 * i) % 2 == 1

/-- The bytes of a copy whose extents overlap: byte i, whose source is destination byte j = i + src − dst when that
lies in the destination, receives the old or the new value of its source. Taken in the order in which each source
is settled first. -/
def overlapBytes (tick src dst : Nat) (old : List SByte) : List SByte :=
  let n := old.length
  let order := if src < dst then List.range n else (List.range n).reverse
  let done := order.foldl (fun (acc : List (Nat × SByte)) i =>
    let o := old.getD i (.clean 0)
    let j := i + src - dst
    let v := if dst ≤ i + src ∧ j < n ∧ takesNew tick i then
        (match acc.find? fun x => x.1 == j with | some x => x.2 | none => o) else o
    acc ++ [(i, v)]) []
  (List.range n).map fun i => match done.find? fun x => x.1 == i with | some x => x.2 | none => .clean 0

end Sys2Proof.Machine
end

