-- ==== Sys2Proof/Machine/Tile.lean ====
section
/-!
DEFINITION. Scratchpad descriptors (R138 to R141), storage rows (R153, R159), the product of tiles (R146) and the
numbers Screed and DRAIN form (R154 to R156, R159, R160). Row i, column j.
-/
namespace Sys2Proof.Machine

/-! ### Descriptors -/

/-- BASE, PITCH, ROWS, TPITCH, ROT, KIND and COUNT of a descriptor (R138). -/
def SDesc.base (d : SDesc) : Nat := bits d.lo 24 0
def SDesc.pitch (d : SDesc) : Nat := bits d.lo 47 32
def SDesc.rows (d : SDesc) : Nat := bits d.lo 55 48
def SDesc.tpitch (d : SDesc) : Nat := bits d.hi 23 0
def SDesc.rot (d : SDesc) : Nat := bits d.hi 27 24
def SDesc.kind (d : SDesc) : Nat := bits d.hi 31 28
def SDesc.count (d : SDesc) : Nat := bits d.hi 39 32

/-- RB of a kind (R139): 128 for C16 and BF16, 256 for C24 and F32. -/
def rowBytes (kind : Nat) : Nat := if kind = 0 ∨ kind = 3 then 128 else 256

/-- The bytes of an element of a kind: RB / 64. -/
def elemBytes (kind : Nat) : Nat := rowBytes kind / 64

/-- ElementAddress (R139). -/
def elementAddress (d : SDesc) (t i j : Nat) : Nat :=
  let a := d.base + t * d.tpitch + i * d.pitch + j * elemBytes d.kind
  if d.rot = 0 then a else a / 1024 * 1024 + (a / 32 % 32 + i * d.rot) % 32 * 32 + a % 32

/-- The 32-byte chunks that the elements of a descriptor occupy. -/
def SDesc.chunks (d : SDesc) : List Nat :=
  (List.range d.count).flatMap fun t => (List.range d.rows).flatMap fun i =>
    (List.range (rowBytes d.kind / 32)).map fun q => elementAddress d t i (q * 32 / elemBytes d.kind) / 32

/-- The bytes that the elements of a descriptor occupy. -/
def SDesc.bytes (d : SDesc) : List Nat :=
  (List.range d.count).flatMap fun t => (List.range d.rows).flatMap fun i => (List.range 64).flatMap fun j =>
    (List.range (elemBytes d.kind)).map fun k => elementAddress d t i j + k

/-- Whether a list of small numbers holds one twice. -/
def hasTwice (xs : List Nat) : Bool :=
  (xs.foldl (fun (acc : Nat × Bool) x => (acc.1 ||| (1 <<< x), acc.2 || acc.1.testBit x)) (0, false)).2

/-- The rules of R140 that raise ALIGN. -/
def SDesc.misaligned (d : SDesc) : Bool :=
  d.base % 32 != 0 || d.pitch % 32 != 0 || d.tpitch % 32 != 0 ||
  (d.rot != 0 && (d.pitch % 1024 != 0 ||
    (List.range d.count).any fun t => decide (1024 < (d.base + t * d.tpitch) % 1024 + rowBytes d.kind)))

/-- Whether two elements of a descriptor share a byte (R140); where it is aligned, its elements fill whole chunks. -/
def SDesc.overlaps (d : SDesc) : Bool := if d.misaligned then hasTwice d.bytes else hasTwice d.chunks

/-- The rules of R140 that raise ILLEGAL, for the kinds an instruction accepts; a destination maps no two elements to
one byte. -/
def SDesc.illegal (d : SDesc) (kinds : List Nat) (dest : Bool) : Bool :=
  bits d.lo 31 25 != 0 || bits d.lo 63 56 != 0 || bits d.hi 63 40 != 0 || d.rows == 0 || decide (64 < d.rows) ||
  d.count == 0 || !kinds.contains d.kind || (dest && d.overlaps)

/-- The extent of a descriptor (R141). -/
def SDesc.extent (d : SDesc) : Nat × Nat :=
  let lo := d.base
  let hi := d.base + (d.count - 1) * d.tpitch + (d.rows - 1) * d.pitch + rowBytes d.kind - 1
  if d.rot = 0 then (lo, hi) else (lo / 1024 * 1024, hi / 1024 * 1024 + 1023)

/-- The allocation that holds the whole extent of a descriptor (R141). -/
def State.descTask (s : State) (t : Task) (d : SDesc) : Option Task :=
  let e := d.extent
  if e.1 / 2 ^ 19 ≠ e.2 / 2 ^ 19 ∨ 2 ^ 25 ≤ e.2 then none
  else
    match s.slotTask t (e.1 / 2 ^ 19) with
    | none => none
    | some x => if e.2 % 2 ^ 19 < x.alloc then some x else none

/-- The format of an element of a kind. -/
def kindSpec (kind : Nat) : FSpec := if kind = 0 then .c16 else if kind = 1 then .c24 else if kind = 2 then .f32 else .bf16

/-- An element of a descriptor in an allocation: its bytes with their poison (R139). -/
def readElem (x : Task) (d : SDesc) (t i j : Nat) : List SByte :=
  x.readScratch (elementAddress d t i j % 2 ^ 19) (elemBytes d.kind)

/-- The exact value of an element's bytes; bits [31:24] of a C24 slot are ignored (R93). -/
def elemValue (kind : Nat) (bs : List SByte) : FVal :=
  decodeF (kindSpec kind) (numLE (bs.map fun b => b.val) % 2 ^ (kindSpec kind).width)

/-! ### Storage rows (R153, R158) -/

/-- The GX format of a storage format. -/
def gxOf : TFmt → Option GxFmt
  | .gx4 => some .gx4 | .gx6 => some .gx6 | .gx9 => some .gx9
  | .e4m3 | .e5m2 | .bf16 | .fp16 | .f32 => none

/-- The element format of the other storage formats. -/
def storeSpec : TFmt → FSpec
  | .e4m3 => .e4m3 | .e5m2 => .e5m2 | .bf16 => .bf16 | .fp16 => .f16
  | .f32 | .gx4 | .gx6 | .gx9 => .f32

/-- SB of a format (R153). -/
def storeBytes (f : TFmt) : Nat :=
  match gxOf f with
  | some g => 4 * g.bytes
  | none => 64 * ((storeSpec f).width / 8)

/-- The canonical kind of a format (R153). -/
def canonKind : TFmt → Nat
  | .gx4 | .gx6 | .gx9 | .e4m3 | .e5m2 => 0
  | .bf16 | .fp16 | .f32 => 1

/-- SAT of Screed and DRAIN: E4M3 and E5M2 only (R156, R159). -/
def storeSat : TFmt → Bool
  | .e4m3 | .e5m2 => true
  | .gx4 | .gx6 | .gx9 | .bf16 | .fp16 | .f32 => false

/-- Element j of a storage row: its exact value and the bytes it is formed from (R100, R101, R391). -/
def rowElem (f : TFmt) (row : Array SByte) (j : Nat) : FVal × List SByte :=
  match gxOf f with
  | some g =>
    let b0 := j / 16 * g.bytes
    let i := j % 16
    let blk := numLE ((List.range g.bytes).map fun k => (row.getD (b0 + k) (.clean 0)).val)
    let lo := 16 + i * (1 + g.k)
    let used := 0 :: 1 :: (List.range ((lo + g.k) / 8 + 1 - lo / 8)).map fun k => lo / 8 + k
    (gxValue g blk i, used.map fun k => row.getD (b0 + k) (.clean 0))
  | none =>
    let n := (storeSpec f).width / 8
    let bs := (List.range n).map fun k => row.getD (j * n + k) (.clean 0)
    (decodeF (storeSpec f) (numLE (bs.map fun b => b.val)), bs)

/-- A list of elements cut in groups of n. -/
def chunksOf {α : Type} (n : Nat) : Nat → List α → List (List α)
  | 0, _ => []
  | k + 1, xs => xs.take n :: chunksOf n k (xs.drop n)

/-- The bytes of a storage row of 64 values, each poisoned by what it is formed from (R156, R159, R391): a GX block
by any of its sixteen elements. -/
def encodeRow (f : TFmt) (xs : List (FVal × Option (Nat × Nat))) : List SByte :=
  match gxOf f with
  | some g => (chunksOf 16 4 xs).flatMap fun b =>
      let bad := lowestBad (b.map fun x => x.2)
      (bytesLE (quantizeGX g (b.map fun x => x.1)) g.bytes).map fun v => ⟨v, bad⟩
  | none => xs.flatMap fun x =>
      (bytesLE (roundFmt (storeSpec f) .rn (storeSat f) false x.1) ((storeSpec f).width / 8)).map fun v => ⟨v, x.2⟩

/-! ### The product (R146) -/

/-- A canonical element as an integer multiple of 2^−268, the finest step of C24; none for NaN and infinities. -/
def canonInt : FVal → Option Int
  | .fin s n d => some (if s then -((n * 2 ^ 268 / d : Nat) : Int) else (n * 2 ^ 268 / d : Nat))
  | _ => none

/-- The exact sum s of one group (R146). -/
def groupSum (ps : List (FVal × FVal)) : FVal :=
  let prods := ps.map fun p => p.1.mul p.2
  if prods.any fun p => p == .nan then .nan
  else
    let pos := prods.any fun p => p == .inf false
    let neg := prods.any fun p => p == .inf true
    if pos && neg then .nan
    else if pos then .inf false
    else if neg then .inf true
    else
      let x := ps.foldl (fun (acc : Int) p => acc + (canonInt p.1).getD 0 * (canonInt p.2).getD 0) 0
      if x = 0 then .zero (prods.all fun p => p.isZero && p.sign) else .fin (decide (x < 0)) x.natAbs (2 ^ 536)

/-- One step of the accumulation: two roundings to F32 (R146). -/
def accStep (x : Nat) (s : FVal) : Nat :=
  let r := roundFmt .f32 .rn false false s
  roundFmt .f32 .rn false false ((decodeF .f32 x).add .rn (decodeF .f32 r))

/-- A tile operand: its tiles, each 4,096 elements by row (R142, R146). -/
abbrev Tiles := List (Array FVal)

/-- Element (i, k) of a tile. -/
def tileAt (a : Array FVal) (i k : Nat) : FVal := a.getD (i * 64 + k) (.zero false)

/-- TileProduct (R146): the new contents of a slot. -/
def tileProduct (zero : Bool) (old : Table W32) (a b : Tiles) : Table W32 :=
  (List.range 4096).foldl (fun acc e =>
    let i := e / 64
    let j := e % 64
    let x0 := if zero then 0 else (Table.get 0 old e).toNat
    let x := (a.zip b).foldl (fun x ab =>
      (List.range 4).foldl (fun x g =>
        accStep x (groupSum ((List.range 16).map fun m => (tileAt ab.1 i (16 * g + m), tileAt ab.2 (16 * g + m) j)))) x) x0
    if BitVec.ofNat 32 x = 0 then acc else acc ++ [(e, BitVec.ofNat 32 x)]) []

/-! ### Screed (R153 to R157) -/

/-- The scale of a row: 2^(s − 127), or none for NaN (R154). -/
def scaleOf (s : Nat) : Option Int := if s = 255 then none else some ((s : Int) - 127)

/-- A value times a power of two. -/
def scaleVal (x : FVal) (e : Int) : FVal :=
  match x with
  | .fin s n d => if 0 ≤ e then .fin s (n * 2 ^ e.toNat) d else .fin s n (d * 2 ^ (-e).toNat)
  | _ => x

/-- The element SXPD writes (R155). -/
def expandElem (kind : Nat) (x : FVal) (scale : Option Nat) : Nat :=
  roundFmt (kindSpec kind) .rn false false
    (match scale with
    | none => x
    | some s => match scaleOf s with
      | none => .nan
      | some e => scaleVal x e)

/-- ceil(log2 (n / d)) of a positive rational. -/
def ceilLog2 (n d : Nat) : Int :=
  let f := floorLog2 n d
  let exact := if 0 ≤ f then decide (n = d * 2 ^ f.toNat) else decide (n * 2 ^ (-f).toNat = d)
  if exact then f else f + 1

/-- The scale byte SPACK computes for a row (R156). -/
def packScale (f : TFmt) (xs : List FVal) : Nat :=
  let m := xs.foldl (fun (m : Nat × Nat) x =>
    match x with
    | .fin _ n d => if m.1 * d < n * m.2 then (n, d) else m
    | _ => m) (0, 1)
  if m.1 = 0 then 127
  else
    match decodeF (storeSpec f) (storeSpec f).maxMag with
    | .fin _ n d => clampNat (127 + ceilLog2 (m.1 * d) (m.2 * n)) 254
    | _ => 127

end Sys2Proof.Machine
end

