-- ==== Sys2Proof/Machine/Engine.lean ====
section
/-!
DEFINITION. Engine commands and timelines (spec 06, R195 to R197; spec 07, R240 to R250; spec 05, R157, R168, R169):
the checks at issue in the order of R240 and the numbering. What the commands do is in EngineRun.lean.
-/
namespace Sys2Proof.Machine

/-- The context a timeline name is bound to: engine × 4 + context (R247). -/
def Task.bound (t : Task) (name : Reg) : Option Nat := Table.get none t.tl name.toNat
/-- The context that a use of a name by the executing split finds: the binding, or freely an earlier one that the warp may still see
(R247). -/
def U.bound (u : U) (s : State) (name : Reg) : Option Nat :=
  match (u.t.olds.filter fun x => x.warp == u.w.id && x.name == name.toNat).map fun x => x.old with
  | [] => u.t.bound name
  | xs => ((u.t.bound name :: xs)[Config.pickAt s.tick name.toNat % (xs.length + 1)]?).getD none
/-- An engine context of a task. -/
def Task.engCtx (t : Task) (k : Nat) : EngCtx := Table.get .fresh t.eng k
/-- An engine context written. -/
def Task.setEng (t : Task) (k : Nat) (e : EngCtx) : Task := { t with eng := Table.put .fresh t.eng k e }

/-- Whether a numbered event is a notification of LAUNCHP and no command (R301). -/
def EngCmd.isNote (c : EngCmd) : Bool :=
  match c.op with
  | .resolution _ | .completion _ => true
  | _ => false

/-- Completed commands counted (R195), those whose writes are still late too; a failed context's counter stops below its failing
number (R241). -/
def EngCtx.advance (e : EngCtx) : EngCtx :=
  let lim := match e.failed with | some (n, _, _) => n | none => e.last + 1
  let run := e.cmds.takeWhile fun c => (c.done || c.late.isSome) && decide (c.num < lim)
  let n := match run.getLast? with | some c => c.num | none => e.counter
  { e with counter := Nat.max e.counter n, cmds := (run.filter fun c => !c.done) ++ e.cmds.drop run.length }

/-- Whether the writes of a context's commands numbered n or below have all been made (R197). -/
def EngCtx.landed (e : EngCtx) (n : Nat) : Bool := e.cmds.all fun c => c.done || decide (n < c.num)

/-! ### Checks at issue (R240) -/

/-- A check of a command that fails: a thread trap of the whole unit, ALIGN for a count or pitch, or a stage-2 fault. -/
inductive CmdStop where
  | trap (code kind : Nat) (write : Bool) (tval : W64)
  | count
  | stage2 (gpa kind : Nat) (va : W64)
  deriving DecidableEq, Repr

/-- What a failed check does; the %tval of a misaligned count or pitch is not stated and so free. -/
def State.cmdStop (s : State) (u : U) : CmdStop → State
  | .trap code kind write tval => s.raise u ⟨code, kind, false, write, false, 0, u.pa.mask, tval⟩
  | .count => let f := s.freeWord; f.2.raise u (mkTrap codeAlign 0 u.pa.mask f.1)
  | .stage2 gpa kind va => s.stage2Wait u gpa kind va u.pa.mask

/-- An extent of memory that a command fixes at issue: the kinds of page it may lie on, whether it is written, its
address and its bytes. -/
structure Extent where
  kinds : List PageKind
  write : Bool
  addr : W64
  bytes : Nat
  deriving DecidableEq, Repr

/-- A window extent: whether it must lie in the executing core's slot, its address and its bytes. -/
structure WinExtent where
  own : Bool
  addr : W64
  bytes : Nat
  deriving DecidableEq, Repr

/-- The operands of a command as its checks take them: out of range, addresses with their alignment, counts with
theirs, descriptors, window extents, memory extents, a wait of R211, and the command. -/
structure CmdForm where
  illegal : Bool
  aligned : List (W64 × Nat)
  counts : List (Nat × Nat)
  descs : List SDesc
  windows : List WinExtent
  extents : List Extent
  hold : Bool
  op : EngOp
  deriving DecidableEq, Repr

/-- A window extent lies whole in one allocation, the task's own where that is asked. -/
def State.winOk (s : State) (t : Task) (x : WinExtent) : Bool :=
  x.bytes == 0 || (match s.window t x.addr x.bytes with | some y => !x.own || y.1.id == t.id | none => false)

/-- The translations of the pages of an extent. -/
def State.extentPages (s : State) (u : U) (x : Extent) : Except CmdStop (List (Nat × Trans)) :=
  let first := x.addr.toNat / 65536
  let pages := if x.bytes = 0 then 0 else (x.addr.toNat + x.bytes - 1) / 65536 + 1 - first
  (List.range pages).foldl (fun acc j =>
    match acc with
    | .error e => .error e
    | .ok ts =>
      let va : W64 := if j = 0 then x.addr else BitVec.ofNat 64 ((first + j) * 65536)
      match s.mapped u.t.ctx u.sp.pl (if x.write then .write else .read) va with
      | .ok (tr, _) => if tr.kind ∈ x.kinds then .ok (ts ++ [(first + j, tr)]) else .error (.trap codeMemFault 9 x.write va)
      | .error .wide => .error (.trap codeMemFault 2 x.write va)
      | .error (.stage1 k) => .error (.trap codeMemFault k x.write va)
      | .error (.stage2 gpa) => .error (.stage2 gpa (if x.write then 1 else 0) va)
      | .error (.tagPool gpa) => .error (.stage2 gpa (if x.write then 5 else 4) va)) (.ok [])

/-- The checks of a command after POISON_READ, in order (R240): ILLEGAL, ALIGN, SCRATCH_BOUNDS, MEM_FAULT; the
translations it takes. DESIGN CHOICE (log entry 46): %tval of a descriptor that fails ALIGN or SCRATCH_BOUNDS is its BASE. -/
def State.cmdChecks (s : State) (u : U) (f : CmdForm) : Except CmdStop (List (Nat × Trans)) :=
  if f.illegal then .error (.trap codeIllegal 2 false 0)
  else
    match f.aligned.find? fun x => x.1.toNat % x.2 != 0, f.descs.find? fun d => d.misaligned,
        f.counts.any fun x => x.1 % x.2 != 0 with
    | some x, _, _ => .error (.trap codeAlign 0 false x.1)
    | none, some d, _ => .error (if d.base % 32 = 0 then .count else .trap codeAlign 0 false (BitVec.ofNat 64 d.base))
    | none, none, true => .error .count
    | none, none, false =>
      match f.windows.find? fun x => !s.winOk u.t x, f.descs.find? fun d => (s.descTask u.t d).isNone with
      | some x, _ => .error (.trap codeScratchBounds 0 false x.addr)
      | none, some d => .error (.trap codeScratchBounds 0 false (BitVec.ofNat 64 d.base))
      | none, none =>
        f.extents.foldl (fun acc x =>
          match acc with
          | .error e => .error e
          | .ok ts => match s.extentPages u x with
            | .error e => .error e
            | .ok more =>
              let ts := ts ++ more.filter fun y => !(ts.any fun z => z.1 == y.1)
              match s.overPool u.t.ctx (ts.map fun y => y.2) with
              | some t => .error (.stage2 t.gpa (if x.write then 5 else 4) x.addr)
              | none => .ok ts) (.ok [])

/-! ### Numbering (R195, R240) -/

/-- A command numbered on a context; on a failed context it completes at once with no effect (R241). -/
def State.issueCmd (s : State) (u : U) (w : Warp) (k : Nat) (op : EngOp) (trs : List (Nat × Trans)) : State × Warp :=
  let e := u.t.engCtx k
  if e.failed.isSome then (s.onTask u.t.id fun t => t.setEng k { e with last := e.last + 1 }, w)
  else
    let f := s.fresh
    let c : EngCmd := ⟨e.last + 1, op, f.1, u.sp.pl, false, false, trs, none, none, s.nowNs⟩
    let s := trs.foldl (fun s x => s.holdPage u.t.ctx x.1 x.2) f.2
    (s.onTask u.t.id fun t => t.setEng k { e with last := e.last + 1, cmds := e.cmds ++ [c] }, u.addAcc w f.1 4)

/-- Whether a context queues as many commands as it can, or the split counts as many as it can (R193, R240). -/
def U.queueFull (u : U) (k : Nat) : Bool :=
  decide (64 ≤ ((u.t.engCtx k).cmds.filter fun c => !c.done && !c.isNote).length) || decide (4095 ≤ u.sp.count 4)

/-- The number that a command issued on a context receives. -/
def Task.nextNum (t : Task) (k : Nat) : Nat := (t.engCtx k).last + 1

/-- An engine command (R240): `engine` is the engine that performs it, any for TLSIG; `fixed` a scope checked that
cannot be clamped (R191); `srcs` its scalar operands in the order D, A, B, C; `after` what else it writes, given its
number. The acting lanes inside a transaction abort with CAPACITY (R239); when all are, no command is issued. -/
def State.command (s : State) (u : U) (g : Guard) (tl : Reg) (engine : Option Nat) (fixed : Option Nat) (srcs : List Reg)
    (form : State → CmdForm) (after : Warp → Nat → Warp) : State :=
  let acting := u.acting g
  if acting = [] then u.skip s
  else s.withHint u acting 0 fun s _ =>
    let go := fun (s : State) =>
      match u.w.poisonS srcs with
      | some r => s.raise u (mkTrap codePoisonRead 0 u.pa.mask (r.setWidth 64))
      | none =>
        match u.bound s tl with
        | none => s.illegal u
        | some k =>
          if engine.isSome && engine != some (k / 4) then s.illegal u
          else
            let f := form s
            match s.cmdChecks u f with
            | .error e => s.cmdStop u e
            | .ok trs =>
              if f.hold || u.queueFull k then u.hold s
              else
                let w := u.doomActing g u.w (abortWord 1 0 0 0)
                if acting.all fun l => (u.w.openTx l).isSome then u.doneTx s w
                else
                  let r := s.issueCmd u w k f.op trs
                  u.doneTx r.1 (after r.2 (u.t.nextNum k))
    match fixed with
    | none => go s
    | some sc => s.checkScope u sc false fun s _ => go s

/-- The payload of a scalar register. -/
def U.pS (u : U) (r : Reg) : W64 := (u.w.getS r).pay
/-- The largest byte count of a command (R240). -/
def maxCount : Nat := 0x1000000
/-- A form with nothing to check. -/
def CmdForm.plain (op : EngOp) : CmdForm := ⟨false, [], [], [], [], [], false, op⟩
/-- The kinds of page a memory extent of ACPY may lie on (R242). -/
def cardKinds : List PageKind := [.device, .fabric]
/-- Every kind of page. -/
def allKinds : List PageKind := [.device, .fabric, .host]
/-- Whether a task is speculative (R211). -/
def U.speculative (u : U) : Bool := u.t.spec == .running

/-! ### The copies (R242 to R245) -/

/-- ACPY (R242). A copy of a speculative task to another slot waits (R240). -/
def acpyForm (u : U) (dir : CopyDir) (src dst cnt : W64) : CmdForm :=
  let n := cnt.toNat
  let mem := fun (w : Bool) (a : W64) => ({ kinds := cardKinds, write := w, addr := a, bytes := n } : Extent)
  let win := fun (a : W64) => ({ own := false, addr := a, bytes := n } : WinExtent)
  let other := fun (a : W64) => u.speculative && decide (a.toNat / 2 ^ 19 ≠ u.t.core % 64)
  let base : CmdForm := { CmdForm.plain (.acpy dir src dst cnt) with
    illegal := decide (maxCount < n), aligned := [(src, 8), (dst, 8)], counts := [(n, 8)] }
  match dir with
  | .m2s => { base with windows := [win dst], extents := [mem false src], hold := other dst }
  | .s2m => { base with windows := [win src], extents := [mem true dst] }
  | .s2s => { base with windows := [win src, win dst], hold := other dst }
  | .m2m => { base with extents := [mem false src, mem true dst] }

/-- ACPY (R242). -/
def execAcpy (g : Guard) (dir : CopyDir) (d a b c : Reg) (s : State) : Host.Outcome State Fault Refusal :=
  s.onUnit fun u => s.command u g d (some 0) none [a, b, c] (fun _ => acpyForm u dir (u.pS a) (u.pS b) (u.pS c)) fun w _ => w

/-- The cores of a multicast mask, without the executing core (R243). -/
def castCores (core : Nat) (mask : W64) : List Nat := (List.range 64).filter fun k => mask.getLsbD k && k != core % 64

/-- A window address of another slot. -/
def slotAddr (k : Nat) (va : W64) : W64 := BitVec.ofNat 64 (k * 2 ^ 19 + va.toNat % 2 ^ 19)

/-- AMCAST (R243). -/
def amcastForm (u : U) (src mask cnt : W64) : CmdForm :=
  let n := cnt.toNat
  let cores := castCores u.t.core mask
  { CmdForm.plain (.amcast src mask cnt) with
    illegal := decide (maxCount < n)
    counts := [(n, 32)]
    windows := ⟨true, src, n⟩ :: cores.map fun k => ⟨false, slotAddr k src, n⟩
    hold := u.speculative && decide (cores ≠ []) }

/-- AMCAST (R243). -/
def execAmcast (g : Guard) (d a b c : Reg) (s : State) : Host.Outcome State Fault Refusal :=
  s.onUnit fun u => s.command u g d (some 0) none [a, b, c] (fun _ => amcastForm u (u.pS a) (u.pS b) (u.pS c)) fun w _ => w

/-- The bytes of an element of AGATH or ASCAT (R244). -/
def gatherBytes (esz : BitVec 2) : Nat := 2 ^ esz.toNat

/-- AGATH and ASCAT (R244): base, index array, scratchpad address, element count. -/
def gatherForm (esz : BitVec 2) (base idx pad cnt : W64) (op : EngOp) : CmdForm :=
  let n := cnt.toNat
  let z := gatherBytes esz
  { CmdForm.plain op with
    illegal := decide (n = 0) || decide (65536 < n)
    aligned := [(base, z), (idx, 4), (pad, z)]
    windows := [⟨true, idx, 4 * n⟩, ⟨true, pad, z * n⟩] }

/-- AGATH (R244). -/
def execAgath (g : Guard) (esz : BitVec 2) (d a b c : Reg) (s : State) : Host.Outcome State Fault Refusal :=
  s.onUnit fun u =>
    let n := u.pS (pairHi c)
    s.command u g d (some 1) none [a, b, c, pairHi c]
      (fun _ => gatherForm esz (u.pS a) (u.pS b) (u.pS c) n (.agath esz.toNat (u.pS a) (u.pS b) (u.pS c) n)) fun w _ => w

/-- ASCAT (R244). -/
def execAscat (g : Guard) (esz : BitVec 2) (d a b c : Reg) (s : State) : Host.Outcome State Fault Refusal :=
  s.onUnit fun u =>
    let n := u.pS (pairHi c)
    s.command u g d (some 1) none [a, b, c, pairHi c]
      (fun _ => gatherForm esz (u.pS a) (u.pS b) (u.pS c) n (.ascat esz.toNat (u.pS a) (u.pS b) (u.pS c) n)) fun w _ => w

/-- HCPY (R245). -/
def hcpyForm (u : U) (dir : HDir) (src dst cnt : W64) : CmdForm :=
  let n := cnt.toNat
  let ext := fun (k : PageKind) (w : Bool) (a : W64) => ({ kinds := [k], write := w, addr := a, bytes := n } : Extent)
  let win := fun (a : W64) => ({ own := true, addr := a, bytes := n } : WinExtent)
  let base : CmdForm := { CmdForm.plain (.hcpy dir src dst cnt) with
    illegal := decide (maxCount < n), aligned := [(src, 64), (dst, 64)], counts := [(n, 64)], hold := u.speculative }
  match dir with
  | .h2d => { base with extents := [ext .host false src, ext .device true dst] }
  | .d2h => { base with extents := [ext .device false src, ext .host true dst] }
  | .h2s => { base with windows := [win dst], extents := [ext .host false src] }
  | .s2h => { base with windows := [win src], extents := [ext .host true dst] }

/-- HCPY (R245): its fixed scope SYSTEM is checked and not clamped (R191). -/
def execHcpy (g : Guard) (dir : HDir) (d a b c : Reg) (s : State) : Host.Outcome State Fault Refusal :=
  s.onUnit fun u => s.command u g d (some 2) (some 6) [a, b, c] (fun _ => hcpyForm u dir (u.pS a) (u.pS b) (u.pS c)) fun w _ => w

/-! ### ACOLL (R246, R342) -/

/-- The bytes of an element of ACOLL. -/
def collBytes : CollTy → Nat
  | .f32 => 4 | .bf16 => 2 | .int => 8

/-- The packages of a domain group of a context, when its table has an entry for it (R342). -/
def State.group (s : State) (v gid : Nat) : Option (Nat × Nat) :=
  let c := s.ctx v
  (List.range c.ltcount).findSome? fun i =>
    let gpa := c.ltab.toNat + 32 * c.ltcount + 8 * i
    match s.stage2 v gpa with
    | .ok (e, pa) =>
      let x : W64 := BitVec.ofNat 64 (s.mem.read (pteKey c.part e pa) 8)
      if e.rd && decide (bits x 15 0 = gid) then some (bits x 25 16, bits x 35 26) else none
    | .error _ => none

/-- ACOLL (R246): the place of this command in the issue order of its cohort or group. -/
def acollForm (u : U) (s : State) (dom : Bool) (op : CollOp) (ty : CollTy) (src dst cnt : W64) : CmdForm :=
  let n := bits cnt 31 0
  let gid := bits cnt 47 32
  let bytes := n * collBytes ty
  let seq := if dom then Table.get 0 u.t.dcolls gid else u.t.colls
  let base : CmdForm := { CmdForm.plain (.acoll dom op ty src dst n gid seq) with
    illegal := decide (n = 0) || decide (0x400000 < n) || decide (bits cnt 63 48 ≠ 0) || (!dom && decide (gid ≠ 0)) ||
      (dom && (s.group u.t.ctx gid).isNone)
    hold := u.speculative }
  if dom then { base with extents := [⟨[.device], false, src, bytes⟩, ⟨[.device], true, dst, bytes⟩] }
  else { base with windows := [⟨true, src, bytes⟩, ⟨true, dst, bytes⟩] }

/-- The count of collectives of a task raised. -/
def Task.countColl (t : Task) (dom : Bool) (gid : Nat) : Task :=
  if dom then { t with dcolls := Table.put 0 t.dcolls gid (Table.get 0 t.dcolls gid + 1) } else { t with colls := t.colls + 1 }

/-- Whether a command was issued: the last number of its context has risen. -/
def State.issued (before after : State) (tid k : Nat) : Bool :=
  match before.task? tid, after.task? tid with
  | some x, some y => decide ((x.engCtx k).last < (y.engCtx k).last)
  | _, _ => false

/-- ACOLL (R246). -/
def execAcoll (g : Guard) (dom : Bool) (op : CollOp) (ty : CollTy) (d a b c : Reg) (s : State) : Host.Outcome State Fault Refusal :=
  s.onUnit fun u =>
    let r := s.command u g d (some 3) (if dom then some 5 else none) [a, b, c]
      (fun s => acollForm u s dom op ty (u.pS a) (u.pS b) (u.pS c)) fun w _ => w
    if s.issued r u.t.id ((u.bound s d).getD 0) then r.onTask u.t.id fun t => t.countColl dom (bits (u.pS c) 47 32) else r

/-! ### Screed (R157, R168, R169) -/

/-- The descriptor pair of scalar registers. -/
def U.desc (u : U) (r : Reg) : SDesc := ⟨u.pS r, u.pS (pairHi r)⟩

/-- The bytes of a tensor's extent, and of its scale array (R157). -/
def tensorBytes (f : TFmt) (d : SDesc) : Nat := (d.count - 1) * 64 * storeBytes f + d.rows * storeBytes f
def scaleBytes (d : SDesc) : Nat := (d.count - 1) * 64 + d.rows

/-- The extents of a tensor and its scales. -/
def tensorExtents (f : TFmt) (d : SDesc) (write : Bool) (addr scale : W64) : List Extent :=
  ⟨allKinds, write, addr, tensorBytes f d⟩ :: (if scale = 0 then [] else [⟨allKinds, write, scale, scaleBytes d⟩])

/-- SXPD (R155, R168). -/
def execSxpd (g : Guard) (f : TFmt) (d a b c : Reg) (s : State) : Host.Outcome State Fault Refusal :=
  s.onUnit fun u =>
    let x := u.desc b
    s.command u g d (some 0) none [a, b, pairHi b, c] (fun _ =>
      { CmdForm.plain (.sxpd f (u.pS a) x (u.pS c)) with
        illegal := x.illegal [canonKind f] true
        aligned := [(u.pS a, 8)]
        descs := [x]
        extents := tensorExtents f x false (u.pS a) (u.pS c)
        hold := u.speculative && decide (x.base / 2 ^ 19 ≠ u.t.core % 64) }) fun w _ => w

/-- SPACK (R156, R169). -/
def execSpack (g : Guard) (f : TFmt) (d a b c : Reg) (s : State) : Host.Outcome State Fault Refusal :=
  s.onUnit fun u =>
    let x := u.desc a
    s.command u g d (some 0) none [a, pairHi a, b, c] (fun _ =>
      { CmdForm.plain (.spack f x (u.pS b) (u.pS c)) with
        illegal := x.illegal [0, 1, 2, 3] false || ((gxOf f).isSome && decide (u.pS c ≠ 0))
        aligned := [(u.pS b, 8)]
        descs := [x]
        extents := tensorExtents f x true (u.pS b) (u.pS c) }) fun w _ => w

/-! ### Timelines (R247 to R250) -/

/-- TLSIG (R249): sA receives the number. -/
def execTlsig (g : Guard) (d a : Reg) (s : State) : Host.Outcome State Fault Refusal :=
  s.onUnit fun u => s.command u g d none none [] (fun _ => .plain (.tlsig (u.sp.acc.map fun x => x.id)))
    fun w n => w.setS a (natWord n)

/-- A name bound by a warp: the other warps may go on seeing what it was bound to, until a barrier (R247). -/
def Task.bind (t : Task) (wid : Nat) (d : Reg) (k : Nat) (others : List Nat) : Task :=
  { t with
    tl := Table.put none t.tl d.toNat (some k)
    olds := (t.olds.filter fun x => !(x.warp == wid && x.name == d.toNat)) ++
      (if t.bound d = some k then [] else others.map fun w => ⟨w, d.toNat, wid, t.bound d⟩) }

/-- TLBIND (R247): a name bound; RESET ends the failed state once the commands started before have completed. -/
def execTlbind (g : Guard) (d a : Reg) (s : State) : Host.Outcome State Fault Refusal :=
  s.onUnit fun u => s.once u g [a] <|
    let x := u.pS a
    if 3 < bits x 2 0 ∨ bitAt x 3 = true ∨ bits x 7 6 ≠ 0 ∨ bits x 63 9 ≠ 0 then s.illegal u
    else
      let k := bits x 2 0 * 4 + bits x 5 4
      let e := u.t.engCtx k
      let others := (s.warps.filter fun w => w.task == u.t.id && w.id != u.w.id).map fun w => w.id
      let bindTo := fun (t : Task) => t.bind u.w.id d k others
      if bitAt x 8 && e.failed.isSome then
        if e.cmds.any fun c => c.started && !c.done && !c.isNote then u.hold s
        else u.skip (s.onTask u.t.id fun t => (bindTo t).setEng k ⟨e.last, e.last, none, []⟩)
      else u.skip (s.onTask u.t.id bindTo)

/-- TLWAIT (R248, R197): the trap of a failed context, a wait, or the acquire: the core's L1 is written back and
dropped. -/
def execTlwait (g : Guard) (d a : Reg) (s : State) : Host.Outcome State Fault Refusal :=
  s.onUnit fun u => s.once u g [a] <|
    match u.bound s d with
    | none => s.illegal u
    | some k =>
      let e := u.t.engCtx k
      let n := (u.pS a).toNat
      match e.failed with
      | some (m, va, coll) =>
        if m ≤ n then
          (if coll then s.raise u (mkTrap codeIllegal 3 u.pa.mask 0) else s.raise u (mkTrap codeMemFault 10 u.pa.mask va))
        else if n ≤ e.counter && e.landed n then u.skip (s.fenceL1 u.t.core false true 7)
        else u.hold s
      | none => if n ≤ e.counter && e.landed n then u.skip (s.fenceL1 u.t.core false true 7) else u.hold s

/-- TLREAD (R248). -/
def execTlread (g : Guard) (d a : Reg) (s : State) : Host.Outcome State Fault Refusal :=
  s.onUnit fun u => s.once u g [] <|
    match u.bound s a with
    | none => s.illegal u
    | some k => u.done s (u.w.setS d (natWord (u.t.engCtx k).counter))

/-- A command cancelled: it completes with no effect. -/
def EngCmd.cancel (c : EngCmd) : EngCmd := { c with done := true, started := true }

/-- The commands of a context that satisfy a test and have not started cancelled, with their accesses complete. -/
def State.cancelCmds (s : State) (tid k : Nat) (p : EngCmd → Bool) : State :=
  match s.task? tid with
  | none => s
  | some t =>
    let e := t.engCtx k
    let hit := fun (c : EngCmd) => p c && !c.started && !c.done && !c.isNote
    let s := s.onTask tid fun t => t.setEng k
      (EngCtx.advance { e with cmds := e.cmds.map fun c => if hit c then c.cancel else c })
    (e.cmds.filter hit).foldl (fun s c => s.completeAcc c.acc) s

/-- ACANCEL (R250). -/
def execAcancel (g : Guard) (d a : Reg) (s : State) : Host.Outcome State Fault Refusal :=
  s.onUnit fun u => s.once u g [a] <|
    match u.bound s d with
    | none => s.illegal u
    | some k => let n := (u.pS a).toNat; (u.skip s).cancelCmds u.t.id k fun c => decide (n < c.num)

end Sys2Proof.Machine
end

