-- ==== Sys2Proof/Machine/EngineRun.lean ====
section
/-!
DEFINITION. What engine commands do, and the events that start, complete and fail them (spec 07, R240 to R250, R391;
spec 05, R153 to R157; spec 06, R195, R197, R208). A command's bytes move at its completion.
-/
namespace Sys2Proof.Machine

/-! ### What a command writes -/

/-- What a command writes, in order, and the address at which it fails, if it does. -/
structure Writes where
  runs : List (RunDest × ByteRun)
  fail : Option W64
  deriving DecidableEq, Repr

/-- A run to a place of the cohort window. -/
def State.windowRun (s : State) (t : Task) (va : Nat) (bs : List SByte) : List (RunDest × ByteRun) :=
  match s.slotTask t (va / 2 ^ 19) with
  | some x => [(.slot x.id, layRun (va % 2 ^ 19) bs)]
  | none => []

/-- n bytes of the cohort window in one state. -/
def State.windowBytes (s : State) (t : Task) (va n : Nat) : List SByte :=
  match s.slotTask t (va / 2 ^ 19) with
  | some x => (x.readScratch (va % 2 ^ 19) n).map fun b => { b with bad := b.bad.map fun y => (va / 2 ^ 19 * 2 ^ 19 + y.1, y.2) }
  | none => []

/-- n bytes of the cohort window as a command reads them (R197). -/
def State.readWindow (s o : State) (t : Task) (va n : Nat) : List SByte :=
  mixBytes s.tick va (o.windowBytes t va n) (s.windowBytes t va n)

/-- ACPY and HCPY as copies between memory and the window. -/
def copySpaces : EngOp → Option (Bool × Bool × W64 × W64 × W64)
  | .acpy dir a b n => some (dir == .m2s || dir == .m2m, dir == .s2m || dir == .m2m, a, b, n)
  | .hcpy dir a b n => some (dir != .s2h, dir != .h2s, a, b, n)
  | _ => none

/-- The bytes a copy writes: an overlap within one space may take new bytes (R240). -/
def State.copyBytes (s o : State) (t : Task) (trs : List (Nat × Trans)) (fromMem toMem : Bool) (src dst n : Nat) : List SByte :=
  let old := if fromMem then s.readExtent o t trs src n else s.readWindow o t src n
  if fromMem = toMem ∧ src < dst + n ∧ dst < src + n then overlapBytes s.tick src dst old else old

/-- The 32-bit index of an element, read at the start of the command, and whether it is poisoned (R244). -/
def State.indexOf (o : State) (t : Task) (idx : W64) (e : Nat) : Nat × Bool :=
  let bs := o.windowBytes t (idx.toNat + 4 * e) 4
  (numLE (bs.map fun b => b.val), bs.any fun b => b.bad.isSome)

/-- The address of an element in memory (R244). -/
def elementAt (esz : Nat) (base : W64) (i : Nat) : W64 := base + BitVec.ofNat 64 (i * 2 ^ esz)

/-- The translation of an element's address; none fails the command (R241, R244), as where the tags of its page find no room beside
those that the earlier elements take (R308). -/
def State.elementTrans (s : State) (t : Task) (pl : Nat) (k : AccKind) (taken : List Trans) (va : W64) : Option (Nat × Trans) :=
  match s.translate t.ctx pl k va with
  | .ok (tr, _) => if tr.kind = .host ∨ (s.overPool t.ctx (taken ++ [tr])).isSome then none else some (va.toNat / 65536, tr)
  | .error _ => none

/-- AGATH from its first element to the first that fails (R244): the translation of each, where its index is clean, and its run. -/
def State.gather (s o : State) (t : Task) (pl esz : Nat) (base idx dst : W64) :
    List Trans → List Nat → List (List (Nat × Trans) × ByteRun) × Option W64
  | _, [] => ([], none)
  | taken, e :: es =>
    let i := o.indexOf t idx e
    let z := 2 ^ esz
    let here := dst.toNat % 2 ^ 19 + e * z
    if i.2 then
      let r := s.gather o t pl esz base idx dst taken es
      (([], layRun here (List.replicate z ⟨0, some (idx.toNat + 4 * e, 4)⟩)) :: r.1, r.2)
    else
      let va := elementAt esz base i.1
      match s.elementTrans t pl .read taken va with
      | none => ([], some va)
      | some tr =>
        let r := s.gather o t pl esz base idx dst (taken ++ [tr.2]) es
        (([tr], layRun here (s.readExtent o t [tr] va.toNat z)) :: r.1, r.2)

/-- ASCAT from its first element to the first that fails: the address, translation and bytes of each (R244). -/
def State.scatter (s o : State) (t : Task) (pl esz : Nat) (base idx src : W64) :
    List Trans → List Nat → List (Nat × (Nat × Trans) × List SByte) × Option W64
  | _, [] => ([], none)
  | taken, e :: es =>
    let i := o.indexOf t idx e
    if i.2 then ([], some (idx + BitVec.ofNat 64 (4 * e)))
    else
      let va := elementAt esz base i.1
      match s.elementTrans t pl .write taken va with
      | none => ([], some va)
      | some tr =>
        let r := s.scatter o t pl esz base idx src (taken ++ [tr.2]) es
        ((va.toNat, tr, s.readWindow o t (src.toNat + e * 2 ^ esz) (2 ^ esz)) :: r.1, r.2)

/-- A run with each address once, ascending, the last write standing. -/
def settleRun (xs : ByteRun) : ByteRun := xs.foldl (fun acc x => Table.insert acc x.1 x.2) []

/-- Elements in a free order where two go to one place (R244). -/
def freeOrder {α : Type} (tick : Nat) (place : α → Nat) (xs : List α) : List α :=
  if (distinct (xs.map place)).length = xs.length then xs
  else (sortBy (fun x => x.1) (xs.mapIdx fun i x => (Config.pickAt tick (4 * i + 2), x))).map fun x => x.2

/-- What SXPD writes (R155): every element of the descriptor's rows. -/
def State.expandRun (s o : State) (t : Task) (trs : List (Nat × Trans)) (f : TFmt) (src : W64) (d : SDesc) (scale : W64) : ByteRun :=
  (List.range d.count).flatMap fun tile => (List.range d.rows).flatMap fun i =>
    let row := (s.readExtent o t trs (src.toNat + (tile * 64 + i) * storeBytes f) (storeBytes f)).toArray
    let sc := if scale = 0 then [] else s.readExtent o t trs (scale.toNat + tile * 64 + i) 1
    (List.range 64).flatMap fun j =>
      let x := rowElem f row j
      let bits := expandElem d.kind x.1 (sc.head?.map fun b => b.val.toNat)
      let at_ := elementAddress d tile i j % 2 ^ 19
      let bad := badOf (x.2 ++ sc)
      (bytesLE bits (elemBytes d.kind)).mapIdx fun k b => (at_ + k, (⟨b, bad⟩ : SByte))

/-- What SPACK writes (R156): the rows, and the scale bytes where a scale applies. A scale is formed from every element of its
row, and so is every element that it scales (R157, R391). -/
def packRun (tick : Nat) (o x : Task) (f : TFmt) (d : SDesc) (dst scale : W64) : ByteRun × ByteRun :=
  let rows := (List.range d.count).flatMap fun tile => (List.range d.rows).map fun i =>
    let es := (List.range 64).map fun j => let b := mixed tick (elementAddress d tile i j) (readElem o d tile i j) (readElem x d tile i j); (elemValue d.kind b, badOf b)
    let sc := if scale = 0 then 127 else packScale f (es.map fun e => e.1)
    let bad := lowestBad (es.map fun e => e.2)
    let scaled := es.map fun e => (scaleVal e.1 (127 - (sc : Int)), if scale = 0 then e.2 else bad)
    (layRun (dst.toNat + (tile * 64 + i) * storeBytes f) (encodeRow f scaled),
     (scale.toNat + tile * 64 + i, (⟨BitVec.ofNat 8 sc, bad⟩ : SByte)))
  (rows.flatMap fun r => r.1, if scale = 0 then [] else rows.map fun r => r.2)

/-- What a command writes (R242 to R245, R155, R156). -/
def State.cmdWrites (s : State) (t : Task) (c : EngCmd) : Writes :=
  let o := s.back c.seen
  match c.op with
  | .acpy .. | .hcpy .. =>
    match copySpaces c.op with
    | some (fromMem, toMem, a, b, n) =>
      let bs := s.copyBytes o t c.trs fromMem toMem a.toNat b.toNat n.toNat
      ⟨if toMem then [(.mem, layRun b.toNat bs)] else s.windowRun t b.toNat bs, none⟩
    | none => ⟨[], none⟩
  | .amcast a m n =>
    let bs := s.readWindow o t a.toNat n.toNat
    ⟨(castCores t.core m).flatMap fun k => s.windowRun t (slotAddr k a).toNat bs, none⟩
  | .agath esz base idx dst n =>
    let r := s.gather o t c.pl esz base idx dst [] (List.range n.toNat)
    ⟨[(.slot t.id, r.1.flatMap fun x => x.2)], r.2⟩
  | .ascat esz base idx src n =>
    let r := s.scatter o t c.pl esz base idx src [] (List.range n.toNat)
    ⟨[(.mem, settleRun ((freeOrder s.tick (fun x => x.1) r.1).flatMap fun x => layRun x.1 x.2.2))], r.2⟩
  | .sxpd f src d scale =>
    match s.slotTask t (d.base / 2 ^ 19) with
    | some x => ⟨[(.slot x.id, s.expandRun o t c.trs f src d scale)], none⟩
    | none => ⟨[], none⟩
  | .spack f d dst scale =>
    match s.slotTask t (d.base / 2 ^ 19), o.slotTask t (d.base / 2 ^ 19) with
    | some x, some y => let r := packRun s.tick y x f d dst scale; ⟨[(.mem, r.1), (.mem, r.2)], none⟩
    | _, _ => ⟨[], none⟩
  | .acoll .. | .tlsig _ | .resolution _ | .completion _ => ⟨[], none⟩

/-- The translations that the elements of a gather or scatter have used, up to the first that fails. -/
def State.elementPages (s : State) (t : Task) (c : EngCmd) : List (Nat × Trans) :=
  let o := s.back c.seen
  match c.op with
  | .agath esz base idx dst n => (s.gather o t c.pl esz base idx dst [] (List.range n.toNat)).1.flatMap fun x => x.1
  | .ascat esz base idx src n => (s.scatter o t c.pl esz base idx src [] (List.range n.toNat)).1.map fun x => x.2.1
  | _ => []

/-- The translations that a command's writes to memory use: those it took, and those of its elements. -/
def State.cmdTrans (s : State) (t : Task) (c : EngCmd) : List (Nat × Trans) := c.trs ++ s.elementPages t c

/-- Whether the crossbar refuses the packets of an address that an element names (R306). -/
def State.elementRefused (s : State) (t : Task) (c : EngCmd) (va : W64) : Bool :=
  let k : AccKind := match c.op with | .ascat .. => .write | _ => .read
  match s.translate t.ctx c.pl k va with
  | .error (.stage1 4) => true
  | _ => false

/-! ### The lines a command transfers -/

/-- The runs of bytes that a command fixes at issue in memory: whether it writes them, address and length. -/
def memRuns (op : EngOp) : List (Bool × Nat × Nat) :=
  match op with
  | .acpy .. | .hcpy .. =>
    match copySpaces op with
    | some (fromMem, toMem, a, b, n) => (if fromMem then [(false, a.toNat, n.toNat)] else []) ++ if toMem then [(true, b.toNat, n.toNat)] else []
    | none => []
  | .sxpd f src d scale => (false, src.toNat, tensorBytes f d) :: if scale = 0 then [] else [(false, scale.toNat, scaleBytes d)]
  | .spack f d dst scale => (true, dst.toNat, tensorBytes f d) :: if scale = 0 then [] else [(true, scale.toNat, scaleBytes d)]
  | .acoll dom _ ty src dst n _ _ => if dom then [(false, src.toNat, n * collBytes ty), (true, dst.toNat, n * collBytes ty)] else []
  | .amcast .. | .agath .. | .ascat .. | .tlsig _ | .resolution _ | .completion _ => []

/-- The pages of an extent. -/
def pagesOf (a n : Nat) : List Nat := (List.range ((a + n + 65535) / 65536 - a / 65536)).map fun i => a / 65536 + i

/-- The 128-byte lines of a run. -/
def linesIn (a n : Nat) : List Nat := (List.range (if n = 0 then 0 else (a + n - 1) / 128 + 1 - a / 128)).map fun i => a / 128 + i

/-- The physical lines of a run under some translations. -/
def keyLines (trs : List (Nat × Trans)) (a n : Nat) : List Nat :=
  (linesIn a n).filterMap fun l => (transKey trs (l * 128)).map fun x => x.2 / 128

/-- The lines of the elements of a gather or scatter up to the first that fails (R244). -/
def State.elementLines (s : State) (t : Task) (c : EngCmd) : List Nat :=
  let of_ := fun (k : AccKind) (esz : Nat) (base idx n : W64) =>
    (List.range n.toNat).filterMap fun e =>
      let va := elementAt esz base (s.indexOf t idx e).1
      (s.elementTrans t c.pl k [] va).bind fun tr => (transKey [tr] va.toNat).map fun y => y.2 / 128
  match c.op with
  | .agath esz base idx _ n => of_ .read esz base idx n
  | .ascat esz base idx _ n => of_ .write esz base idx n
  | _ => []

/-- The physical lines that a command transfers. -/
def State.cmdLines (s : State) (t : Task) (c : EngCmd) : List Nat :=
  ((memRuns c.op).flatMap fun r => keyLines c.trs r.2.1 r.2.2) ++ s.elementLines t c

/-- The runs of a command written. -/
def State.applyRuns (s : State) (tid : Nat) (trs : List (Nat × Trans)) (rs : List (RunDest × ByteRun)) : State :=
  rs.foldl (fun s r =>
    match r.1 with
    | .mem => s.writeRun tid 6 trs r.2
    | .slot x => s.onTask x fun t => t.writeScratch r.2) s

/-- The stores to memory of some runs. -/
def memItems (trs : List (Nat × Trans)) (rs : List (RunDest × ByteRun)) : List StoreItem :=
  rs.flatMap fun r => match r.1 with | .mem => runItems trs r.2 | .slot _ => []

/-! ### Completion and failure (R195, R241) -/

/-- One command of a context. -/
def Task.cmd? (t : Task) (k n : Nat) : Option EngCmd := (t.engCtx k).cmds.find? fun c => c.num == n && !c.done

/-- A command completed: its path counter falls and the timeline counts it. -/
def State.finishCmd (s : State) (tid k : Nat) (c : EngCmd) : State :=
  (s.onTask tid fun t =>
    let e := t.engCtx k
    t.setEng k (EngCtx.advance { e with cmds := e.cmds.map fun x => if x.num = c.num then { x with done := true, started := true } else x })).completeAcc c.acc

/-- A context failed at a command (R241): the later commands that have not started are cancelled. -/
def State.failCtx (s : State) (tid k : Nat) (c : EngCmd) (addr : W64) (coll : Bool) : State :=
  let s := s.onTask tid fun t =>
    let e := t.engCtx k
    let f := match e.failed with
      | some (n, a, b) => if n ≤ c.num then some (n, a, b) else some (c.num, addr, coll)
      | none => some (c.num, addr, coll)
    t.setEng k { e with failed := f }
  (s.finishCmd tid k c).cancelCmds tid k fun x => decide (c.num < x.num)

/-! ### Collectives (R246) -/

/-- A participant's match: the task, the context key and the command. -/
structure Part1 where
  task : Task
  key : Nat
  cmd : EngCmd
  deriving DecidableEq, Repr

/-- The collective commands in flight of a task, with their contexts. -/
def Task.collCmds (t : Task) : List (Nat × EngCmd) :=
  t.eng.flatMap fun e => (e.2.cmds.filter fun c => !c.done && (match c.op with | .acoll .. => true | _ => false)).map fun c => (e.1, c)

/-- Whether a command is the j-th of its reach and group. -/
def collIs (dom : Bool) (gid seq : Nat) (c : EngCmd) : Bool :=
  match c.op with
  | .acoll d _ _ _ _ _ g q => d == dom && g == gid && q == seq
  | _ => false

/-- What a participant of a match has come to: waiting, matched, or gone (ended, cancelled or failed). -/
inductive MatchState where
  | missing
  | here (p : Part1)
  | gone
  deriving DecidableEq, Repr

/-- Whether a participant of a group that has taken part with a task before has ended without its match (R246). -/
def Task.forsaken (t : Task) (gid seq : Nat) : Bool :=
  match Table.get none t.dgone gid with
  | some k => decide (k ≤ seq)
  | none => false

/-- The match of a task (R246). -/
def Task.matchOf (t : Task) (dom : Bool) (gid seq : Nat) : MatchState :=
  match t.collCmds.find? fun x => collIs dom gid seq x.2 with
  | some x => .here ⟨t, x.1, x.2⟩
  | none =>
    if t.ended || decide (seq < (if dom then Table.get 0 t.dcolls gid else t.colls)) || (dom && t.forsaken gid seq) then .gone else .missing

/-- The participants on this package that are known, in ascending core order: the cohort, or for DOMAIN the tasks of the context that
have issued a command of the group (R342). -/
def State.participants (s : State) (t : Task) (dom : Bool) (gid : Nat) : List Task :=
  sortBy (fun x => x.core) (s.tasks.filter fun x =>
    if dom then x.ctx == t.ctx && decide (0 < Table.get 0 x.dcolls gid) else t.mate x)

/-- Whether a command can start: it is the first of its context that has not started. -/
def Task.atHead (t : Task) (k : Nat) (c : EngCmd) : Bool :=
  (((t.engCtx k).cmds.find? fun x => !x.started && !x.isNote).map fun x => x.num) == some c.num || c.started

/-- One step of a collective's fold on payloads (R246, R118). -/
def collStep (op : CollOp) (ty : CollTy) (x y : Nat) : Nat :=
  let flt := fun (f : FSpec) =>
    let a := decodeF f x
    let b := decodeF f y
    roundFmt f .rn false false (match op with | .add => a.add .rn b | .min => a.min b | .max => a.max b)
  match ty with
  | .f32 => flt .f32
  | .bf16 => flt .bf16
  | .int =>
    let a := (BitVec.ofNat 64 x).toInt
    let b := (BitVec.ofNat 64 y).toInt
    match op with
    | .add => (x + y) % 2 ^ 64
    | .min => if a ≤ b then x else y
    | .max => if a ≤ b then y else x

/-- The fold of the participants' elements, byte poison with it (R391). -/
def collFold (op : CollOp) (ty : CollTy) (n : Nat) (srcs : List (List SByte)) : List SByte :=
  let z := collBytes ty
  let parts := srcs.map fun x => x.toArray
  (List.range n).flatMap fun e =>
    let es := parts.map fun p => (List.range z).map fun k => p.getD (e * z + k) (.clean 0)
    let bad := lowestBad (es.map badOf)
    let vs := es.map fun b => numLE (b.map fun x => x.val)
    let v := match vs with | [] => 0 | x :: xs => xs.foldl (collStep op ty) x
    (bytesLE v z).map fun b => ⟨b, bad⟩

/-- The source bytes of a participant. -/
def State.collSource (s : State) (p : Part1) : List SByte :=
  let o := s.back p.cmd.seen
  match p.cmd.op with
  | .acoll dom _ ty src _ n _ _ =>
    if dom then s.readExtent o p.task p.cmd.trs src.toNat (n * collBytes ty) else s.readWindow o p.task src.toNat (n * collBytes ty)
  | _ => []

/-- Whether two matches agree in count, op and type. -/
def sameColl (a b : EngCmd) : Bool :=
  match a.op, b.op with
  | .acoll _ o t _ _ n _ _, .acoll _ o' t' _ _ n' _ _ => o == o' && t == t' && n == n'
  | _, _ => false

/-- The parts that other packages have sent for a DOMAIN match, by package number: those below this package's and those
above; none while some package of the group has sent nothing (R340, R342). -/
def State.domParts (s : State) (t : Task) (gid seq : Nat) : Option (List CollMsg × List CollMsg) :=
  match s.group t.ctx gid with
  | none => some ([], [])
  | some (lo, hi) =>
    let pkgs := (List.range (hi + 1 - lo)).map fun i => lo + i
    let of_ := fun (p : Nat) => s.colls.find? fun m => m.dom == (s.ctx t.ctx).domten * 65536 + gid && m.member == p && m.seq == seq
    let others := pkgs.filter fun p => p != Config.package
    if others.any fun p => (of_ p).isNone then none
    else some (others.filterMap fun p => if p < Config.package then of_ p else none,
      others.filterMap fun p => if Config.package < p then of_ p else none)

/-- Whether a message's count, op and type are those of a match. -/
def EngCmd.agrees (c : EngCmd) (m : CollMsg) : Bool :=
  match c.op with
  | .acoll _ o t _ _ n _ _ => o == m.op && t == m.ty && n == m.count
  | _ => false

/-- The participants' source bytes that a message carries: a whole number of blocks; none otherwise, or where the message does
not agree with the match. -/
def msgSources (c : EngCmd) (n : Nat) (m : CollMsg) : Option (List (List SByte)) :=
  if c.agrees m = false ∨ n = 0 ∨ m.payload.length = 0 ∨ m.payload.length % n ≠ 0 then none
  else some (chunksOf n (m.payload.length / n) (m.payload.map SByte.clean))

/-- How a collective stands: waiting, failed for these participants, or complete with the sources in order. -/
inductive CollState where
  | wait
  | fail (ps : List Part1)
  | ready (ps : List Part1) (before after : List (List SByte))
  deriving DecidableEq, Repr

/-- The match of a collective command of a task (R246). A match of DOMAIN waits until as many tasks of this package have issued theirs
as ever will: which tasks those are stands in the runtime's registration, and their number is free (log entry 102). -/
def State.collState (s : State) (t : Task) (dom : Bool) (ty : CollTy) (n gid seq : Nat) : CollState :=
  let ms := (s.participants t dom gid).map fun x => x.matchOf dom gid seq
  let here := ms.filterMap fun m => match m with | .here p => some p | _ => none
  if ms.any fun m => m == .gone then .fail here
  else if ms.any fun m => m == .missing then .wait
  else
    match here with
    | [] => .wait
    | p :: ps =>
      if ps.any fun q => !sameColl p.cmd q.cmd then .fail here
      else if here.any fun q => !q.task.atHead q.key q.cmd then .wait
      else if !dom then .ready here [] []
      else if here.any fun q => q.task.forsaken gid seq then .fail here
      else if here.length < Config.groupTasks ((here.map fun q => q.cmd.acc).foldl Nat.min p.cmd.acc) then .wait
      else
        match s.domParts t gid seq with
        | none => .wait
        | some (lo, hi) =>
          let b := n * collBytes ty
          match lo.mapM (msgSources p.cmd b), hi.mapM (msgSources p.cmd b) with
          | some x, some y => .ready here x.flatten y.flatten
          | _, _ => .fail here

/-- A collective completed for its participants: each destination receives the fold (R246). -/
def State.collFinish (s : State) (op : CollOp) (ty : CollTy) (n : Nat) (ps : List Part1) (lo hi : List (List SByte)) : State :=
  let bs := collFold op ty n (lo ++ ps.map s.collSource ++ hi)
  ps.foldl (fun s p =>
    match p.cmd.op with
    | .acoll dom _ _ _ dst _ _ _ =>
      let s := s.applyRuns p.task.id p.cmd.trs (if dom then [(.mem, layRun dst.toNat bs)] else s.windowRun p.task dst.toNat bs)
      s.finishCmd p.task.id p.key p.cmd
    | _ => s) s

/-! ### The events -/

/-- The free choices of one step are drawn: the counter moves past them. -/
def State.drawn (s : State) : State := { s with tick := s.tick + 1 }

/-- A command marked started: its lines are at their homes, and the tags of its pages taken. -/
def State.startCmd (s : State) (tid k n : Nat) : State :=
  let s := match (s.task? tid).bind fun t => ((t.engCtx k).cmds.find? fun x => x.num == n).map fun c => (t, c) with
    | some (t, c) => (s.visitLines t.ctx (s.cmdLines t c)).takeAll t.ctx c.trs
    | none => s
  s.onTask tid fun t =>
    let e := t.engCtx k
    t.setEng k { e with cmds := e.cmds.map fun x => if x.num = n then { x with started := true, seen := some s.snap } else x }

/-- The command a context would start next (R240). -/
def Task.nextCmd (t : Task) (k : Nat) : Option EngCmd :=
  (t.engCtx k).cmds.find? fun x => !x.started && !x.isNote

/-- Whether a context is halted on its cores (R337, R363): nothing of it starts. -/
def Ctx.halted (c : Ctx) : Bool := (match c.ladder with | some (_, k) => k != 0 | none => false) || decide (3 ≤ c.saveState)

/-- Whether a frozen save keeps a core (R363). -/
def State.frozenCore (s : State) (core : Nat) : Bool := s.tasks.any fun t => t.core == core && (s.ctx t.ctx).saveState == 4

/-- Whether a core can start a command of a context: it is not kept by another one that is frozen (R363), and has room for a
request (R18). -/
def State.startsOn (s : State) (t : Task) : Bool :=
  !(s.ctx t.ctx).halted && !s.frozenCore t.core && decide (s.requests t.core < requestLimit)

/-- The first address of a queued command that has come back without the page or the right it had (R362). DESIGN CHOICE (log entry
121): its context fails there. -/
def lostAddress (c : EngCmd) : Option W64 :=
  (memRuns c.op).findSome? fun r =>
    ((pagesOf r.2.1 r.2.2).find? fun p => r.2.2 != 0 && !(c.trs.any fun x => x.1 == p && (if r.1 then x.2.s2wr else x.2.s2rd))).map fun p =>
      BitVec.ofNat 64 (Nat.max r.2.1 (p * 65536))

/-- The first page of a command whose packets the crossbar refuses (R306, R241). -/
def State.refusedPage (s : State) (ctx : Nat) (c : EngCmd) : Option W64 :=
  (c.trs.find? fun x => x.2.kind == .device && !s.inMatrix ctx x.2.base).map fun x => BitVec.ofNat 64 (x.1 * 65536)

/-- A command whose packets the crossbar refuses: its context fails, and ISOLCNT counts it (R241, R306). -/
def State.failRefused (s : State) (t : Task) (k : Nat) (c : EngCmd) (va : W64) : State :=
  ((s.startCmd t.id k c.num).isolatedIn (s.ctx t.ctx).part).failCtx t.id k c va false

/-- The next command of a context started (R240, R246, R306): a collective with all its matches, which start together, or whose match
fails. -/
def State.startEngine (s : State) (tid k : Nat) : State :=
  match s.task? tid with
  | none => s
  | some t =>
    match (if s.startsOn t then t.nextCmd k else none) with
    | none => s
    | some c =>
      match c.op with
      | .acoll dom _ ty _ _ n gid seq =>
        match s.collState t dom ty n gid seq with
        | .wait => s
        | .fail ps => ps.foldl (fun s p => s.failCtx p.task.id p.key p.cmd 0 true) s
        | .ready ps _ _ =>
          if ps.any fun p => !s.startsOn p.task then s
          else
            match ps.filterMap fun p => (lostAddress p.cmd).map fun va => (p, va), ps.filterMap fun p => (s.refusedPage p.task.ctx p.cmd).map fun va => (p, va) with
            | [], [] => ps.foldl (fun s p => s.startCmd p.task.id p.key p.cmd.num) s
            | [], bad => bad.foldl (fun s x => s.failRefused x.1.task x.1.key x.1.cmd x.2) s
            | bad, _ => bad.foldl (fun s x => s.failCtx x.1.task.id x.1.key x.1.cmd x.2 false) s
      | _ =>
        match lostAddress c, s.refusedPage t.ctx c with
        | some va, _ => s.failCtx tid k c va false
        | none, some va => s.failRefused t k c va
        | none, none => s.startCmd tid k c.num

/-- ENGINE_COMMAND_START (R240, R246, R306). -/
def execEngineCommandStart (tid k : Nat) (s : State) : Host.Outcome State Fault Refusal := .next (s.startEngine tid k)

/-- Whether an access is still in flight. -/
def State.pending (s : State) (id : Nat) : Bool :=
  (s.loads.any fun x => x.id == id) || (s.stores.any fun x => x.id == id) || (s.atoms.any fun x => x.id == id) ||
  (s.tiles.any fun x => x.id == id) ||
  s.tasks.any fun t => t.eng.any fun e => e.2.cmds.any fun c => c.acc == id && !c.done

/-- A command counted by its timeline ahead of its writes, which no agent that has not acquired it need see yet (R197, R248,
R387). -/
def State.countCmd (s : State) (tid k n : Nat) (trs : List (Nat × Trans)) (runs : List (RunDest × ByteRun)) : State :=
  s.onTask tid fun t =>
    let e := t.engCtx k
    t.setEng k (EngCtx.advance { e with cmds := e.cmds.map fun x => if x.num = n then { x with trs := trs, late := some runs } else x })

/-- ENGINE_COMMAND_COMPLETE (R195, R197, R240, R249): the command's bytes move and it counts as complete; the timeline may count
it before its bytes have moved. One of a speculative task for whose lines the L2 has no room waits (R208). A gather or scatter may fail instead (R241, R244), and a TLSIG waits for the accesses before
it. -/
def State.completeEngine (s : State) (tid k n : Nat) : State :=
  match s.task? tid with
  | none => s
  | some t =>
    match t.cmd? k n with
    | none => s
    | some c =>
      if !c.started then s
      else
        match c.op with
        | .acoll dom op ty _ _ cnt gid seq =>
          match s.collState t dom ty cnt gid seq with
          | .wait => s
          | .fail ps => ps.foldl (fun s p => s.failCtx p.task.id p.key p.cmd 0 true) s
          | .ready ps lo hi => (s.collFinish op ty cnt ps lo hi).drawn
        | .tlsig after => if after.any s.pending then s else (s.fenceL1 t.core true false 4).finishCmd tid k c
        | .resolution _ | .completion _ => s
        | _ =>
          match c.late with
          | some runs => (s.applyRuns tid c.trs runs).finishCmd tid k c
          | none =>
            let w := s.cmdWrites t c
            let trs := s.cmdTrans t c
            let o := ((s.elementPages t c).foldl (fun s x => s.holdPage t.ctx x.1 x.2) s.drawn).choose 2
            if !s.specFits t (memItems trs w.runs) then s
            else match w.fail with
            | none => if o.1 = 1 then o.2.countCmd tid k n trs w.runs else (o.2.applyRuns tid trs w.runs).finishCmd tid k c
            | some va =>
              let d := if s.elementRefused t c va then o.2.isolatedIn (s.ctx t.ctx).part else o.2
              (d.applyRuns tid trs w.runs).failCtx tid k c va false

/-- ENGINE_COMMAND_COMPLETE (R195, R240). -/
def execEngineCommandComplete (tid k n : Nat) (s : State) : Host.Outcome State Fault Refusal := .next (s.completeEngine tid k n)

/-- Commands that have waited a finite time start, complete, and write (R183; log entry 101). -/
def State.commandsVisible (s : State) : State :=
  let due := s.tasks.flatMap fun t => t.eng.flatMap fun e =>
    (e.2.cmds.filter fun c => !c.done && !c.isNote && decide (c.since + Config.visibleNs ≤ s.nowNs)).map fun c => (t.id, e.1, c.num)
  due.foldl (fun s x => ((s.startEngine x.1 x.2.1).completeEngine x.1 x.2.1 x.2.2).completeEngine x.1 x.2.1 x.2.2) s

/-- Whether a command can meet an error of the host link or the fabric (R241). -/
def EngCmd.remote (c : EngCmd) : Bool :=
  match c.op with
  | .hcpy .. => true
  | .acoll dom .. => dom
  | .agath .. | .ascat .. => true
  | .tlsig _ | .resolution _ | .completion _ => false
  | .acpy .. | .amcast .. | .sxpd .. | .spack .. => c.trs.any fun x => x.2.kind != .device

/-- ENGINE_COMMAND_FAIL (R241): an error of the host link or the fabric fails a started command; which of its bytes it
has already written is free. -/
def execEngineCommandFail (tid k n : Nat) (addr : W64) (s : State) : Host.Outcome State Fault Refusal :=
  .next <|
    match s.task? tid with
    | none => s
    | some t =>
      match t.cmd? k n with
      | none => s
      | some c =>
        if !c.started || !c.remote || c.late.isSome then s
        else
          let w := s.cmdWrites t c
          let some_ := w.runs.map fun r => (r.1, (r.2.mapIdx fun i b => (i, b)).filterMap fun x =>
            if Config.pickAt s.tick (4 * x.1 + 3) % 2 = 1 then some x.2 else none)
          ((s.applyRuns tid (s.cmdTrans t c) some_).drawn).failCtx tid k c addr false

end Sys2Proof.Machine
end

