-- ==== Sys2Proof/Machine/Matrix.lean ====
section
/-!
DEFINITION. The matrix engine: descriptors, slots, products, gangs, draining (spec 05, R133 to R152, R158 to R171).
-/
namespace Sys2Proof.Machine

/-! ### Handles (R134, R135) -/

/-- The generation of a slot of a core. -/
def State.gen (s : State) (core i : Nat) : BitVec 4 := Table.get 0 s.accGen (core * 16 + i)

/-- The payload of a live handle (R134). -/
def handleWord (i : Nat) (gen : BitVec 4) (serial : BitVec 16) : Word :=
  ⟨.tile, BitVec.ofNat 64 (i + gen.toNat * 2 ^ 4 + serial.toNat * 2 ^ 8)⟩

/-- The slot a live handle names for a task (R135). -/
def State.liveSlot (s : State) (t : Task) (h : Word) : Option AccSlot :=
  if h.tag = .tile ∧ bits h.pay 23 8 = t.serial.toNat then
    t.slots.find? fun x => x.allocated && x.index == bits h.pay 3 0 && decide ((s.gen t.core x.index).toNat = bits h.pay 7 4)
  else none

/-- A slot of a task written. -/
def Task.setSlot (t : Task) (x : AccSlot) : Task := { t with slots := t.slots.map fun y => if y.index = x.index then x else y }
/-- A slot of a task by index. -/
def Task.slot? (t : Task) (i : Nat) : Option AccSlot := t.slots.find? fun x => x.index == i

/-- Whether a sub-path waits at a latch with a product of its own on a slot (R149). -/
def Path.latchedOn (p : Path) (i : Nat) : Bool :=
  match p.wait with
  | .latch d _ (some _) => d == i
  | _ => false

/-- Whether some tile operation that names a slot of a task is in flight, or waits at the latch of its gang (R143, R149, R165,
R171). -/
def State.slotBusy (s : State) (t : Task) (i : Nat) : Bool :=
  (s.tiles.any fun x => x.core == t.core && x.slot == i) ||
  s.warps.any fun w => w.task == t.id && w.splits.any fun sp => sp.paths.any fun p => p.latchedOn i

/-! ### Checks at issue (R144) -/

/-- A source register of a matrix instruction: whether it is a scalar register, and its number. -/
abbrev TileReg : Type := Bool × Reg

/-- The lanes in which a source register holds POISON: every lane of the split for a scalar one (R142, R144). -/
def U.poisonLanes (u : U) (x : TileReg) : LaneMask :=
  if x.1 then (if (u.w.getS x.2).tag = .poison then u.pa.mask else 0)
  else maskOf ((List.range 64).filter fun l => (u.w.getV l x.2).tag == .poison)

/-- A matrix instruction: SCOPE of its prefix, WIDTH_FAULT, POISON_READ among the sources (in the order D, A, B), then the
rest of R144 by `form`, whose translations `k` takes. -/
def State.tileOp (s : State) (u : U) (g : Guard) (width : Bool) (srcs : List TileReg)
    (form : State → CmdForm) (k : State → Nat → List (Nat × Trans) → State) : State :=
  if u.acting g = [] then u.skip s
  else s.withHint u (u.acting g) 1 fun s hint =>
    if width then s.raise u (mkTrap codeWidthFault 0 u.pa.mask 0)
    else
      match srcs.filter fun x => u.poisonLanes x != 0 with
      | x :: xs => s.raise u (mkTrap codePoisonRead 0 (xs.foldl (fun m y => m ||| u.poisonLanes y) (u.poisonLanes x)) (x.2.setWidth 64))
      | [] =>
        let f := form s
        match s.cmdChecks u f with
        | .error e => s.cmdStop u e
        | .ok trs => if f.hold then u.hold s else k s hint trs

/-- A form that only its own ILLEGAL condition, descriptors and extents decide. -/
def tileForm (illegal : Bool) (descs : List SDesc) : CmdForm :=
  { CmdForm.plain (.tlsig []) with illegal := illegal, descs := descs }

/-- The lines of memory, and the 32-byte chunks of the cohort window, that a drain's destination covers (R158). -/
def DrainDst.lines (trs : List (Nat × Trans)) : DrainDst → List Nat
  | .memory a f => (List.range (64 * storeBytes f / 128)).filterMap fun l => (transKey trs (a.toNat + 128 * l)).map fun y => y.2 / 128
  | .scratch _ _ => []
def DrainDst.pads : DrainDst → List Nat
  | .memory _ _ => []
  | .scratch d _ => d.chunks

/-- The destinations of a tile operation. -/
def TileDo.dsts : TileDo → List DrainDst
  | .drain x y => x :: y.toList
  | .drainAdd x => [x]
  | .product _ _ _ | .accld _ => []

/-- A tile operation issued (R143): path 5 rises; the lines that it writes are at their homes (R333). -/
def U.issueTile (u : U) (s : State) (slot : Nat) (act : TileDo) (trs : List (Nat × Trans)) (hint gang : Nat) : State :=
  let f := s.fresh
  let s := trs.foldl (fun s x => s.holdPage u.t.ctx x.1 x.2) f.2
  let lines := act.dsts.flatMap fun x => x.lines trs
  let s := s.visitLines u.t.ctx lines
  let op : TileOp := ⟨f.1, u.w.id, u.t.id, u.t.core, slot, act, trs, u.sp.pl, hint, gang, false, false, none,
    lines, act.dsts.flatMap DrainDst.pads, u.sp.acc.map fun a => a.id, s.nowNs⟩
  u.done { s with tiles := s.tiles ++ [op] } (u.addAcc u.w f.1 5)

/-- Whether the counter of path 5 has no room for another operation, or the core none for `n` more requests (R18, R193). -/
def U.tileFull (u : U) (s : State) (n : Nat) : Bool := decide (4095 ≤ u.sp.count 5) || decide (requestLimit < s.requests u.t.core + n)

/-! ### Descriptors and slots (R164, R165) -/

/-- The address of TDESC: bit [25] asks for the executing core (R164). -/
def tdescAddr (core : Nat) (x : W64) : Nat := if bitAt x 25 then bits x 18 0 + core % 64 * 2 ^ 19 else bits x 24 0

/-- The descriptor TDESC builds (R164). -/
def tdescOf (core : Nat) (k : Kind) (rot : BitVec 4) (x y : W64) : SDesc :=
  let kind := match k with | .c16 => 0 | .c24 => 1 | .f32 => 2 | .bf16 => 3
  ⟨BitVec.ofNat 64 (tdescAddr core x + bits y 15 0 * 2 ^ 32 + bits y 23 16 * 2 ^ 48),
   BitVec.ofNat 64 (bits y 47 24 + rot.toNat * 2 ^ 24 + kind * 2 ^ 28 + bits y 55 48 * 2 ^ 32)⟩

/-- TDESC (R164): the kind and the rule on destinations are left to the instructions that use the descriptor. -/
def execTdesc (g : Guard) (k : Kind) (rot : BitVec 4) (d a b : Reg) (s : State) : Host.Outcome State Fault Refusal :=
  s.onUnit fun u => s.once u g [a, b] <|
    let x := u.pS a
    let y := u.pS b
    let e := tdescOf u.t.core k rot x y
    if bits x 63 26 ≠ 0 ∨ bits y 63 56 ≠ 0 ∨ e.illegal [0, 1, 2, 3] false = true then s.illegal u
    else if e.misaligned then s.cmdStop u (if e.base % 32 = 0 then .count else .trap codeAlign 0 false (BitVec.ofNat 64 e.base))
    else u.done s ((u.w.setS d ⟨.bits, e.lo⟩).setS (pairHi d) ⟨.bits, e.hi⟩)

/-- TALLOC (R165): the task's lowest free slot, cleared; NIL without one. -/
def execTalloc (g : Guard) (d : Reg) (s : State) : Host.Outcome State Fault Refusal :=
  s.onUnit fun u => s.once u g [] <|
    match (sortBy (fun x => x.index) u.t.slots).find? fun x => !x.allocated with
    | none => u.done s (u.w.setS d .nil)
    | some x =>
      u.done (s.setTask (u.t.setSlot ⟨x.index, true, false, []⟩))
        (u.w.setS d (handleWord x.index (s.gen u.t.core x.index) u.t.serial))

/-- TFREE (R165): waits for the tile operations that name the slot; the generation advances. -/
def execTfree (g : Guard) (a : Reg) (s : State) : Host.Outcome State Fault Refusal :=
  s.onUnit fun u => s.once u g [a] <|
    match s.liveSlot u.t (u.w.getS a) with
    | none => s.illegal u
    | some x =>
      if s.slotBusy u.t x.index then u.hold s
      else
        let key := u.t.core * 16 + x.index
        u.skip { (s.setTask (u.t.setSlot { x with allocated := false })) with
          accGen := Table.put 0 s.accGen key (s.gen u.t.core x.index + 1) }

/-! ### Products (R142, R146, R166) -/

/-- The sixteen registers of a register operand (R142). -/
def groupRegs (r : Reg) : List Reg := (List.range 16).map fun i => r + BitVec.ofNat 8 i

/-- A register operand as it stands in all 64 lanes (R142). -/
def U.captureGroup (u : U) (r : Reg) : TileSrc :=
  .regs ((List.range 64).foldl (fun t l => (List.range 16).foldl (fun t m =>
    Table.put .nil t (l * 16 + m) (u.w.getV l (r + BitVec.ofNat 8 m))) t) [])

/-- An operand: a descriptor of scalar registers, or a register group. -/
def U.tileSrc (u : U) (isDesc : Bool) (r : Reg) : TileSrc := if isDesc then .desc (u.desc r) else u.captureGroup r

/-- The tiles along K of an operand (R142). -/
def TileSrc.count : TileSrc → Nat
  | .regs _ => 1
  | .desc d => SDesc.count d
  | .taken _ ts _ => ts.length

/-- The descriptors among operands. -/
def TileSrc.descs : TileSrc → List SDesc
  | .regs _ | .taken _ _ _ => []
  | .desc d => [d]

/-- The lane registers that operands name. -/
def operandV (isDesc : Bool) (r : Reg) : List Reg := if isDesc then [] else groupRegs r
/-- The source registers that operands name. -/
def operandRegs (isDesc : Bool) (r : Reg) : List TileReg :=
  if isDesc then [(true, r), (true, pairHi r)] else (groupRegs r).map fun x => (false, x)

/-- Whether a register operand stands outside width 64 (R142). -/
def U.badWidth (u : U) (anyReg : Bool) : Bool := anyReg && (u.w.width != 64 || u.w.legacy)

/-- Whether a descriptor breaks R140 as a source of a product (R166). -/
def TileSrc.illegal (x : TileSrc) : Bool := x.descs.any fun d => d.illegal [0, 1] false

/-- MMAZ and MMA (R166). -/
def State.product (s : State) (g : Guard) (zero ad bd : Bool) (d a b : Reg) : Host.Outcome State Fault Refusal :=
  s.onUnit fun u => s.named u (operandV ad a ++ operandV bd b) <|
    let x := u.tileSrc ad a
    let y := u.tileSrc bd b
    s.tileOp u g (u.badWidth (!ad || !bd)) ((true, d) :: operandRegs ad a ++ operandRegs bd b)
      (fun s => { tileForm (x.illegal || y.illegal || x.count != y.count || (s.liveSlot u.t (u.w.getS d)).isNone) (x.descs ++ y.descs)
        with hold := u.tileFull s 1 })
      fun s hint _ => match s.liveSlot u.t (u.w.getS d) with
        | some sl => u.issueTile s sl.index (.product zero x y) [] hint 0
        | none => s

/-- MMAZ (R166). -/
def execMmaz (g : Guard) (ad bd : Bool) (d a b : Reg) (s : State) : Host.Outcome State Fault Refusal := s.product g true ad bd d a b
/-- MMA (R166). -/
def execMma (g : Guard) (ad bd : Bool) (d a b : Reg) (s : State) : Host.Outcome State Fault Refusal := s.product g false ad bd d a b

/-! ### Gangs (R148 to R152) -/

/-- The slots of a gang register, ascending. -/
def gangSlots (m : BitVec 32) : List Nat := (List.range 32).filter fun i => m.getLsbD i

/-- The resident warp of a task in a slot. -/
def State.slotWarp (s : State) (tid i : Nat) : Option Warp := s.warps.find? fun w => w.task == tid && w.slot == i

/-- Whether a waiting member's gang still stands (R151): every slot of its mask holds a warp with the same register. -/
def State.gangOk (s : State) (tid : Nat) (m : BitVec 32) : Bool :=
  (gangSlots m).all fun i => match s.slotWarp tid i with | some w => w.gang == m | none => false

/-- The unit that a waiting sub-path stands before, its sub-path brought to the head of the rotation. -/
def Warp.waitingUnit (w : Warp) (t : Task) (sp : Split) (i : Nat) (len : Nat) : Option (Warp × U) :=
  match sp.paths[i]? with
  | none => none
  | some p =>
    let pa : Path := { p with wait := .run }
    let sp' : Split := { sp with paths := pa :: (sp.paths.eraseIdx i) }
    let w' := w.setSplit sp'
    some (w', ⟨w', sp', pa, t, ⟨w.id, sp.num, p.pc, p.pc + BitVec.ofNat 64 len, none, none, false⟩⟩)

/-- A thread trap of a unit that waits. -/
def State.trapWaiting (s : State) (w : Warp) (sp : Split) (i len : Nat) (x : LaneMask → Trap) : State :=
  match s.task? w.task with
  | none => s
  | some t =>
    match w.waitingUnit t sp i len with
    | none => s
    | some (w', u) => (s.setWarp w').raise u (x u.pa.mask)

/-- The sub-paths of a warp with a test on their wait, as split and place. -/
def Warp.waiting (w : Warp) (p : Wait → Bool) : List (Split × Nat) :=
  w.splits.flatMap fun sp => (sp.paths.mapIdx fun i x => (i, x)).filterMap fun x => if p x.2.wait then some (sp, x.1) else none

/-- Whether a wait is at a latch. -/
def Wait.isLatch : Wait → Bool
  | .latch .. => true
  | _ => false

/-- Members whose gang no longer stands raise ILLEGAL at their MMAG (R151). -/
def State.dissolve (s : State) (tid : Nat) : State :=
  (s.warps.filter fun w => w.task == tid && !s.gangOk tid w.gang).foldl (fun s w =>
    match s.warp? w.id with
    | none => s
    | some w => match w.waiting Wait.isLatch with
      | (sp, i) :: _ => s.trapWaiting w sp i 8 fun m => mkTrap codeIllegal 2 m 0
      | [] => s) s

/-- What a member waits with at its latch. -/
def Warp.latched (w : Warp) : Option (Nat × Option TileSrc × Option TileSrc) :=
  (w.splits.flatMap fun sp => sp.paths).findSome? fun p => match p.wait with | .latch d a b => some (d, a, b) | _ => none

/-- A member's latch opens: its unit is done and its product, if it has one, is a tile operation in flight (R150). -/
def State.openMember (s : State) (t : Task) (gang : Nat) (a : TileSrc) (w : Warp) : State :=
  match w.waiting Wait.isLatch with
  | [] => s
  | (sp, i) :: _ =>
    match w.latched, w.waitingUnit t sp i 8 with
    | some (d, _, b), some (w', u) =>
      -- The waiting unit keeps its place in the rotation.
      let sp' : Split := { sp with paths := sp.paths.mapIdx fun j p => if j = i then { p with pc := p.pc + 8, wait := .run } else p }
      match b with
      | none => s.setWarp (w'.setSplit sp')
      | some y =>
        let f := s.fresh
        let op : TileOp := ⟨f.1, w.id, t.id, t.core, d, .product false a y, [], u.sp.pl, 1, gang, false, false, none, [], [], [], s.nowNs⟩
        ({ f.2 with tiles := f.2.tiles ++ [op] }).setWarp (w'.setSplit (sp'.addAcc f.1 5))
    | _, _ => s

/-- The latch of a gang opens once every member has arrived (R150); where tile counts differ every member raises ILLEGAL. -/
def State.tryLatch (s : State) (tid : Nat) (m : BitVec 32) : State :=
  match s.task? tid with
  | none => s
  | some t =>
    let ws := (gangSlots m).filterMap fun i => s.slotWarp tid i
    let ls := ws.filterMap fun w => w.latched
    if ls.length ≠ (gangSlots m).length || ws.any fun w => w.gang != m then s
    else
      match ls with
      | (_, some a, _) :: _ =>
        if ls.any fun x => match x.2.2 with | some b => b.count != a.count | none => false then
          ws.foldl (fun s w => match w.waiting Wait.isLatch with
            | (sp, i) :: _ => s.trapWaiting w sp i 8 fun m => mkTrap codeIllegal 2 m 0
            | [] => s) s
        else
          let f := s.fresh
          ws.foldl (fun s w => s.openMember t (f.1 + 1) a w) f.2
      | _ => s

/-- MMAG (R144, R149, R166): the lowest member checks and supplies A even where no guard is true; a member without a true
guard has no product of its own; without a gang, a guard that is false everywhere leaves no effect. -/
def execMmag (g : Guard) (ad bd : Bool) (d a b : Reg) (s : State) : Host.Outcome State Fault Refusal :=
  s.onUnit fun u =>
    let low := (gangSlots u.w.gang).head? == some u.w.slot
    let own := decide (u.acting g ≠ [])
    if !own && u.w.gang == 0 then u.skip s
    else s.named u ((if low then operandV ad a else []) ++ operandV bd b) <|
      let x := u.tileSrc ad a
      let y := u.tileSrc bd b
      let descs := (if low then x.descs else []) ++ (if own then y.descs else [])
      s.tileOp u .always (decide (1 < u.w.splits.length) || u.badWidth ((low && !ad) || (own && !bd)))
        ((if own then [(true, d)] else []) ++ (if low then operandRegs ad a else []) ++ (if own then operandRegs bd b else []))
        (fun s => { tileForm (descs.any (fun e => e.illegal [0, 1] false) || (own && (s.liveSlot u.t (u.w.getS d)).isNone) ||
            u.w.gang == 0 || !s.gangOk u.t.id u.w.gang) descs with hold := u.tileFull s (gangSlots u.w.gang).length })
        fun s _ _ =>
          let slot := ((s.liveSlot u.t (u.w.getS d)).map fun sl => sl.index).getD 0
          let w := u.w.setHead u.c.split { u.pa with pc := u.c.start, wait := .latch slot (if low then some x else none) (if own then some y else none) }
          (s.setWarp (w.handOver u.c.split)).tryLatch u.t.id u.w.gang

/-- Whether a gang register value is valid for a warp (R148). -/
def State.gangValid (s : State) (u : U) (m : BitVec 32) : Bool :=
  let xs := gangSlots m
  m == 0 || (decide (2 ≤ xs.length) && decide (xs.length ≤ 6) && xs.contains u.w.slot && xs.all fun i => (s.slotWarp u.t.id i).isSome)

/-- GANGSET (R167). -/
def execGangset (g : Guard) (a : Reg) (s : State) : Host.Outcome State Fault Refusal :=
  s.onUnit fun u =>
    if u.acting g ≠ [] ∧ 1 < u.w.splits.length then s.raise u (mkTrap codeWidthFault 0 u.pa.mask 0)
    else s.once u g [a] <|
      let x := u.pS a
      if x.toNat / 2 ^ 32 ≠ 0 ∨ s.gangValid u (x.setWidth 32) = false then s.illegal u
      else (u.done s { u.w with gang := x.setWidth 32 }).dissolve u.t.id

/-! ### Draining (R158 to R162, R170) and loading (R171) -/

/-- The kinds of scratchpad descriptor a drain of a format accepts (R158). -/
def drainKinds : TFmt → List Nat
  | .f32 => [2]
  | .bf16 => [3]
  | .gx4 | .gx6 | .gx9 | .e4m3 | .e5m2 | .fp16 => []

/-- The extent of a drain to memory (R158). -/
def drainExtent (f : TFmt) (a : W64) : Extent := ⟨allKinds, true, a, 64 * storeBytes f⟩

/-- The checks of a drain destination: memory at an address, or a descriptor (R158). -/
def drainForm (mem : Bool) (kinds : List Nat) (f : TFmt) (a : W64) (x : SDesc) : CmdForm :=
  if mem then { tileForm false [] with aligned := [(a, 128)], extents := [drainExtent f a] }
  else tileForm (x.illegal kinds true || x.count != 1) [x]

/-- A drain destination. -/
def drainDst (mem : Bool) (f : TFmt) (a : W64) (x : SDesc) : DrainDst := if mem then .memory a f else .scratch x f

/-- The scalar registers of a drain destination. -/
def drainRegs (mem : Bool) (r : Reg) : List Reg := if mem then [r] else [r, pairHi r]

/-- A drain of slot D (R170): its checks with those of its destinations, and its issue. -/
def State.drainBy (s : State) (u : U) (g : Guard) (d : Reg) (regs : List Reg) (form : CmdForm) (act : TileDo) : State :=
  s.tileOp u g false ((d :: regs).map fun r => (true, r))
    (fun s => { form with
      illegal := form.illegal || (s.liveSlot u.t (u.w.getS d)).isNone
      hold := form.hold || u.tileFull s 1 })
    fun s hint trs => match s.liveSlot u.t (u.w.getS d) with
      | some sl => u.issueTile s sl.index act trs hint 0
      | none => s

/-- DRAIN (R158, R170). -/
def execDrain (g : Guard) (f : TFmt) (mem : Bool) (d a : Reg) (s : State) : Host.Outcome State Fault Refusal :=
  s.onUnit fun u => s.drainBy u g d (drainRegs mem a) (drainForm mem (drainKinds f) f (u.pS a) (u.desc a))
    (.drain (drainDst mem f (u.pS a) (u.desc a)) none)

/-- The format codes of R158. -/
def drainFmt (n : Nat) : TFmt :=
  match n with
  | 0 => .f32 | 1 => .bf16 | 2 => .fp16 | 3 => .e4m3 | 4 => .e5m2 | 5 => .gx4 | 6 => .gx6 | _ => .gx9

/-- The format of a transposed copy (R160). -/
def transFmt (mem : Bool) (b : W64) (y : SDesc) : TFmt :=
  if mem then drainFmt (bits b 59 57) else if y.kind = 2 then .f32 else .bf16

/-- DRAIN.T (R160, R170). -/
def execDrainT (g : Guard) (f : TFmt) (mem : Bool) (d a b : Reg) (s : State) : Host.Outcome State Fault Refusal :=
  s.onUnit fun u =>
    let x := u.desc a
    let y := u.desc b
    let tf := transFmt mem (u.pS b) y
    let ta : W64 := BitVec.ofNat 64 (bits (u.pS b) 56 0)
    let p := drainForm mem (drainKinds f) f (u.pS a) x
    let q := drainForm mem [2, 3] tf ta y
    s.drainBy u g d (drainRegs mem a ++ drainRegs mem b)
      { p with
        illegal := p.illegal || q.illegal || (mem && decide (bits (u.pS b) 63 60 ≠ 0))
        aligned := p.aligned ++ q.aligned
        descs := p.descs ++ q.descs
        extents := p.extents ++ q.extents }
      (.drain (drainDst mem f (u.pS a) x) (some (drainDst mem tf ta y)))

/-- DRAIN.ADD (R161, R170): read and written at its destination; in a speculative task it waits (R211). DESIGN CHOICE (log entry
108): it needs read permission there, checked behind the write permission. -/
def execDrainAdd (g : Guard) (f : TFmt) (mem : Bool) (d a : Reg) (s : State) : Host.Outcome State Fault Refusal :=
  s.onUnit fun u =>
    let p := drainForm mem (drainKinds f) f (u.pS a) (u.desc a)
    s.drainBy u g d (drainRegs mem a)
      { p with
        illegal := p.illegal || !(f == .f32 || f == .bf16)
        extents := p.extents ++ p.extents.map fun e => { e with write := false }
        hold := u.speculative }
      (.drainAdd (drainDst mem f (u.pS a) (u.desc a)))

/-- ACCLD (R171). DESIGN CHOICE (log entry 108): it asks for no width. -/
def execAccld (g : Guard) (d a : Reg) (s : State) : Host.Outcome State Fault Refusal :=
  s.onUnit fun u =>
    let x := u.desc a
    s.drainBy u g d [a, pairHi a] (tileForm (x.illegal [2, 3] false || x.count != 1) [x]) (.accld x)

/-- ACCRD (R171): waits for the tile operations that name the slot. -/
def execAccrd (g : Guard) (d a : Reg) (blk : Byte) (s : State) : Host.Outcome State Fault Refusal :=
  s.onUnit fun u => s.named u (groupRegs d) <|
    s.tileOp u g (u.w.width != 64 || u.w.legacy) [(true, a)]
      (fun s => tileForm (s.liveSlot u.t (u.w.getS a)).isNone [])
      fun s _ _ => match s.liveSlot u.t (u.w.getS a) with
        | none => s
        | some x =>
          if s.slotBusy u.t x.index then u.hold s
          else
            let word := fun (i m : Nat) => if x.poison then poisonWord 4 else
              (⟨.f32, (Table.get 0 x.data (i * 64 + 16 * blk.toNat + m)).setWidth 64⟩ : Word)
            u.done s ((u.acting g).foldl (fun w i => (List.range 16).foldl (fun w m =>
              w.setV i (d + BitVec.ofNat 8 m) (word i m)) w) u.w)

end Sys2Proof.Machine
end

