-- ==== Sys2Proof/Machine/Waits.lean ====
section
/-!
DEFINITION. What units wait for at boundaries and what releases them: serialised turns (R288), barriers (R290), the
rendezvous of FUSEW (R271, R273, R297), LEGACY.leave (R274, R298), SYNCW (R61), and the end of lanes and warps (R268,
R292).
-/
namespace Sys2Proof.Machine

/-! ### Turns (R288) -/

/-- The end of the running lane's turn in an open record; `next` is the unit after the SERE that ends it, none for an
EXIT, after which the other lanes, when no turn is left, continue after the last SERE. -/
def Path.endTurn (p : Path) (live : LaneMask) (next : Option W64) : Path :=
  match p.ser with
  | none => p
  | some r =>
    let r : SerRec := { r with served := r.served ||| p.mask, after := next.getD r.after }
    let left := r.all &&& ~~~r.served &&& live
    if left ≠ 0 then { p with mask := laneBit (lowestLane left), pc := r.resume, ser := some { r with depth := 1 } }
    else { p with mask := r.all &&& live, pc := r.after, ser := none }

/-! ### Waits of a warp -/

/-- The sub-paths of a warp. -/
def Warp.paths (w : Warp) : List Path := w.splits.flatMap fun sp => sp.paths

/-- Whether some lane of a warp has handler depth above 0. -/
def Warp.deep (w : Warp) : Bool := (lanesOf w.live).any fun l => decide (0 < w.depth l)
/-- Whether some sub-path holds an open serialisation record. -/
def Warp.serial (w : Warp) : Bool := w.paths.any fun p => p.ser.isSome
/-- Whether some lane has an open transaction. -/
def Warp.inTx (w : Warp) : Bool := !w.txs.isEmpty

/-- Every sub-path with a test on its wait continues `len` bytes on. -/
def Warp.release (w : Warp) (p : Wait → Bool) (len : Nat) : Warp :=
  let go := fun (x : Path) => if p x.wait then { x with pc := x.pc + BitVec.ofNat 64 len, wait := .run } else x
  { w with splits := w.splits.map fun sp => { sp with paths := sp.paths.map go } }

/-! ### Barriers (R290) -/

/-- The barrier and count at which every unit of a warp waits; a place kept for lanes that are away in their handlers is no unit
(R112). -/
def Warp.atBarrier (w : Warp) : Option (Nat × Option Nat) :=
  match w.paths.filter fun p => p.mask != 0 with
  | [] => none
  | p :: ps =>
    match p.wait with
    | .barrier n c => if (ps.all fun q => q.wait == .barrier n c) then some (n, c) else none
    | _ => none

/-- The bytes of a barrier unit: BAR without a count, BARC with one. -/
def barLen (c : Option Nat) : Nat := if c.isNone then 4 else 8

/-- An instance completes: its warps continue, block-register ownership is cleared (R132, R290), and each warp that arrived sees what
the others have bound (R247). -/
def State.finishBar (s : State) (tid : Nat) (b : BarInst) : State :=
  let s : State := { s with warps := s.warps.map fun w =>
    if w.id ∈ b.arrived then w.release (· == .barrier b.num b.count) (barLen b.count) else w }
  s.onTask tid fun t => { t with
    bars := t.bars.filter fun x => x.num != b.num
    owners := []
    bpast := []
    olds := t.olds.filter fun x => !(b.arrived.contains x.warp && b.arrived.contains x.by_) }

/-- Instances of a task that have all their arrivals complete. -/
def State.checkBars (s : State) (tid : Nat) : State :=
  match s.task? tid with
  | none => s
  | some t =>
    let live := (s.warps.filter fun w => w.task == tid).map fun w => w.id
    t.bars.foldl (fun s b =>
      if (match b.count with | some c => decide (c ≤ b.arrived.length) | none => false) || (live.all fun id => decide (id ∈ b.arrived))
      then s.finishBar tid b else s) s

/-- A warp that has come to wait whole at a barrier arrives (R290): `none` when its count differs from the instance's. -/
def Task.arrive (t : Task) (wid n : Nat) (c : Option Nat) : Option Task :=
  match t.bars.find? fun b => b.num == n with
  | none => some { t with bars := t.bars ++ [⟨n, c, [wid]⟩] }
  | some b =>
    if b.count ≠ c then none
    else if wid ∈ b.arrived then some t
    else some { t with bars := t.bars.map fun x => if x.num = n then { x with arrived := x.arrived ++ [wid] } else x }

/-- A warp checked for arrival; a count that differs raises ILLEGAL at `unit`, a waiting place of the warp. -/
def State.checkArrival (s : State) (w : Warp) (unit : Option (Nat × Nat)) : State :=
  match w.atBarrier, s.task? w.task with
  | some (n, c), some t =>
    match t.arrive w.id n c with
    | some t => (s.setTask t).checkBars t.id
    | none =>
      let place := match unit with
        | some x => (w.split? x.1).map fun sp => (sp, x.2)
        | none => (w.waiting fun x => x == .barrier n c).head?
      match place with
      | some (sp, i) => s.trapWaiting w sp i (barLen c) fun m => mkTrap codeIllegal 2 m 0
      | none => s
  | _, _ => s

/-! ### FUSEW (R271, R273, R297) -/

/-- The id of a warp at its width (R271). -/
def Warp.wid (w : Warp) : Nat := w.first / w.width

/-- The neighbour of a warp (R271). -/
def State.neighbour (s : State) (w : Warp) : Option Warp :=
  s.warps.find? fun x => x.task == w.task && x.role == w.role && x.width == w.width && x.id != w.id && x.wid == (w.wid ^^^ 1)

/-- The lanes of a width. -/
def widthLanes : Width → Nat
  | .w16 => 16 | .w32 => 32 | .w64 => 64 | .w128 => 128

/-- A wait at a FUSEW: its target, register and the cycle of arrival. -/
def Wait.fusing : Wait → Option (Width × Reg × Nat)
  | .fuse w d t => some (w, d, t)
  | _ => none

/-- The FUSEW a warp waits at: its address, target and register. -/
def Warp.fusing (w : Warp) : Option (W64 × Width × Reg × Nat) :=
  w.paths.findSome? fun p => p.wait.fusing.map fun x => (p.pc, x)

/-- A waiting partner fails with a code and continues (R273, R295). -/
def Warp.failFuse (w : Warp) (code : Nat) : Warp :=
  match w.fusing with
  | some (_, _, d, _) => (w.setS d (natWord code)).release (fun x => x.fusing.isSome) 8
  | none => w

/-- Whether a warp has waited 1,024 cycles at a FUSEW (R273): its wait is over, whenever that is noticed. -/
def State.fuseOver (s : State) (w : Warp) : Bool :=
  match w.fusing with
  | some (_, _, _, since) => decide (since + 1024 ≤ s.cycles)
  | none => false

/-- Waiting warps of a task without a neighbour fail with code 1 (R273). -/
def State.checkFuses (s : State) (tid : Nat) : State :=
  { s with warps := s.warps.map fun w =>
      if w.task = tid ∧ w.fusing.isSome = true ∧ (s.neighbour w).isNone = true then w.failFuse (if s.fuseOver w then 3 else 1) else w }

/-- The warp-registers of a warp of n registers and width w (R254). -/
def warpRegs (n w : Nat) : Nat := (n * w + 63) / 64

/-- The slots of a core (R28). -/
def coreSlots : Nat := 32

/-! ### Warp-registers (R28, R260, R268) -/

/-- The generation of a warp-register of a core. -/
def State.rowGen (s : State) (core r : Nat) : BitVec 4 := Table.get 0 s.regGen (core * coreRegs + r)

/-- The writes to registers in flight. -/
def State.inFlight (s : State) : List (Nat × BitVec 4) :=
  (s.loads.flatMap fun p => p.dests.map fun d => (d.row, d.gen)) ++ s.atoms.flatMap fun p => p.items.map fun d => (d.row, d.gen)

/-- The warp-registers of a core that are not granted to a warp, as a number whose bit r stands for r. -/
def State.rowsTaken (s : State) (core : Nat) : Nat :=
  (s.warps.filter fun w => match s.task? w.task with | some t => t.core == core | none => false).foldl
    (fun m w => w.rows.foldl (fun m r => m ||| (1 <<< r)) m) 0

/-- Whether a writeback is in flight that carries the generation a warp-register would reach: it is not granted (R268). -/
def State.rowHeld (s : State) (core r : Nat) : Bool :=
  s.inFlight.any fun x => x.1 == core * coreRegs + r && x.2 == s.rowGen core r + 1

/-- The warp-registers of a core that may be granted, ascending. -/
def State.freeRows (s : State) (core : Nat) : List Nat :=
  let taken := s.rowsTaken core
  (List.range coreRegs).filter fun r => !taken.testBit r && !s.rowHeld core r

/-- The lowest place of n warp-registers side by side among ascending ones; `run` counts those that end the part already
seen. -/
def runStart (n : Nat) : List Nat → Nat → Nat → Option Nat
  | [], _, _ => none
  | r :: rs, last, run =>
    let k := if r = last + 1 then run + 1 else 1
    if n ≤ k then some (r + 1 - n) else runStart n rs r k

/-- The n warp-registers that a warp receives: the lowest that lie side by side, and else the lowest (log entry 103). -/
def pickRows (free : List Nat) (n : Nat) : List Nat :=
  if n = 0 then []
  else match runStart n free coreRegs 0 with
    | some a => (List.range n).map fun i => a + i
    | none => free.take n

/-- Warp-registers granted: their generations advance (R268), and what an ended warp has left in them is gone. -/
def State.grantRows (s : State) (core n : Nat) : List Nat × State :=
  let rows := pickRows (s.freeRows core) n
  (rows, { s with
    leftWarps := s.leftWarps.filter fun x => !(x.core == core && x.warp.rows.any fun r => rows.contains r)
    regGen := rows.foldl (fun t r =>
    Table.put 0 t (core * coreRegs + r) (Table.get 0 t (core * coreRegs + r) + 1)) s.regGen })

/-- The writes in flight of a warp carry the warp-registers that it has now (R273). -/
def State.retag (s : State) (w : Warp) : State :=
  match s.task? w.task with
  | none => s
  | some t =>
    let tag := fun (lane reg : Nat) => s.regTag t.core w lane reg
    { s with
      loads := s.loads.map fun p => { p with dests := p.dests.map fun d =>
        if d.warp = w.id then { d with row := (tag d.lane d.reg).1, gen := (tag d.lane d.reg).2 } else d }
      atoms := s.atoms.map fun p => { p with items := p.items.map fun d =>
        if d.warp = w.id then { d with row := (tag d.lane d.reg).1, gen := (tag d.lane d.reg).2 } else d } }

/-- The slots in use on a core. -/
def State.usedSlots (s : State) (core : Nat) : List Nat :=
  (s.warps.filter fun w => match s.task? w.task with | some t => t.core == core | none => false).map fun w => w.slot
/-- The free slots of a core, ascending. -/
def State.freeSlots (s : State) (core : Nat) : List Nat :=
  let used := s.usedSlots core
  (List.range coreSlots).filter fun i => !used.contains i

/-- Whether two partners' storage is adjacent (R260). -/
def adjacent (lo hi : Warp) : Bool := lo.store == hi.store && lo.pos + lo.width == hi.pos

/-- A table keyed by lane blocks moved up by some lanes. -/
def shiftUp {α : Type} (size lanes : Nat) (t : Table α) : Table α := t.map fun e => (e.1 + size * lanes, e.2)
/-- The part of a table of lanes a to b − 1, moved down to lane 0. -/
def sliceOf {α : Type} (size a b : Nat) (t : Table α) : Table α :=
  (t.filter fun e => decide (size * a ≤ e.1) && decide (e.1 < size * b)).map fun e => (e.1 - size * a, e.2)

/-- A lane mask moved up. -/
def maskUp (m : LaneMask) (n : Nat) : LaneMask := m <<< n
/-- Lanes a to a + n − 1 of a mask, moved down. -/
def maskSlice (m : LaneMask) (a n : Nat) : LaneMask := (m >>> a) &&& lowMask n

/-- The warp a FUSEW forms (R273), its unit waiting at the FUSEW of the lower partner. -/
def fusedWarp (lo hi : Warp) (store : Option Nat) : Warp :=
  let w := lo.width
  let live := lo.live ||| maskUp hi.live w
  let paths := lo.paths.map fun p => { p with mask := p.mask ||| maskUp (masksOf hi.paths) w }
  let acc := mergeAcc (lo.splits.flatMap fun sp => sp.acc) (hi.splits.flatMap fun sp => sp.acc)
  { lo with
    width := 2 * w
    v := lo.v ++ shiftUp 256 w hi.v
    p := lo.p ++ shiftUp 8 w hi.p
    nest := lo.nest ++ shiftUp 1 w hi.nest
    recs := lo.recs ++ shiftUp 1 w hi.recs
    live := live
    gang := 0
    splits := (lo.splits.take 1).map fun sp => { sp with paths := paths, acc := acc, skipped := 0 }
    interval := none
    perf := (List.range 8).map fun i => lo.perf.getD i 0 + hi.perf.getD i 0
    store := store.getD lo.store
    pos := if store.isSome then 0 else lo.pos }

/-- Accesses in flight follow the lanes of a warp to other warps and lanes (R193, R272, R273). -/
def State.moveLanes (s : State) (from_ : Nat) (f : Nat → Nat × Nat) : State :=
  { s with
    loads := s.loads.map fun p => { p with dests := p.dests.map fun d =>
      if d.warp = from_ then { d with warp := (f d.lane).1, lane := (f d.lane).2 } else d }
    atoms := s.atoms.map fun p => { p with items := p.items.map fun d =>
      if d.warp = from_ then { d with warp := (f d.lane).1, lane := (f d.lane).2 } else d } }

/-- Two partners fused (R273); `moved` when their storage is not adjacent. -/
def State.fuse (s : State) (lo hi : Warp) (moved : Bool) : State :=
  let f : Option Nat × State := if moved then (some s.fresh.1, s.fresh.2) else (none, s)
  let core := ((s.task? lo.task).map fun t => t.core).getD 0
  let g : List Nat × State := if moved then f.2.grantRows core (warpRegs lo.nregs (2 * lo.width)) else (distinct (lo.rows ++ hi.rows), f.2)
  let w : Warp := { fusedWarp lo hi f.1 with rows := g.1, off := if moved then 0 else lo.off }
  let w := match w.fusing with
    | some (_, _, d, _) => (w.setS d (natWord 0)).release (fun x => x.fusing.isSome) 8
    | none => w
  let s := ((g.2.moveLanes hi.id fun l => (lo.id, l + lo.width)).setWarp w).retag w
  let s : State := { s with
    warps := s.warps.filter fun x => x.id != hi.id
    tiles := s.tiles.map fun x => if x.warp = hi.id then { x with warp := lo.id } else x
    stores := s.stores.map fun x => if x.warp = hi.id then { x with warp := lo.id } else x }
  let one := fun (i : Nat) => if i = hi.id then lo.id else i
  s.onTask lo.task fun t => { t with
    owners := distinct (t.owners.map fun x => (x.1, one x.2))
    olds := (t.olds.map fun x => { x with warp := one x.warp, by_ := one x.by_ }).filter fun x => x.warp != x.by_
    bars := t.bars.map fun b => { b with arrived := b.arrived.filter fun x => x != hi.id } }

/-! ### LEGACY.leave and SYNCW -/

/-- What keeps a half from leaving legacy-width mode (R298). -/
def Warp.halfBad (w : Warp) (upper : Bool) : Bool :=
  let sps := w.splits.filter fun sp => sp.upper == upper
  let ps := sps.flatMap fun sp => sp.paths
  let lanes := masksOf (ps.map fun p => { p with mask := p.span })
  decide (1 < ps.length) || ((lanesOf lanes).any fun l => decide (0 < w.depth l) || (w.tx? l).isSome) || (ps.any fun p => p.ser.isSome)

/-- The lanes of a half of a 64-lane warp. -/
def halfMask (upper : Bool) : LaneMask := if upper then lowMask 32 <<< 32 else lowMask 32

/-- The halves of a warp become one split after the LEGACY.leave at which they wait (R274, R298). -/
def Warp.leaveLegacy (w : Warp) : Warp :=
  let sps := mergeUnits w.splits 8
  let w : Warp := { w with legacy := false, splits := sps.map fun sp => { sp with upper := false }, interval := none }
  w.endRegions

/-- A warp in legacy-width mode checked for leaving (R298): when each half waits at a LEGACY.leave or has exited. -/
def State.checkLeave (s : State) (w : Warp) : State :=
  if !w.legacy || w.splits.isEmpty || !(w.splits.all fun sp => sp.paths.all fun p => p.wait == .leave) then s
  else
    let bad := w.splits.filter fun (sp : Split) => w.halfBad sp.upper
    let pcs := distinct (w.paths.map fun p => p.pc)
    let raiseAll := fun (sps : List Split) => sps.foldl (fun s sp =>
      match s.warp? w.id with
      | some w => match w.split? sp.num with
        | some sp => s.trapWaiting w sp 0 8 fun m => mkTrap codeWidthFault 0 m 0
        | none => s
      | none => s) s
    if bad ≠ [] then raiseAll bad
    else if 1 < pcs.length then raiseAll w.splits
    else s.setWarp w.leaveLegacy

/-- SYNCW of level 1 (R61): when every split of the warp waits at it, they merge and continue at the next unit. -/
def Warp.trySync (w : Warp) (upper : Bool) : Warp :=
  let sps := w.half upper
  if !sps.isEmpty && (sps.all fun sp => sp.paths.all fun p => p.wait == .syncw) then
    let others := w.splits.filter fun sp => !(sps.any fun x => x.num == sp.num)
    ({ w with splits := sortSplits (others ++ mergeUnits sps 4) }).endRegions
  else w

/-! ### Rechecks -/

/-- A warp's splits after a change: gates that open, JOINs and SYNCWs that every split of a half has reached. -/
def Warp.recheck (w : Warp) : Warp :=
  let w := w.openGates
  let join := fun (w : Warp) (upper : Bool) => if (w.half upper).isEmpty then w else (w.tryJoin upper).trySync upper
  if w.legacy then join (join w false) true else join w false

/-- A warp changed: what waits in it, in its gang, beside it or at its barriers is checked again. -/
def State.recheck (s : State) (wid : Nat) : State :=
  match s.warp? wid with
  | none => s
  | some w =>
    let s := s.setWarp w.recheck
    let s := match s.warp? wid with | some w => s.checkArrival w none | none => s
    match s.warp? wid with
    | some w => s.checkLeave w
    | none => s

/-- A task whose warps have changed. -/
def State.recheckTask (s : State) (tid : Nat) : State := ((s.checkFuses tid).dissolve tid).checkBars tid

/-! ### The end of lanes and warps (R268, R292) -/

/-- Lanes end: transactions, return records and counters dropped, their sub-paths left (R292). -/
def Warp.endLanes (w : Warp) (m : LaneMask) : Warp :=
  let ls := lanesOf m
  let live := w.live &&& ~~~m
  { w with
    live := live
    txs := w.txs.filter fun x => !ls.contains x.lane
    recs := ls.foldl (fun t l => Table.put [] t l []) w.recs
    nest := ls.foldl (fun t l => Table.put 0 t l 0) w.nest
    splits := w.splits.map fun sp =>
      { sp with paths := (sp.paths.map fun p =>
          if p.ser.isSome && (p.mask &&& m) != 0 then p.endTurn live none else p.without m).filter fun p =>
            decide (p.mask ≠ 0) || (match p.wait with | .gate _ => true | _ => false) } }

/-- A warp whose lanes have all exited ends (R268); what it has left in its registers stays until they are granted anew. -/
def State.endWarp (s : State) (w : Warp) : State :=
  let left := match s.task? w.task with | some t => [⟨t.core, t.ctx, w⟩] | none => []
  let s : State := { s with warps := s.warps.filter fun x => x.id != w.id, leftWarps := s.leftWarps ++ left }
  s.onTask w.task fun t =>
    { t with bars := t.bars.map fun b => { b with arrived := b.arrived.filter fun x => x != w.id } }

/-- Lanes of a warp end (R268, R292). -/
def State.exitLanes (s : State) (w : Warp) (m : LaneMask) : State :=
  let w := ((w.endLanes m).dropEmpty).endRegions
  if w.live = 0 then (s.endWarp w).recheckTask w.task
  else ((s.setWarp w).recheck w.id).recheckTask w.task

end Sys2Proof.Machine
end

