-- ==== Sys2Proof/Machine/Save.lean ====
section
/-!
DEFINITION. When a task can be saved, and its move into its context's save area (spec 09, R291; spec 10, R337; spec 11, R361).
-/
namespace Sys2Proof.Machine

/-- Whether a warp's accesses are drained but for commands that have not started. -/
def Warp.drained (w : Warp) (queued : List Nat) : Bool := w.splits.all fun sp => sp.acc.all fun a => queued.contains a.id

/-- The accesses of a task's commands that have not started. -/
def Task.queuedAcc (t : Task) : List Nat := t.eng.flatMap fun e => (e.2.cmds.filter fun c => !c.started && !c.done).map fun c => c.acc

/-- Whether a task can be saved (R291, R361): its warps held or ended and drained, no tile operation, no started command;
with `soft`, at its task boundary: no command left at all. -/
def State.saveable (s : State) (soft : Bool) (t : Task) : Bool :=
  let ws := s.warps.filter fun w => w.task == t.id
  (ws.all fun w => w.held && w.owed.isEmpty && w.drained (if soft then [] else t.queuedAcc)) &&
  !(s.tiles.any fun x => x.task == t.id) && !(s.stores.any fun x => x.task == t.id) && !(s.atoms.any fun x => x.task == t.id) &&
  (t.eng.all fun e => e.2.cmds.all fun c =>
    c.done || c.isNote || (!soft && !c.started))

/-- A lane's open transactions aborted with FAULT and cause 0, at the boundary that comes next (R201). -/
def Warp.abortAll (w : Warp) : Warp := (w.txs.map fun x => x.lane).foldl (fun w l => w.doomTx l (abortWord 5 0 0 0)) w

/-- A warp as it is saved: open transactions aborted (R201), a unit that waits at a latch or at a barrier, or one that `again` names, at
the boundary before it, to be executed anew (R152, R290, R361, R362). -/
def Warp.atBoundary (again : Wait → Bool) (w : Warp) : Warp :=
  let wait := fun (p : Path) => match p.wait with
    | .latch _ _ _ | .barrier _ _ => { p with wait := .run }
    | x => if again x then { p with wait := .run } else p
  let w := w.abortAll
  { w with splits := w.splits.map fun sp => { sp with paths := sp.paths.map wait }, held := false, passed := 0 }

/-- A warp as an area keeps it: with its counters zero, and its units that wait on stage 2 to be executed anew. -/
def Warp.saved (w : Warp) : Warp :=
  let w := w.atBoundary fun x => match x with | .stage2 _ => true | _ => false
  { w with splits := w.splits.map fun sp => { sp with acc := [] } }

/-- A warp that Castling moves: its waits on stage 2, and the accesses of its queued commands, stay. -/
def Warp.movedOut (w : Warp) : Warp := w.atBoundary fun _ => false

/-- The REFs on which the units of some warps wait for stage 2. -/
def stage2Refs (ws : List Warp) : List Nat :=
  ws.flatMap fun w => w.paths.filterMap fun p => match p.wait with | .stage2 r => some r | _ => none

/-! ### Addresses in an area (R361, R362, R369)

An area names memory by guest-physical address: where the pages lie that a queued command has translated, and the marked lines of a
speculative task, is found anew when the task comes back. -/

/-- A task as it is saved: no barrier instance, the pages of queued commands by their guest-physical addresses alone, and so the
speculative stores. -/
def State.taskOut (s : State) (t : Task) : Task :=
  let out := fun (it : StoreItem) =>
    match t.specPages.find? fun g => s.guestKey t.ctx (g * 65536) == some (it.key / 65536 * 65536) with
    | some g => { it with key := g * 65536 + it.key % 65536 }
    | none => it
  { t with
    bars := []
    eng := t.eng.map fun e => (e.1, { e.2 with cmds := e.2.cmds.map fun c => { c with trs := c.trs.map fun x => (x.1, { x.2 with base := 0 }) } })
    specStores := t.specStores.map out
    ways := [] }

/-- The speculative stores of a saved task where its context's memory lies now. DESIGN CHOICE (log entry 121): one whose page no longer
translates is lost. -/
def State.specIn (s : State) (t : Task) : List StoreItem :=
  t.specStores.filterMap fun it => (s.guestKey t.ctx it.key).map fun k => { it with key := k }

/-- A page of a queued command where its context's memory lies now, with the rights that stage 2 gives now; none where it no longer
translates. -/
def State.transIn (s : State) (v : Nat) (x : Nat × Trans) : Option (Nat × Trans) :=
  match s.stage2 v x.2.gpa with
  | .ok (e, pa) => some (x.1, { x.2 with
      base := pteKey (s.ctx v).part e pa, kind := pteKind e, tagged := e.user && decide (e.kind ≠ 2), s2rd := e.rd, s2wr := e.wr, s2ex := e.ex })
  | .error _ => none

/-- A saved task as it comes back: its lines marked again, the pages of its commands where they lie now. -/
def State.taskIn (s : State) (t : Task) : Task :=
  let its := s.specIn t
  { t with
    specStores := its
    ways := s.fillWays { t with ways := [] } its
    eng := t.eng.map fun e => (e.1, { e.2 with cmds := e.2.cmds.map fun c => { c with trs := c.trs.filterMap (s.transIn t.ctx) } }) }

/-- Some tasks of a context moved into its save area. -/
def State.saveTasks (s : State) (v : Nat) (ts : List Task) : State :=
  if ts = [] then s
  else
    let ids := ts.map fun t => t.id
    let ws := s.warps.filter fun w => ids.contains w.task
    let refs := stage2Refs ws
    let s := ts.foldl (fun s t => s.fenceL1 t.core true false 7) s
    let c := s.ctx v
    let gens := ts.flatMap fun t => t.slots.map fun x => (t.id, x.index, Table.get 0 s.accGen (t.core * 16 + x.index))
    let c : Ctx := { c with
      waiters := c.waiters.filter fun x => !refs.contains x.1
      save := { c.save with tasks := c.save.tasks ++ ts.map s.taskOut, warps := c.save.warps ++ ws.map Warp.saved, gens := c.save.gens ++ gens } }
    { (s.setCtx v c) with
      tasks := s.tasks.filter fun t => !ids.contains t.id
      warps := s.warps.filter fun w => !ids.contains w.task }

/-- The tasks of a context. -/
def State.ctxTasks (s : State) (v : Nat) : List Task := s.tasks.filter fun t => t.ctx == v

/-- The soft step (R291, R337): the tasks at their boundaries are saved, a cohort whole. -/
def State.softSave (s : State) (v : Nat) : State :=
  let ts := s.ctxTasks v
  s.saveTasks v (ts.filter fun t => ts.all fun x => !t.mate x || s.saveable true x)

end Sys2Proof.Machine
end

