-- ==== Sys2Proof/Machine/Control.lean ====
section
/-!
DEFINITION. Control transfers, JOIN, serialised regions, barriers, YIELD, EXIT, INTERVAL, TRAP (spec 09, R281 to R293,
R304) and RETL (spec 04, R114).
-/
namespace Sys2Proof.Machine

/-! ### Transfers (R281) -/

/-- Some lanes of a transfer go to their targets and the other active lanes fall through: the checks from ALIGN on, the
divergence of R264, the hand-over of R266; `w` is the warp with what else the transfer writes. -/
def State.transfer (s : State) (u : U) (w : Warp) (taken : List (Nat × W64)) (stay : Option W64) : State :=
  let off := taken.filter fun x => x.2.toNat % 4 != 0
  let far := taken.filter fun x => x.2.toNat / 2 ^ 57 != 0
  match off, far with
  | (_, t) :: _, _ => s.raise u ⟨codeAlign, 0, false, false, true, 0, maskOf (off.map fun x => x.1), t⟩
  | [], (_, t) :: _ => s.raise u ⟨codeMemFault, 2, false, false, true, 0, maskOf (far.map fun x => x.1), t⟩
  | [], [] =>
    let targets := u.active.map fun l => match taken.find? fun x => x.1 == l with | some x => x | none => (l, u.c.next)
    let w : Warp := if taken = [] then w else { w with interval := none }
    match u.goTo w targets stay with
    | .error m => s.raise u (mkTrap codeNestOverflow 0 m 0)
    | .ok w2 =>
      let back := taken.any fun x => decide (x.2.toNat ≤ u.c.start.toNat)
      let same := (w2.split? u.c.split).map (fun sp => sp.paths.length) == some u.sp.paths.length
      s.setWarp (if back && same then w2.handOver u.c.split else w2)

/-- The target of a layout L.J transfer (R38, R282). -/
def U.jump (u : U) (off : W32) : W64 := u.c.start + (off.signExtend 64 <<< 2)

/-- BRA (R282): the falling-through part keeps the split. -/
def execBra (g : Guard) (off : W32) (s : State) : Host.Outcome State Fault Refusal :=
  s.onUnit fun u => s.transfer u u.w ((u.acting g).map fun l => (l, u.jump off)) (some u.c.next)

/-- BRU (R283): WIDTH_FAULT where the guard is not uniform. -/
def execBru (g : Guard) (off : W32) (s : State) : Host.Outcome State Fault Refusal :=
  s.onUnit fun u =>
    let first := (u.active.head?.map fun l => u.w.guardAt g l).getD false
    let other := u.active.filter fun l => u.w.guardAt g l != first
    if other ≠ [] then s.raise u (mkTrap codeWidthFault 0 (maskOf other) 0)
    else s.transfer u u.w ((u.acting g).map fun l => (l, u.jump off)) none

/-- The targets of BRX and CALLX, after POISON_READ of vA (R281, R284). -/
def State.indexed (s : State) (u : U) (g : Guard) (a : Reg) (k : List (Nat × W64) → State) : State :=
  s.named u [a] <|
    let acting := u.acting g
    let bad := acting.filter fun l => (u.w.getV l a).tag == .poison
    if bad ≠ [] then s.raise u (mkTrap codePoisonRead 0 (maskOf bad) (a.setWidth 64))
    else k (acting.map fun l => (l, (u.w.getV l a).pay))

/-- BRX (R284). -/
def execBrx (g : Guard) (a : Reg) (s : State) : Host.Outcome State Fault Refusal :=
  s.onUnit fun u => s.indexed u g a fun ts => s.transfer u u.w ts none

/-- The warp with the return address of a call in sD, when some lane transfers (R285). -/
def U.link (u : U) (g : Guard) (d : Reg) : Warp := if u.acting g = [] then u.w else u.w.setS d (intBits (u.c.start + 8))

/-- CALL (R285). -/
def execCall (g : Guard) (d : Reg) (off : W32) (s : State) : Host.Outcome State Fault Refusal :=
  s.onUnit fun u => s.transfer u (u.link g d) ((u.acting g).map fun l => (l, u.jump off)) (some u.c.next)

/-- CALLX (R285). -/
def execCallx (g : Guard) (d a : Reg) (s : State) : Host.Outcome State Fault Refusal :=
  s.onUnit fun u => s.indexed u g a fun ts => s.transfer u (u.link g d) ts none

/-- RET (R286). -/
def execRet (a : Reg) (s : State) : Host.Outcome State Fault Refusal :=
  s.onUnit fun u => s.once u .always [a] (s.transfer u u.w (u.active.map fun l => (l, (u.w.getS a).pay)) none)

/-! ### JOIN (R267, R287) -/

/-- JOIN (R287): the unit parks and hands over; it passes inside an open record or a lane handler. -/
def execJoin (s : State) : Host.Outcome State Fault Refusal :=
  s.onUnit fun u =>
    if u.pa.ser.isSome || u.active.any fun l => decide (0 < u.w.depth l) then u.skip s
    else
      let w := (u.w.setHead u.c.split { u.pa with pc := u.c.start, wait := .join }).handOver u.c.split
      (s.setWarp { w.endTurn u.sp.upper with interval := none }).recheck u.w.id

/-! ### Serialised regions (R288, R289) -/

/-- SERB (R288). -/
def execSerb (s : State) : Host.Outcome State Fault Refusal :=
  s.onUnit fun u =>
    match u.pa.ser with
    | none =>
      let r : SerRec := ⟨u.pa.mask, 0, 1, u.c.next, 0⟩
      s.setWarp (u.w.setHead u.c.split { u.pa with pc := u.c.next, mask := laneBit (lowestLane u.pa.mask), ser := some r })
    | some r =>
      if 15 ≤ r.depth then s.illegal u
      else s.setWarp (u.w.setHead u.c.split { u.pa with pc := u.c.next, ser := some { r with depth := r.depth + 1 } })

/-- SERE (R288). -/
def execSere (s : State) : Host.Outcome State Fault Refusal :=
  s.onUnit fun u =>
    match u.pa.ser with
    | none => s.illegal u
    | some r =>
      if 1 < r.depth then s.setWarp (u.w.setHead u.c.split { u.pa with pc := u.c.next, ser := some { r with depth := r.depth - 1 } })
      else s.setWarp ((u.w.setHead u.c.split (u.pa.endTurn u.w.live (some u.c.next))).endRegions)

/-! ### Barriers (R290) -/

/-- The classes that an arriving split waits for: LD, ST and AT (R187). -/
def barClasses : BitVec 4 := 7

/-- A unit comes to wait at a barrier (R290, R187). -/
def State.barrier (s : State) (u : U) (n : Nat) (c : Option Nat) : State :=
  if 15 < n ∨ u.pa.ser.isSome = true then s.illegal u
  else if !u.fenceOpen s barClasses then u.hold s
  else
    let w := u.w.setHead u.c.split { u.pa with pc := u.c.start, wait := .barrier n c }
    let w := w.handOver u.c.split
    let place := (w.split? u.c.split).bind fun sp => (sp.paths.findIdx? fun p => p.mask == u.pa.mask).map fun i => (u.c.split, i)
    ((s.fenceCore u.t.core barClasses 15 1).setWarp w).checkArrival w place

/-- BAR (R290). -/
def execBar (n : Byte) (s : State) : Host.Outcome State Fault Refusal := s.onUnit fun u => s.barrier u n.toNat none

/-- BARC (R290): a count outside 1 to 32 raises ILLEGAL. -/
def execBarc (g : Guard) (n : Byte) (a : Reg) (s : State) : Host.Outcome State Fault Refusal :=
  s.onUnit fun u => s.once u g [a] <|
    let c := (u.w.getS a).pay.toNat
    if c = 0 ∨ 32 < c then s.illegal u else s.barrier u n.toNat (some c)

/-! ### YIELD, EXIT, INTERVAL, TRAP -/

/-- Whether a soft pre-emption request is pending for a context (R337). -/
def Ctx.softPending (c : Ctx) : Bool := match c.ladder with | some (_, 0) => true | _ => false

/-- YIELD (R291): the split's turn ends; under a soft request the warp is held, and tasks at their boundaries are saved. -/
def execYield (s : State) : Host.Outcome State Fault Refusal :=
  s.onUnit fun u =>
    let soft := (s.ctx u.t.ctx).softPending
    let w : Warp := { (u.at u.w u.c.next).endTurn u.sp.upper with held := u.w.held || soft }
    let s := s.setWarp (w.handOver u.c.split)
    if soft then s.softSave u.t.ctx else s

/-- EXIT (R292). -/
def execExit (s : State) : Host.Outcome State Fault Refusal :=
  s.onUnit fun u => s.exitLanes (u.w.setHead u.c.split { u.pa with pc := u.c.start }) u.pa.mask

/-- The registers of a working set (R293). -/
def workingSet (d : Reg) (m : W32) : List Nat := ((List.range 32).filter fun i => m.getLsbD i).map fun i => d.toNat + i

/-- INTERVAL (R293): a new working set, not yet staged (R269). -/
def execInterval (g : Guard) (d : Reg) (m : W32) (s : State) : Host.Outcome State Fault Refusal :=
  s.onUnit fun u => s.named u ((workingSet d m).map fun i => BitVec.ofNat 8 i) <|
    if u.acting g = [] then u.skip s
    else u.done s { u.w with interval := some (d, m), staged := false }

/-- TRAP (R304): ILLEGAL KIND 1 in the lanes whose guard is true, the code in %tval (R343). -/
def execTrap (g : Guard) (code : W32) (s : State) : Host.Outcome State Fault Refusal :=
  s.onUnit fun u =>
    if u.acting g = [] then u.skip s
    else s.raise u (mkTrap codeIllegal 1 (maskOf (u.acting g)) (code.setWidth 64))

/-! ### RETL (R114) -/

/-- What one lane of RETL does: its record, and for NURSERY_FULL the reissued allocation. -/
structure RetLane where
  rec_ : RetRec
  value : Word
  alloc : Option LaneMem
  deriving DecidableEq, Repr

/-- The lowest lane of RETL whose record asks for an ALLOCW again: its allocation serves every such lane (R61). -/
def U.sharer (u : U) : Option Nat :=
  let mine := u.active.filter fun l => match Table.get [] u.w.recs l with | r :: _ => r.cause == .nurseryFull && r.shared | [] => false
  match mine.find? fun l => (u.w.openTx l).isNone with
  | some l => some l
  | none => mine.head?

/-- The lanes of RETL whose record asks for an allocation again, with the words of the first issue. -/
def U.reissues (u : U) : List (Nat × Word × Word) :=
  u.active.filterMap fun l => match Table.get [] u.w.recs l with
    | r :: _ => if r.cause = .nurseryFull ∧ (u.w.openTx l).isNone = true ∧ (r.shared = false ∨ u.sharer = some l) then some (l, r.a, r.b) else none
    | [] => none

/-- One lane of RETL. -/
def U.retLane (u : U) (s : State) (plan : List Block) (a : Reg) (l : Nat) : LaneRes RetLane :=
  match Table.get [] u.w.recs l with
  | [] => .error (.fault ⟨3, codeIllegal, 2, 0, false, 0⟩)
  | r :: _ =>
    let x := u.w.getV l a
    if r.cause = .nurseryFull then
      let l0 := if r.shared then u.sharer.getD l else l
      let r0 := if r.shared then ((Table.get [] u.w.recs l0).head?).getD r else r
      match u.allocLane s plan l0 r0.a r0.b with
      | .ok m => .ok ⟨r, x, some (if l = l0 then m else { m with touches := [], items := [] })⟩
      | .error e => .error e
    else .ok ⟨r, x, none⟩

/-- What a return record's cause makes of the word RETL returns. -/
def Warp.returned (w : Warp) (l : Nat) (x : RetLane) : Warp :=
  match x.rec_.cause with
  | .nurseryFull | .tagCheck => w
  | .tagPair | .overflow | .divZero =>
    if x.rec_.dfile = 1 then w.setV l x.rec_.dreg x.value
    else if x.rec_.dfile = 2 then w.setP l x.rec_.dreg (x.value.pay.getLsbD 0)
    else w

/-- The most recent return records of some lanes popped; the lanes of serialised groups lower their counters (R113). -/
def Warp.popRecs (w : Warp) (ls : List Nat) : Warp :=
  ls.foldl (fun w l => match Table.get [] w.recs l with
    | r :: rs =>
      let w : Warp := { w with recs := Table.put [] w.recs l rs }
      if r.nested then w.nestDown (laneBit l) else w
    | [] => w) w

/-- The running sub-path of a split without some lanes; `wait` is a new waiting part behind it, if there is to be one. -/
def Split.leaveHead (sp : Split) (m : LaneMask) (wait : List Path) : Split :=
  match sp.paths with
  | p :: ps => { sp with paths := (if p.mask &&& ~~~m = 0 then [] else [p.without m]) ++ wait ++ ps }
  | [] => sp

/-- Lanes added to the waiting part of a gate where a split holds it, with the accesses of the split they leave. -/
def Split.joinGate (sp : Split) (gate : Nat) (m : LaneMask) (acc : List Access) : Split :=
  if sp.paths.any fun p => p.wait == .gate gate then
    let add := fun (p : Path) => if p.wait = .gate gate then { p with mask := p.mask ||| m } else p
    { sp with acc := mergeAcc sp.acc acc, paths := sp.paths.map add }
  else sp

/-- Lanes of the running sub-path of a split return to the waiting part of a gate (R114): they join it, or become it; a
serialisation record that is open on the sub-path goes with its last lane (R288, R289). DESIGN CHOICE (log entry 118): where that lane joins
a part that waits already, the record ends there, and the lanes it has not served go with it. -/
def Warp.returnTo (w : Warp) (num gate : Nat) (next : W64) (m : LaneMask) : Warp :=
  let acc : List Access := match w.split? num with | some sp => sp.acc | none => []
  let found := w.splits.any fun sp => sp.paths.any fun p => p.wait == .gate gate
  let ser : Option SerRec := match w.split? num with
    | some sp => (sp.paths.head?).bind fun p => if p.mask &&& ~~~m = 0 then p.ser else none
    | none => none
  let wait : List Path := if found then [] else [⟨next, m, .gate gate, ser⟩]
  let go := fun (sp : Split) =>
    let sp := if found then sp.joinGate gate m acc else sp
    if sp.num = num then sp.leaveHead m wait else sp
  { w with
    gates := w.gates.map fun g => if g.1 = gate then (g.1, g.2 &&& ~~~m) else g
    splits := w.splits.map go }

/-- Whether some lane of RETL traps again (R114); the others have returned, by gate and next unit. -/
def State.finishRet (s : State) (u : U) (next hint : Nat) (outs : List (Nat × LaneRes RetLane)) : State :=
  let oks := doneLanes outs
  let ts := trapLanes outs
  let recOf := fun l => (Table.get [] u.w.recs l).head?
  let popped := u.w.popRecs u.active
  let w := oks.foldl (fun w x => w.returned x.1 x.2) popped
  let allocs := oks.filterMap fun x => x.2.alloc.map fun m => (x.1, m)
  let r := if allocs = [] then (s, w) else
    u.finishAlloc s w next hint (fun l => match recOf l with | some r => r.dreg | none => 0) allocs
  let backs := oks.filterMap fun x => (recOf x.1).map fun r => (x.1, r.gate, r.next)
  let w2 := (distinct (backs.map fun x => x.2)).foldl (fun w k =>
    w.returnTo u.c.split k.1 k.2 (maskOf ((backs.filter fun x => x.2 == k).map fun x => x.1))) r.2
  match ts with
  | [] => r.1.setWarp (w2.dropEmpty.openGates.endTurn u.sp.upper)
  | (l, _) :: _ =>
    match recOf l, w2.split? u.c.split with
    | some rec_, some sp =>
      match sp.paths with
      | pa :: _ =>
        let u2 : U := { u with w := w2, sp := sp, pa := pa, c := { u.c with next := rec_.next } }
        let s2 := s.laneTraps u u2 (fun (_ : List (Nat × Unit)) => (r.1, w2)) []
          ⟨if rec_.shared then 0xE4 else 0x79, true, rec_.dreg, 1, 0, 0⟩ rec_.hint (some rec_.gate) ts
        match s2.warp? u.w.id with
        | some w => s2.setWarp (w.dropEmpty.openGates.endTurn u.sp.upper)
        | none => s2
      | [] => s
    | _, _ => s

/-- RETL (R114): POISON_READ of vA, ILLEGAL in lanes without a record, allocations reissued with their first hint. -/
def execRetl (a : Reg) (s : State) : Host.Outcome State Fault Refusal :=
  s.onUnit fun u => s.named u [a] <| s.paced u [3] <|
    let plan := allocPlan u.w.nlim.toNat u.w.nbase.toNat u.reissues
    let outs := u.active.map fun l =>
      (l, if (u.w.getV l a).tag = .poison then .error (.fault (poisonFault 0 a)) else u.retLane s plan.1 a l)
    let outs := s.poolCheck u (fun x => match x.alloc with | some m => m.touches | none => []) outs
    let hint := (u.active.findSome? fun l => (Table.get [] u.w.recs l).head?.map fun r => r.hint).getD 1
    match worstFault outs with
    | some t => s.raise u t
    | none =>
      match firstStage2 outs with
      | some (gpa, kind, va, m) => s.stage2Wait u gpa kind va m
      | none =>
        if u.specRoom s ((doneLanes outs).flatMap fun x => match x.2.alloc with | some m => m.items | none => []) then
          s.finishRet u plan.2 hint outs
        else u.hold s

end Sys2Proof.Machine
end

