-- ==== Sys2Proof/Machine/Launch.lean ====
section
/-!
DEFINITION. Kernel descriptors, launches and their refusals (spec 08, R252 to R256, R275 to R279), and SPAWN, LAUNCHP,
SHAPE and SPECQ (spec 09, R299 to R303).
-/
namespace Sys2Proof.Machine

/-! ### Descriptors (R252, R253) -/

/-- The sixteen 8-byte words of a descriptor, or the fault that reading it meets. -/
def descWords (rd : W64 → Except XFault W64) (a : W64) : Except XFault (List W64) :=
  (List.range 16).mapM fun i => rd (a + BitVec.ofNat 64 (8 * i))

/-- A role entry (R253). -/
def roleOf (x : W64) : RoleEntry := ⟨bits x 5 0, 16 * 2 ^ bits x 7 6, bits x 16 8, bitAt x 17, bits x 63 32⟩

/-- A descriptor's fields (R252). -/
def kdescOf (ws : List W64) : KDesc :=
  let w := fun i => ws.getD i 0
  { code := w 0
    htab := w 1
    level := bits (w 2) 7 0
    flags := (w 2).extractLsb' 16 8
    notifyTl := bits (w 2) 27 24
    scratch := bits (w 2) 63 32
    blockRegs := bits (w 3) 7 0
    accTiles := bits (w 3) 15 8
    cohort := bits (w 3) 38 32
    loader := bits (w 3) 43 40
    compute := bits (w 3) 47 44
    storer := bits (w 3) 51 48
    roles := ((List.range 4).map fun i => roleOf (w (4 + i))).take (bits (w 2) 15 8)
    gx := bits (w 8) 31 0
    gy := bits (w 8) 63 32
    gz := bits (w 9) 31 0
    arg := w 10
    rlog := w 11
    rlogCap := bits (w 12) 31 0 }

/-- LEGACY of a descriptor. -/
def KDesc.legacy (k : KDesc) : Bool := k.flags.getLsbD 0
/-- NOTIFY of a descriptor. -/
def KDesc.notify (k : KDesc) : Bool := k.flags.getLsbD 1
/-- Whether some role is a collector's. -/
def KDesc.collector (k : KDesc) : Bool := k.roles.any fun r => r.collector

/-- Whether a role entry breaks R253. -/
def roleBad (x : W64) : Bool :=
  bits x 5 0 == 0 || decide (32 < bits x 5 0) || bits x 16 8 == 0 || decide (256 < bits x 16 8) || bits x 31 18 != 0 || bits x 63 32 % 4 != 0

/-- A descriptor outside the limits of R252 and R253 (R255 code 2); the grid counts apart. -/
def descBad (ws : List W64) : Bool :=
  let w := fun i => ws.getD i 0
  let k := kdescOf ws
  let roles := bits (w 2) 15 8
  (w 0).toNat % 4 != 0 || bits (w 0) 63 57 != 0 || (w 1).toNat % 8 != 0 || bits (w 1) 63 57 != 0 ||
  k.level == 0 || roles == 0 || decide (4 < roles) || bits (w 2) 23 18 != 0 || bits (w 2) 31 28 != 0 ||
  k.scratch % 32 != 0 || decide (393216 < k.scratch) || decide (64 < k.blockRegs) || decide (16 < k.accTiles) ||
  bits (w 3) 31 16 != 0 || k.cohort == 1 || decide (64 < k.cohort) || bitAt (w 3) 39 || bits (w 3) 63 52 != 0 ||
  ((List.range 4).any fun i => if i < roles then roleBad (w (4 + i)) else w (4 + i) != 0) ||
  (k.legacy && k.roles.any fun r => r.width != 64) ||
  bits (w 9) 63 32 != 0 || k.rlog.toNat % 16 != 0 || bits (w 12) 63 32 != 0 ||
  w 13 != 0 || w 14 != 0 || w 15 != 0

/-! ### Footprints (R254) -/

/-- What a block of the cohort's rank is: 0 no cohort, 1 loader, 2 compute, 3 storer (R253, R257). -/
def KDesc.kindOf (k : KDesc) (rank : Nat) : Nat :=
  if k.cohort = 0 then 0
  else if rank = 0 ∧ k.loader ≠ 0 then 1
  else if rank + 1 = k.cohort ∧ k.storer ≠ 0 then 3
  else 2

/-- The roles a block of a kind runs, with their numbers (R253). -/
def KDesc.rolesOf (k : KDesc) (kind : Nat) : List (Nat × RoleEntry) :=
  let mask := match kind with
    | 1 => k.loader
    | 3 => k.storer
    | 2 => if k.compute = 0 then 15 else k.compute
    | _ => 15
  (k.roles.mapIdx fun i r => (i, r)).filter fun x => mask.testBit x.1

/-- What a block needs of a core: slots, warp-registers, scratchpad, block registers, accumulator slots. -/
structure Footprint where
  slots : Nat
  regs : Nat
  scratch : Nat
  bregs : Nat
  acc : Nat
  deriving DecidableEq, Repr

/-- The footprint of a block (R254). -/
def KDesc.footprint (k : KDesc) (kind : Nat) : Footprint :=
  let rs := (k.rolesOf kind).map fun x => x.2
  ⟨rs.foldl (fun n r => n + r.warps) 0, rs.foldl (fun n r => n + r.warps * warpRegs r.regs r.width) 0,
    (k.scratch + 1023) / 1024 * 1024, k.blockRegs, k.accTiles⟩

/-- What an empty core has (R18). -/
def emptyCore : Footprint := ⟨coreSlots, coreRegs, 393216, 256, 16⟩

/-- Whether a footprint fits what is free. -/
def Footprint.fits (f free : Footprint) : Bool :=
  decide (f.slots ≤ free.slots) && decide (f.regs ≤ free.regs) && decide (f.scratch ≤ free.scratch) &&
  decide (f.bregs ≤ free.bregs) && decide (f.acc ≤ free.acc)

/-- The cores of a partition on which tasks may be placed: during a Castling those that stay (R332, R335). -/
def Part.cores (p : Part) : List Nat :=
  (List.range 512).filter fun c => p.cports.getLsbD (c / 8) && (decide (p.state = 0) || p.scports.getLsbD (c / 8))

/-- Whether blocks of a descriptor fit an empty core, and cohorts a cluster, of a partition (R255 code 3). -/
def KDesc.fitsPart (k : KDesc) (cores : List Nat) : Bool :=
  let one := fun (kind : Nat) => (k.footprint kind).fits emptyCore
  if k.cohort = 0 then one 0 && decide (cores ≠ [])
  else
    ((List.range k.cohort).all fun r => one (k.kindOf r)) &&
    (List.range 8).any fun cl => decide (k.cohort ≤ (cores.filter fun c => c / 64 == cl).length)

/-! ### Acceptance (R255) -/

/-- The level of the device (R71, R370). -/
def deviceLevel : Nat := 3

/-- A launch as its source asks for it: the descriptor's address and words (none after a fault on reading them), whether
the source is privileged, the counts it uses in place of the descriptor's, and whether it is LAUNCHP or SPAWN. -/
structure Ask where
  desc : W64
  words : Option (List W64)
  privileged : Bool
  counts : Option (Nat × Nat × Nat)
  launchp : Bool
  spawn : Bool
  wide : Bool
  deriving DecidableEq, Repr

/-- The grid counts of a launch. -/
def Ask.grid (a : Ask) (k : KDesc) : Nat × Nat × Nat := a.counts.getD (k.gx, k.gy, k.gz)

/-- Whether a descriptor's grid counts break R252, for a source that reads them: SPAWN ignores all three, and LAUNCHP the first
(R275, R301); a queue entry's own counts stand beside the descriptor's (log entry 22). -/
def Ask.badGrid (a : Ask) (k : KDesc) : Bool :=
  let g := a.grid k
  !a.spawn && (k.gy == 0 || k.gz == 0 || g.2.1 == 0 || g.2.2 == 0 || (!a.launchp && (k.gx == 0 || g.1 == 0)))

/-- Why a launch is refused: the lowest code (R255); none when it is accepted. -/
def State.refusal (s : State) (ctx : Nat) (a : Ask) : Option Nat :=
  let ws := a.words.getD []
  let k := kdescOf ws
  let g := a.grid k
  let free := a.spawn || a.launchp
  let bad := a.words.isNone || decide (a.desc.toNat % 128 ≠ 0) || a.wide || descBad ws ||
    a.badGrid k ||
    (!free && k.cohort != 0 && (g.1 * g.2.1 * g.2.2) % k.cohort != 0)
  if a.words.isSome ∧ deviceLevel < k.level then some 1
  else if bad then some 2
  else if !k.fitsPart (s.part (s.ctx ctx).part).cores then some 3
  else if k.collector && !a.privileged then some 4
  else if free && k.cohort != 0 then some 5
  else if a.launchp && (k.gy != 1 || k.gz != 1) then some 5
  else none

/-- The next serial of a die's distributor: launches in even keys, tasks in odd ones. -/
def State.nextSerial (s : State) (die : Nat) (task : Bool) : Nat × State :=
  let k := 2 * die + (if task then 1 else 0)
  let n := Table.get 0 s.serials k
  (n, { s with serials := Table.put 0 s.serials k (n + 1) })

/-- A launch accepted: it enters its partition's age order (R258); `f` completes it. DESIGN CHOICE (log entry 120): every task of it is
made by the descriptor as it stood here, whatever is written there afterwards. -/
def State.accept (s : State) (ctx : Nat) (desc : W64) (kd : KDesc) (src : LaunchSrc) (arg : Word) (die depth pri : Nat)
    (f : Launch → Launch) : Nat × BitVec 32 × State :=
  let i := s.fresh
  let n := i.2.nextSerial die false
  let l : Launch := f ⟨i.1, BitVec.ofNat 32 n.1, ctx, desc, kd, src, arg, 0, 1, 1, false, 0, 0, none, die, depth, pri, false, false⟩
  (i.1, l.serial, { n.2 with launches := n.2.launches ++ [l] })

/-! ### SPAWN (R275, R299) -/

/-- The die of a core (R16). -/
def dieOf (core : Nat) : Nat := core / 256

/-- What reading some words leaves behind: their pages held, with their tags, and their lines at their homes (R308, R333). -/
def State.deviceTouch (s : State) (v pl : Nat) (a : W64) (n : Nat) : State :=
  (List.range n).foldl (fun s i =>
    match s.translate v pl .read (a + BitVec.ofNat 64 (8 * i)) with
    | .ok (tr, _) => s.touch v (a + BitVec.ofNat 64 (8 * i)) tr
    | .error _ => s) s

/-- Reading a descriptor as the executing split: none after a fault, and the guest-physical address of a stage-2 fault. -/
def U.readDesc (u : U) (s : State) (a : W64) : Option (List W64) × Option Nat :=
  match descWords (u.read8 s u.sp.pl) a with
  | .ok ws => (some ws, none)
  | .error (.stage2 gpa) | .error (.tagPool gpa) => (none, some gpa)
  | .error _ => (none, none)

/-- The accesses of the split precede those of what it launches (R188): it waits for them, as a fence of all classes at
GRID does, and the core's L1 is written back. -/
def State.afterOwn (s : State) (u : U) (k : State → State) : State :=
  if u.fenceOpen s allClasses4 then k (s.fenceCore u.t.core allClasses4 allClasses4 4) else u.hold s
where
  /-- All four classes. -/
  allClasses4 : BitVec 4 := 15

/-- A child created (R275). -/
def State.spawnOne (s : State) (u : U) (a : W64) (ws : List W64) (arg : Word) : BitVec 32 × State :=
  let r := s.accept u.t.ctx a (kdescOf ws) .spawn arg (dieOf u.t.core) (u.t.depth + 1) u.t.pri fun l => l
  (r.2.1, r.2.2)

/-- The word SPAWN writes for a child. -/
def serialWord (n : BitVec 32) : Word := intBits (n.setWidth 64)

/-- SPAWN by the executing split (R275, R299); `k` gives the end of the unit. -/
def State.spawnBy (s : State) (u : U) (g : Guard) (uni : Bool) (d a b : Reg) : State :=
  let acting := u.acting g
  if acting = [] then u.skip s
  else if (u.w.getS a).tag = .poison then s.raise u (mkTrap codePoisonRead 0 u.pa.mask (a.setWidth 64))
  else
    let bad := acting.filter fun l => (u.w.getV l b).tag == .poison
    if bad ≠ [] then s.raise u (mkTrap codePoisonRead 0 (maskOf bad) (b.setWidth 64))
    else if u.speculative then u.hold s
    else
      let desc := u.pS a
      match u.readDesc s desc with
      | (_, some gpa) => s.stage2Wait u gpa 0 desc u.pa.mask
      | (ws, none) => s.afterOwn u fun s =>
        let s := s.deviceTouch u.t.ctx u.sp.pl desc 16
        let ok := decide (u.t.depth < 8) &&
          (s.refusal u.t.ctx ⟨desc, ws, decide (1 ≤ u.sp.pl), none, false, true, false⟩).isNone
        if !ok then u.done s (acting.foldl (fun w l => w.setV l d .nil) u.w)
        else if uni then
          let r := s.spawnOne u desc (ws.getD []) (u.w.getV (acting.headD 0) b)
          u.done r.2 (acting.foldl (fun w l => w.setV l d (serialWord r.1)) u.w)
        else
          let r := acting.foldl (fun (sw : State × Warp) l =>
            let r := sw.1.spawnOne u desc (ws.getD []) (u.w.getV l b)
            (r.2, sw.2.setV l d (serialWord r.1))) (s, u.w)
          u.done r.1 r.2

/-- SPAWN (R299). -/
def execSpawn (g : Guard) (uni : Bool) (d a b : Reg) (s : State) : Host.Outcome State Fault Refusal :=
  s.onUnit fun u => s.named u [d, b] (s.spawnBy u g uni d a b)

/-! ### The shape predictor (R276) -/

/-- The prediction of a die's predictor for a descriptor. -/
def State.predict (s : State) (die : Nat) (desc : W64) : Option Nat :=
  ((Table.get [] s.dev.shapes die).find? fun e => e.desc == desc).map fun e => e.counts.foldl Nat.max 0

/-- An entry used: it moves to the front. -/
def State.useShape (s : State) (die : Nat) (desc : W64) : State :=
  let es := Table.get [] s.dev.shapes die
  match es.find? fun e => e.desc == desc with
  | some e => { s with dev := { s.dev with shapes := Table.put [] s.dev.shapes die (e :: es.filter fun x => x.desc != desc) } }
  | none => s

/-- A true count recorded: the last four are kept, and the least recently used entry of a full predictor is replaced. -/
def State.recordShape (s : State) (die : Nat) (desc : W64) (t : Nat) : State :=
  let es := Table.get [] s.dev.shapes die
  let old := match es.find? fun e => e.desc == desc with | some e => e.counts | none => []
  let es := (⟨desc, (t :: old).take 4⟩ : ShapeEntry) :: (es.filter fun x => x.desc != desc).take 255
  { s with dev := { s.dev with shapes := Table.put [] s.dev.shapes die es } }

/-! ### LAUNCHP (R277, R300, R301) -/

/-- The handle of an accepted launch, and the word of a refused one (R300). -/
def handleOf (serial : BitVec 32) (die : Nat) : Word := natWord (serial.toNat + die * 2 ^ 32)
def refusedWord (code : Nat) : Word := natWord (2 ^ 63 + code)

/-- A numbered event of LAUNCHP on a context: it counts on no path. -/
def EngCtx.note (e : EngCtx) (op : EngOp) (id : Nat) : EngCtx :=
  { e with last := e.last + 1, cmds := e.cmds ++ [⟨e.last + 1, op, id, 0, true, false, [], none, none, 0⟩] }

/-- LAUNCHP (R277, R301). -/
def execLaunchp (g : Guard) (d a b c : Reg) (s : State) : Host.Outcome State Fault Refusal :=
  s.onUnit fun u => s.once u g [a, b, c] <|
    if u.speculative then u.hold s
    else
      let desc := u.pS a
      let m := (u.pS b).toNat
      let p := (u.pS c).toNat
      match u.readDesc s desc with
      | (_, some gpa) => s.stage2Wait u gpa 0 desc u.pa.mask
      | (ws, none) => s.afterOwn u fun s =>
        let s := s.deviceTouch u.t.ctx u.sp.pl desc 16
        let kd := kdescOf (ws.getD [])
        match s.refusal u.t.ctx ⟨desc, ws, decide (1 ≤ u.sp.pl), none, true, false, decide (0xFFFFFFFF < m) || decide (0xFFFFFFFF < p)⟩ with
        | some code => u.done s (u.w.setS d (refusedWord code))
        | none =>
          let tl : Reg := BitVec.ofNat 8 kd.notifyTl
          let key := u.bound s tl
          if kd.notify && (key.isNone || (u.t.engCtx (key.getD 0)).failed.isSome) then s.illegal u
          else
            let die := dieOf u.t.core
            let guess := (s.predict die desc).getD m
            let count := Nat.max m (if p = 0 then guess else p)
            let s := if p = 0 then s.useShape die desc else s
            let r := s.accept u.t.ctx desc kd (.launchp u.t.id) ⟨.bits, kd.arg⟩ die 0 u.t.pri fun l =>
              { l with limit := count, count := count, shaped := true, m := m, p := count }
            let s := if kd.notify then
                r.2.2.onTask u.t.id fun t =>
                  let k := key.getD 0
                  t.setEng k (((t.engCtx k).note (.resolution r.1) r.1).note (.completion r.1) r.1)
              else r.2.2
            u.done s (u.w.setS d (handleOf r.2.1 die))

/-! ### Resolution (R278, R279, R209, R210) -/

/-- Whether a task's block is among those that a resolution at T commits or squashes. -/
def Task.specOf (t : Task) (l : Launch) : Bool := t.launch == l.id && t.spec == .running

/-- A task as its resolution leaves it. -/
def Task.resolved (t : Task) (commit : Bool) : Task :=
  if commit then { t with spec := .committed, specStores := [], specPages := [], ways := [] }
  else { t with spec := .squashed, specStores := [], specPages := [], ways := [], nsets := [], bars := [] }

/-- Whether a task lies in its context's save area. -/
def State.away (s : State) (t : Task) : Bool := (s.task? t.id).isNone

/-- A task committed (R209): its speculative stores enter at their homes, those of one in a save area too. -/
def State.commitTask (s : State) (t : Task) : State :=
  let s := if s.away t then s.perform none noCore t.ctx 4 (s.specIn t) t.specPages else s.perform none t.core t.ctx 4 t.specStores t.specPages
  s.onTask t.id fun t => t.resolved true

/-- An 8-byte store of the device at GRID scope through a context's translations, with a tag on a tagged page; a fault
drops it. -/
def State.deviceStore (s : State) (core ctx hint : Nat) (va : W64) (tag : Tag) (x : W64) : State :=
  match s.translate ctx 1 .write va with
  | .ok (tr, k) => (s.touch ctx va tr).perform none core ctx hint [⟨k, 8, x, if tr.tagged then some tag else none, false⟩] [tr.gpa / 65536]
  | .error _ => s

/-- One retraction appended to a log (R279). -/
def State.retract (s : State) (core ctx : Nat) (kd : KDesc) (base lim : W64) : State :=
  if kd.rlog = 0 then s
  else
    match s.translate ctx 1 .read kd.rlog with
    | .error _ => s
    | .ok (_, k) =>
      let n := s.mem.read k 8
      let s := s.deviceStore core ctx 4 kd.rlog .int (BitVec.ofNat 64 (n + 1))
      if n < kd.rlogCap then
        let at_ := kd.rlog + BitVec.ofNat 64 (16 + 16 * n)
        (s.deviceStore core ctx 4 at_ .bits base).deviceStore core ctx 4 (at_ + 8) .bits lim
      else s

/-- A task squashed (R279): its warps stop, its stores are discarded, its commands that have not started are cancelled,
its chunks are retracted. -/
def State.squashTask (s : State) (t : Task) (kd : KDesc) : State :=
  let core := if s.away t then noCore else t.core
  let s : State := { s with
    warps := s.warps.filter fun w => w.task != t.id
    loads := s.loads.filter fun p => !(p.dests.any fun d => (s.warp? d.warp).any fun w => w.task == t.id)
    stores := s.stores.filter fun p => p.task != t.id
    atoms := s.atoms.filter fun p => p.task != t.id }
  let s := (List.range 16).foldl (fun s k => s.cancelCmds t.id k fun _ => true) s
  let s := s.onTask t.id fun t => t.resolved false
  t.nsets.foldl (fun s x => s.retract core t.ctx kd x.1 x.2) s

/-- The tasks of a context in its save area changed, or gone with their warps, where `f` gives none (R361). -/
def State.onSaved (s : State) (v : Nat) (f : Task → Option Task) : State :=
  let c := s.ctx v
  let gone := (c.save.tasks.filter fun t => (f t).isNone).map fun t => t.id
  if c.save.tasks = [] then s
  else s.setCtx v { c with save := { c.save with
    tasks := c.save.tasks.filterMap f
    warps := c.save.warps.filter fun w => !gone.contains w.task
    gens := c.save.gens.filter fun x => !gone.contains x.1 } }

/-- The speculative tasks of a launch, those in a save area too, in ascending block number. -/
def State.specTasks (s : State) (l : Launch) : List Task :=
  sortBy (fun x => x.block) ((s.tasks ++ (s.ctx l.ctx).save.tasks).filter fun x => x.specOf l)

/-- A launch resolved at t (R278): the commits at one instant in ascending block number, the squashes, the tail. A task in a
save area is committed there, or squashed: its warps, its commands that have not started and what it holds are gone (R279). -/
def State.resolve (s : State) (l : Launch) (t : Nat) : State :=
  let T := Nat.max t l.m
  let s := s.recordShape l.die l.desc t
  let mine := s.specTasks l
  let s := (mine.filter fun x => decide (x.block < T)).foldl State.commitTask s
  let s := (mine.filter fun x => decide (T ≤ x.block)).foldl (fun s x => s.squashTask x l.kd) s
  let s := s.onSaved l.ctx fun x => if x.specOf l then (if x.block < T then some (x.resolved true) else none) else some x
  let s := { s with specIds := s.specIds.filter fun x => x.1 != l.id }
  let s := s.setLaunch { l with t := some T, limit := if l.next ≤ T then Nat.min T l.p else l.next }
  if l.p < T then
    (s.accept l.ctx l.desc l.kd (.tail l.id) l.arg l.die l.depth l.pri fun x =>
      { x with next := l.p, limit := T, count := T, t := some T }).2.2
  else s

/-- Whether a handle word is one that SHAPE accepts (R302). -/
def handleOk (x : Word) : Bool := x.tag == .int && decide (bits x.pay 63 33 = 0)

/-- The launch of a context that a handle names. -/
def State.shaped? (s : State) (ctx : Nat) (x : Word) : Option Launch :=
  s.launches.find? fun l => l.shaped && l.ctx == ctx && decide (l.serial.toNat = bits x.pay 31 0) && decide (l.die = bits x.pay 32 32)

/-- SHAPE (R278, R302). -/
def execShape (g : Guard) (a b : Reg) (s : State) : Host.Outcome State Fault Refusal :=
  s.onUnit fun u => s.once u g [a, b] <|
    let h := u.w.getS a
    let t := (u.pS b).toNat
    if !handleOk h || decide (0xFFFFFFFF < t) then s.illegal u
    else
      let l := s.shaped? u.t.ctx h
      if u.speculative && (l.map fun l => l.id) == some u.t.launch then s.illegal u
      else if u.speculative then u.hold s
      else s.afterOwn u fun s =>
        match l with
        | some l => if l.t.isSome then u.skip s else (u.skip s).resolve l t
        | none => u.skip s

/-- SPECQ's word (R303). -/
def State.specWord (s : State) (t : Task) : W64 :=
  match s.launch? t.launch with
  | none => 0
  | some l =>
    let spec := t.spec == .running
    let com := t.spec == .committed
    let res := l.t.isSome
    BitVec.ofNat 64 ((if spec then 1 + t.specId % 256 * 2 ^ 8 else 0) + (if com then 2 else 0) +
      (match l.t with | some n => if res then 4 + n * 2 ^ 32 else 0 | none => 0))

/-- SPECQ (R303). -/
def execSpecq (g : Guard) (d : Reg) (s : State) : Host.Outcome State Fault Refusal :=
  s.onUnit fun u => s.once u g [] (u.done s (u.w.setS d (intBits (s.specWord u.t))))

end Sys2Proof.Machine
end

