-- ==== Sys2Proof/Machine/Queue.lean ====
section
/-!
DEFINITION. Guest time (spec 11, R364), virtual queues: their tables, entries, completion records, errors and tiers
(spec 10, R325 to R328), and the ends of launches (spec 08, R278; spec 06, R188).
-/
namespace Sys2Proof.Machine

/-- The guest time of a context in nanoseconds (R364). -/
def State.guestTime (s : State) (v : Nat) : W64 :=
  let c := s.ctx v
  BitVec.ofNat 64 (c.timeB + (s.nowNs - c.timeO))

/-! ### Tables and entries (R325) -/

/-- n 8-byte words read by the device through a context's translations at a level. -/
def State.deviceWords (s : State) (v pl : Nat) (a : W64) (n : Nat) : Except XFault (List W64) :=
  (List.range n).mapM fun i =>
    match s.translate v pl .read (a + BitVec.ofNat 64 (8 * i)) with
    | .ok (_, k) => .ok (BitVec.ofNat 64 (s.mem.read k 8))
    | .error e => .error e

/-- A 4-byte store of the device at SYSTEM scope; a fault drops it. -/
def State.deviceStore4 (s : State) (v : Nat) (va : W64) (x : Nat) : State :=
  match s.translate v 1 .write va with
  | .ok (tr, k) => (s.touch v va tr).perform none noCore v 6 [⟨k, 4, BitVec.ofNat 64 x, if tr.tagged then some .bits else none, false⟩]
      [tr.gpa / 65536]
  | .error _ => s

/-- A queue table entry. -/
structure QTable where
  ring : W64
  log : Nat
  weight : Nat
  cls : Nat
  privileged : Bool
  tail : Nat
  head : Nat
  ok : Bool
  deriving DecidableEq, Repr

/-- The address of a queue's table entry. -/
def Ctx.qAddr (c : Ctx) (n : Nat) : W64 := c.vqtab + BitVec.ofNat 64 (64 * n)

/-- A table entry from its eight words; `ok` when it keeps R325. -/
def qtableOf (ws : List W64) : QTable :=
  let w := fun i => ws.getD i 0
  { ring := w 0
    log := bits (w 1) 7 0
    weight := bits (w 1) 15 8
    cls := bits (w 1) 23 16
    privileged := bitAt (w 1) 24
    tail := bits (w 2) 31 0
    head := bits (w 3) 31 0
    ok := decide ((w 0).toNat % 64 = 0) && decide (4 ≤ bits (w 1) 7 0) && decide (bits (w 1) 7 0 ≤ 16) &&
      decide (1 ≤ bits (w 1) 15 8) && decide (bits (w 1) 23 16 ≤ 31) && decide (bits (w 1) 31 25 = 0) &&
      decide (bits (w 1) 63 32 = 0) && decide (bits (w 2) 63 32 = 0) && decide (bits (w 3) 63 32 = 0) &&
      w 4 == 0 && w 5 == 0 && w 6 == 0 && w 7 == 0 }

/-- The entries of a ring. -/
def QTable.size (q : QTable) : Nat := 2 ^ q.log
/-- The entries written and not yet read. -/
def QTable.waiting (q : QTable) : Nat := (q.tail + 2 ^ 32 - q.head) % 2 ^ 32
/-- The address of an entry. -/
def QTable.slot (q : QTable) (i : Nat) : W64 := q.ring + BitVec.ofNat 64 (64 * (i % q.size))

/-- A queue entry (R325). -/
structure QEntry where
  desc : W64
  arg : W64
  grid : Bool
  wait : Bool
  irq : Bool
  gx : Nat
  gy : Nat
  gz : Nat
  compl : W64
  deriving DecidableEq, Repr

/-- An entry from its eight words. -/
def qentryOf (ws : List W64) : QEntry :=
  let w := fun i => ws.getD i 0
  ⟨w 0, w 1, bitAt (w 2) 0, bitAt (w 2) 1, bitAt (w 2) 2, bits (w 3) 31 0, bits (w 3) 63 32, bits (w 4) 31 0, w 6⟩

/-- A queue of a context. -/
def Ctx.queue (c : Ctx) (n : Nat) : VQueue := Table.get .fresh c.queues n
/-- A queue written. -/
def State.setQueue (s : State) (v n : Nat) (q : VQueue) : State :=
  let c := s.ctx v
  s.setCtx v { c with queues := Table.put .fresh c.queues n q }

/-- The table entry of a queue, read at PL1. -/
def State.qtable (s : State) (v n : Nat) : Except XFault QTable :=
  match s.deviceWords v 1 ((s.ctx v).qAddr n) 8 with
  | .ok ws => .ok (qtableOf ws)
  | .error e => .error e

/-- A completion record (R325): the status, the launch serial (free where nothing was launched) and the time; then the
VF's completion interrupt. -/
def State.report (s : State) (v : Nat) (compl : W64) (irq : Bool) (status : Nat) (serial : Option (BitVec 32)) : State :=
  let f : BitVec 32 × State := match serial with
    | some n => (n, s)
    | none => (s.freeWord.1.setWidth 32, s.freeWord.2)
  let s := f.2
  let s := if compl = 0 ∨ compl.toNat % 16 ≠ 0 then s
    else (s.deviceStore noCore v 6 compl .int (BitVec.ofNat 64 (status + f.1.toNat * 2 ^ 32))).deviceStore noCore v 6 (compl + 8) .int (s.guestTime v)
  if irq then let c := s.ctx v; s.setCtx v { c with irqs := c.irqs + 1 } else s

/-! ### Acceptance (R326, R327) -/

/-- Whether a context takes launches: enabled, its save area pinned, neither saved nor frozen (R323, R359, R360). -/
def Ctx.active (c : Ctx) : Bool := c.en && c.pinned && decide (c.saveState ≤ 2)

/-- An empty context becomes a running one at its first launch (R359; log entry 17). -/
def State.startRunning (s : State) (v : Nat) : State :=
  let c := s.ctx v
  if c.saveState = 0 then s.setCtx v { c with saveState := 1, since := s.nowNs } else s

/-- A queue in error (R327): it accepts nothing further, and the entry at HEAD receives status 17. Its table entry waits to be
rewritten, where it could be read at all. -/
def State.queueError (s : State) (v n : Nat) (q : Option QTable) : State :=
  let at_ := match s.translate v 1 .read ((s.ctx v).qAddr n) with | .ok (_, k) => some k | .error _ => none
  let s := s.setQueue v n { (s.ctx v).queue n with error := true, entry := at_ }
  match q with
  | none => s
  | some q =>
    match s.deviceWords v 1 (q.slot q.head) 8 with
    | .ok ws => let e := qentryOf ws; s.report v e.compl e.irq 17 none
    | .error _ => s

/-- HEAD advanced past an entry. -/
def State.advanceHead (s : State) (v n : Nat) (q : QTable) : State :=
  s.deviceStore4 v ((s.ctx v).qAddr n + 24) ((q.head + 1) % 2 ^ 32)

/-- An entry taken: refused with its code, or a launch of the queue's class, of as many blocks as its counts make. -/
def State.takeEntry (s : State) (v n : Nat) (q : QTable) (e : QEntry) : State :=
  let ws := match s.deviceWords v (if q.privileged then 1 else 0) e.desc 16 with | .ok ws => some ws | .error _ => none
  let counts := if e.grid then some (e.gx, e.gy, e.gz) else none
  let a : Ask := ⟨e.desc, ws, q.privileged, counts, false, false, false⟩
  let s := (s.deviceTouch v (if q.privileged then 1 else 0) e.desc 16).advanceHead v n q
  match s.refusal v a with
  | some code => s.report v e.compl e.irq code none
  | none =>
    let kd := kdescOf (ws.getD [])
    let g := a.grid kd
    let blocks := g.1 * g.2.1 * g.2.2
    let r := s.accept v e.desc kd (.queue n e.compl e.irq) ⟨.bits, e.arg⟩ 0 0 q.cls fun l =>
      { l with limit := blocks, count := blocks }
    let s := r.2.2.startRunning v
    s.setQueue v n { (s.ctx v).queue n with last := some r.1 }

/-- QUEUE_ENTRY_ACCEPT (R326): the next entry of a mapped queue of a running context. -/
def execQueueEntryAccept (v n : Nat) (s : State) : Host.Outcome State Fault Refusal :=
  .next <|
    let c := s.ctx v
    let vq := c.queue n
    if !c.active || vq.tier != 2 || vq.error || decide (c.vqcount ≤ n) then s
    else
      match s.qtable v n with
      | .error _ => s.queueError v n none
      | .ok q =>
        let s := s.deviceTouch v 1 (c.qAddr n) 8
        if !q.ok || !c.classMask.getLsbD q.cls || decide (q.size < q.waiting) then s.queueError v n (some q)
        else if q.waiting = 0 then s.setQueue v n { vq with rung := false }
        else
          match s.deviceWords v 1 (q.slot q.head) 8 with
          | .error _ => s.queueError v n (some q)
          | .ok ws =>
            let e := qentryOf ws
            let s := s.deviceTouch v 1 (q.slot q.head) 8
            if e.wait && (match vq.last with | some l => (s.launch? l).isSome | none => false) then s
            else s.takeEntry v n q e

/-! ### Tiers (R328) -/

/-- Hardware queue slots, and queues that the queue SRAM holds. -/
def queueSlots : Nat := 48
def heldQueues : Nat := 16384

/-- The queues of a tier: context and number. -/
def State.queuesIn (s : State) (tier : Nat) : List (Nat × Nat × VQueue) :=
  s.ctxs.flatMap fun c => (c.2.queues.filter fun q => q.2.tier == tier).map fun q => (c.1, q.1, q.2)

/-- A held queue swapped out (R328): of the function whose held count exceeds its share by the most (compared as
count × ΣQWEIGHT − 16,384 × QWEIGHT), the queue rung least recently. -/
def State.swapOut (s : State) : State :=
  let held := s.queuesIn 1
  let total := (s.ctxs.filter fun c => c.2.en).foldl (fun n c => n + c.2.qweight) 0
  let excess := fun (v : Nat) => (((held.filter fun q => q.1 == v).length * total : Nat) : Int) - ((heldQueues * (s.ctx v).qweight : Nat) : Int)
  let vs := distinct (held.map fun q => q.1)
  match vs with
  | [] => s
  | v0 :: rest =>
    let v := rest.foldl (fun m v => if excess m < excess v then v else m) v0
    match sortBy (fun q => q.2.2.rungAt) (held.filter fun q => q.1 == v) with
    | q :: _ => s.setQueue v q.2.1 { q.2.2 with tier := 0 }
    | [] => s

/-- A queue taken into the SRAM, a held one being swapped out when it is full. -/
def State.holdQueue (s : State) (v n : Nat) : State :=
  let s := if heldQueues ≤ (s.queuesIn 1).length then s.swapOut else s
  s.setQueue v n { (s.ctx v).queue n with tier := 1 }

/-- A doorbell (R324, R326, R328): the queue's entries are announced, and a swapped queue enters the SRAM. That of the guest kernel
ends the error of a queue whose table entry has been rewritten (R327). -/
def State.ring (s : State) (v n : Nat) (guest : Bool) : State :=
  let c := s.ctx v
  if !c.en || decide (c.vqcount ≤ n) then s
  else
    let q := c.queue n
    let s := s.setQueue v n { q with rung := true, error := q.error && !(guest && q.entry.isNone), rungAt := s.nowNs }
    if q.tier = 0 then s.holdQueue v n else s

/-- DOORBELL (R324). -/
def execDoorbell (v n : Nat) (s : State) : Host.Outcome State Fault Refusal := .next (s.ring v n true)

/-- Whether a mapped queue may lose its slot to another (R328): after 20 µs. -/
def VQueue.mayLeave (q : VQueue) (now : Nat) : Bool := decide (q.since + 20000 ≤ now)

/-- Whether a launch of a queue still has blocks to dispatch. -/
def State.queueWork (s : State) (v n : Nat) : Bool :=
  s.launches.any fun l => l.ctx == v && decide (l.next < l.limit) && (match l.src with | .queue m _ _ => m == n | _ => false)

/-- Whether a queue waits for a slot (R328): of an enabled function, with accepted work or a rung doorbell. -/
def State.wantsSlot (s : State) (v n : Nat) : Bool :=
  let q := (s.ctx v).queue n
  (s.ctx v).en && q.tier != 2 && (q.rung || s.queueWork v n)

/-- The queues of a function that wait for a slot. -/
def State.waitingQueues (s : State) (v : Nat) : List Nat := ((s.ctx v).queues.map fun q => q.1).filter fun n => s.wantsSlot v n

/-- WEIGHT of a queue, as its table entry gives it; 1 where that cannot be read. -/
def State.queueWeight (s : State) (v n : Nat) : Nat := match s.qtable v n with | .ok q => Nat.max 1 q.weight | .error _ => 1

/-- The functions whose turn it is, among those with a queue that waits (R328): those mapped fewer than QWEIGHT times in the round; all,
when a new round begins. -/
def State.turnFunctions (s : State) : List Nat :=
  let vs := (s.ctxs.map fun c => c.1).filter fun v => s.waitingQueues v != []
  let left := vs.filter fun v => decide ((s.ctx v).turns < (s.ctx v).qweight)
  if left = [] then vs else left

/-- The queues of a function whose turn it is: those mapped fewer than WEIGHT times in its round; all, when a new one begins. -/
def State.turnQueues (s : State) (v : Nat) : List Nat :=
  let ns := s.waitingQueues v
  let left := ns.filter fun n => decide (((s.ctx v).queue n).turns < s.queueWeight v n)
  if left = [] then ns else left

/-- A mapping counted in the rounds of the functions and of a function's queues. -/
def State.takeTurn (s : State) (v n : Nat) : State :=
  let done := !((s.ctxs.map fun c => c.1).any fun v => s.waitingQueues v != [] && decide ((s.ctx v).turns < (s.ctx v).qweight))
  let mine := !((s.waitingQueues v).any fun n => decide (((s.ctx v).queue n).turns < s.queueWeight v n))
  let s : State := if done then { s with ctxs := s.ctxs.map fun c => (c.1, { c.2 with turns := 0 }) } else s
  let c := s.ctx v
  let qs := if mine then Table.mapVals .fresh (fun _ q => { q with turns := 0 }) c.queues else c.queues
  let s := s.setCtx v { c with turns := c.turns + 1, queues := qs }
  let q := (s.ctx v).queue n
  s.setQueue v n { q with turns := q.turns + 1 }

/-- QUEUE_MAP (R328): a queue whose turn it is, by weighted round robin, mapped onto a free hardware slot, or onto that of a queue
that has had its 20 µs. Which queue yields is free (log entry 66). -/
def execQueueMap (v n : Nat) (s : State) : Host.Outcome State Fault Refusal :=
  .next <|
    if !s.wantsSlot v n || !s.turnFunctions.contains v || !(s.turnQueues v).contains n then s
    else
      let mapped := s.queuesIn 2
      let mapIt := fun (s : State) => (s.takeTurn v n).setQueue v n { ((s.takeTurn v n).ctx v).queue n with tier := 2, since := s.nowNs }
      if mapped.length < queueSlots then mapIt s
      else
        let may := mapped.filter fun x => x.2.2.mayLeave s.nowNs
        let c := s.choose may.length
        match may[c.1]? with
        | some x => mapIt (c.2.holdQueue x.1 x.2.1)
        | none => s

/-! ### The ends of launches (R188, R278, R301) -/

/-- The tasks of a launch that are left, those in save areas too. -/
def State.tasksOf (s : State) (l : Nat) : List Task :=
  (s.tasks ++ s.ctxs.flatMap fun c => c.2.save.tasks).filter fun t => t.launch == l

/-- The notification of a launch on a timeline completes. -/
def State.notifyLaunch (s : State) (task launch : Nat) (final : Bool) : State :=
  match s.task? task with
  | none => s
  | some t => t.eng.foldl (fun s e =>
      (e.2.cmds.filter fun c => !c.done && c.op == (if final then .completion launch else .resolution launch)).foldl
        (fun s c => s.finishCmd task e.1 c) s) s

/-- LAUNCH_RESOLUTION_COMPLETE (R278): the commit is made and every squashed task has stopped. -/
def execLaunchResolutionComplete (l : Nat) (s : State) : Host.Outcome State Fault Refusal :=
  .next <|
    match s.launch? l with
    | none => s
    | some x =>
      match x.src with
      | .launchp task =>
        if x.t.isSome && !x.notified && !((s.tasksOf l).any fun t => t.spec == .squashed) then
          (s.setLaunch { x with notified := true }).notifyLaunch task l false
        else s
      | _ => s

/-- Whether a launch has ended: every block placed and gone, a predicted shape resolved and reported, its tail gone. -/
def State.launchOver (s : State) (x : Launch) : Bool :=
  decide (x.limit ≤ x.next) && (s.tasksOf x.id).isEmpty && (!x.shaped || x.notified) &&
  !(s.launches.any fun y => y.src == .tail x.id)

/-- A launch gone, with the history that served its LDINV (R192). -/
def State.dropLaunch (s : State) (l : Nat) : State :=
  { s with launches := s.launches.filter fun x => x.id != l, history := s.history.filter fun h => h.1 != l }

/-- LAUNCH_COMPLETE (R188): reported on the launch's queue or timeline. -/
def execLaunchComplete (l : Nat) (s : State) : Host.Outcome State Fault Refusal :=
  .next <|
    match s.launch? l with
    | none => s
    | some x =>
      if s.launchOver x then
        let s := match x.src with
          | .queue _ compl irq => s.report x.ctx compl irq 0 (some x.serial)
          | .launchp task => s.notifyLaunch task l true
          | .spawn | .fabric | .tail _ => s
        s.dropLaunch l
      else s

end Sys2Proof.Machine
end

