-- ==== Sys2Proof/Machine/Width.lean ====
section
/-!
DEFINITION. Widths: WIDTH, SPLITW, FUSEW, legacy-width mode and the time-out of a rendezvous (spec 08, R271 to R274;
spec 09, R294 to R298).
-/
namespace Sys2Proof.Machine

/-- WIDTH (R294). -/
def U.widthWord (u : U) : W64 :=
  let upper := u.w.legacy && u.sp.upper
  let wid := if u.w.legacy then 2 * u.w.wid + (if upper then 1 else 0) else u.w.wid
  BitVec.ofNat 64 ((if u.w.legacy then 32 else u.w.width) + (if u.w.legacy then 2 ^ 8 else 0) + (if upper then 2 ^ 9 else 0)
    + wid % 256 * 2 ^ 16 + u.w.splits.length % 8 * 2 ^ 24 + u.w.slot % 32 * 2 ^ 32)

/-- WIDTH (R294). -/
def execWidth (g : Guard) (d : Reg) (s : State) : Host.Outcome State Fault Refusal :=
  s.onUnit fun u => s.once u g [] (u.done s (u.w.setS d (intBits u.widthWord)))

/-! ### SPLITW (R272, R296) -/

/-- The lanes of child c that have not exited. -/
def Warp.childLive (w : Warp) (width c : Nat) : LaneMask := maskSlice w.live (c * width) width

/-- The failure code of a SPLITW (R296), for the children to be created and the free slots of the core. -/
def Warp.splitCode (w : Warp) (width : Nat) (kids free : Nat) : Nat :=
  if w.width ≤ width ∨ w.legacy = true then 3
  else if 1 < w.paths.length ∨ w.deep = true ∨ w.serial = true then 1
  else if w.inTx then 4
  else if free + 1 < kids then 2
  else 0

/-- Child c of a warp (R272): `id` and `slot` are its own; the lowest child keeps the nursery chunk. Its registers stay where they
lie: the warp-registers that hold some of its words are its own, those at its ends perhaps a neighbour's too (R260, R268). -/
def Warp.child (w : Warp) (width c id slot : Nat) (lowest : Bool) (next : W64) (d : Reg) : Warp :=
  let a := c * width
  let x : Warp := { w with
    id := id
    first := w.first + a
    width := width
    slot := slot
    v := sliceOf 256 a (a + width) w.v
    p := sliceOf 8 a (a + width) w.p
    nest := sliceOf 1 a (a + width) w.nest
    recs := []
    live := w.childLive width c
    nbase := if lowest then w.nbase else 0
    nlim := if lowest then w.nlim else 0
    gang := 0
    splits := w.splits.map fun sp => { sp with
      frame := .fresh, tscratch := 0, skipped := 0
      paths := sp.paths.map fun p => { p with pc := next, mask := maskSlice p.mask a width } }
    turn := 0
    passed := 0
    regions := []
    gates := []
    interval := none
    staged := false
    perf := List.replicate 8 0
    pos := w.pos + a
    rows := (w.rows.drop ((w.off + a * w.nregs) / 64)).take ((w.off + (a + width) * w.nregs + 63) / 64 - (w.off + a * w.nregs) / 64)
    off := (w.off + a * w.nregs) % 64 }
  x.setS d (natWord (c * 256))

/-- SPLITW (R272, R296): the children are formed at one moment. -/
def execSplitw (g : Guard) (wd : Width) (d : Reg) (s : State) : Host.Outcome State Fault Refusal :=
  s.onUnit fun u => s.once u g [] <|
    let width := widthLanes wd
    let kids := (List.range (u.w.width / width)).filter fun c => u.w.childLive width c != 0
    let free := s.freeSlots u.t.core
    let code := u.w.splitCode width kids.length free.length
    if code ≠ 0 then u.done s (u.w.setS d (natWord code))
    else
      match kids with
      | [] => u.skip s
      | low :: rest =>
        let made := rest.mapIdx fun i c => u.w.child width c (s.nextId + i) (free.getD i 0) false u.c.next d
        let first := u.w.child width low u.w.id u.w.slot true u.c.next d
        -- The accesses of lanes that have exited with their whole child belong to no warp.
        let home := fun (l : Nat) => match (low :: rest).findIdx? fun c => c == l / width with
          | some 0 => (u.w.id, l % width)
          | some (i + 1) => (s.nextId + i, l % width)
          | none => (s.nextId + rest.length, l)
        let s : State := { (s.moveLanes u.w.id home) with nextId := s.nextId + rest.length + 1 }
        let s : State := { s with warps := s.warps.flatMap fun w => if w.id = u.w.id then first :: made else [w] }
        let s := s.onTask u.t.id fun t => { t with
          owners := t.owners ++ (t.owners.filter fun x => x.2 == u.w.id).flatMap fun x => made.map fun m => (x.1, m.id)
          olds := t.olds ++ (t.olds.filter fun x => x.warp == u.w.id).flatMap fun x => made.map fun m => { x with warp := m.id } }
        s.recheckTask u.t.id

/-! ### FUSEW (R273, R297) -/

/-- The failure code a warp finds at its own arrival at a FUSEW, before its partner's state counts (R297). -/
def State.fuseCode (s : State) (w : Warp) (target : Nat) : Nat :=
  if target ≠ 2 * w.width ∨ w.legacy = true then 5
  else if (s.neighbour w).isNone then 1
  else if 1 < w.paths.length ∨ w.deep = true ∨ w.serial = true then 2
  else if w.inTx then 6
  else 0

/-- A neighbour that has waited 1,024 cycles has failed with code 3, and waits no more (R273). -/
def State.expireNeighbour (s : State) (w : Warp) : State :=
  match s.neighbour w with
  | some n => if s.fuseOver n then s.setWarp (n.failFuse 3) else s
  | none => s

/-- FUSEW (R273, R297): a failure is reported to every partner then waiting. -/
def execFusew (g : Guard) (wd : Width) (d : Reg) (s : State) : Host.Outcome State Fault Refusal :=
  s.onUnit fun u => s.once u g [] <|
    let s := s.expireNeighbour u.w
    let code := s.fuseCode u.w (widthLanes wd)
    let fail := fun (code : Nat) =>
      let s := u.done s (u.w.setS d (natWord code))
      match s.neighbour u.w with
      | some n => s.setWarp (n.failFuse code)
      | none => s
    if code ≠ 0 then fail code
    else
      let w := u.w.setHead u.c.split { u.pa with pc := u.c.start, wait := .fuse wd d s.cycles }
      match s.neighbour u.w with
      | none => fail 1
      | some n =>
        match n.fusing with
        | none => s.setWarp w
        | some (pc, wd', _, _) =>
          if pc ≠ u.c.start ∨ wd' ≠ wd then fail 3
          else
            let lo := if u.w.wid % 2 = 0 then w else n
            let hi := if u.w.wid % 2 = 0 then n else w
            let apart := !adjacent lo hi
            if apart && decide ((s.freeRows u.t.core).length < warpRegs u.w.nregs (2 * u.w.width)) then fail 4
            else ((s.setWarp w).fuse lo hi apart).recheckTask u.t.id

/-- FUSEW_TIMEOUT (R273): a warp that has waited 1,024 cycles fails alone with code 3. -/
def execFusewTimeout (wid : Nat) (s : State) : Host.Outcome State Fault Refusal :=
  .next <|
    match s.warp? wid with
    | none => s
    | some w =>
      match w.fusing with
      | some (_, _, _, since) => if since + 1024 ≤ s.cycles then s.setWarp (w.failFuse 3) else s
      | none => s

/-! ### Legacy width (R274, R298) -/

/-- Whether LEGACY.enter is refused (R298). -/
def Warp.enterBad (w : Warp) : Bool :=
  w.width != 64 || w.legacy || decide (1 < w.paths.length) || w.deep || w.inTx || w.serial

/-- A WIDTH_FAULT of the whole unit (R344). -/
def State.widthFault (s : State) (u : U) : State := s.raise u (mkTrap codeWidthFault 0 u.pa.mask 0)

/-- LEGACY.enter (R274, R298): the lower half keeps its split as number 0 and the upper half takes number 1; a half
without live lanes forms none. -/
def execLegacyEnter (g : Guard) (s : State) : Host.Outcome State Fault Refusal :=
  s.onUnit fun u => s.once u g [] <|
    if u.w.enterBad then s.widthFault u
    else
      let half := fun (num : Nat) (upper : Bool) (fr : TrapFrame) (ts : W64) =>
        let m := u.pa.mask &&& halfMask upper
        if m = 0 then [] else
          [({ u.sp with num := num, upper := upper, frame := fr, tscratch := ts, skipped := 0
                        paths := [{ u.pa with pc := u.c.next, mask := m }] } : Split)]
      let w : Warp := { u.w with
        legacy := true
        splits := half 0 false u.sp.frame u.sp.tscratch ++ half 1 true .fresh 0
        run := 0
        turn := 64
        up := ⟨1, 64, 0⟩ }
      s.setWarp w

/-- LEGACY.leave (R274, R298): the half waits at the boundary before its unit for the other. -/
def execLegacyLeave (g : Guard) (s : State) : Host.Outcome State Fault Refusal :=
  s.onUnit fun u => s.once u g [] <|
    if !u.w.legacy || u.w.halfBad u.sp.upper then s.widthFault u
    else
      let w := u.w.setHead u.c.split { u.pa with pc := u.c.start, wait := .leave }
      (s.setWarp w).checkLeave w

end Sys2Proof.Machine
end

