-- ==== Sys2Proof/Machine/Place.lean ====
section
/-!
DEFINITION. The placement and start of tasks, their end, and the aging of warps (spec 08, R254 to R263, R269, R278; spec 07,
R251; spec 10, R305, R335).
-/
namespace Sys2Proof.Machine

/-! ### What a core has free (R18, R28, R254) -/

/-- What is free on a core. -/
def State.freeOn (s : State) (core : Nat) : Footprint :=
  let ts := s.tasks.filter fun t => t.core == core
  let held := fun (f : Task → Nat) => ts.foldl (fun n t => n + f t) 0
  ⟨(s.freeSlots core).length, (s.freeRows core).length, emptyCore.scratch - held (fun t => t.scratchSize),
    emptyCore.bregs - held (fun t => t.bregs), emptyCore.acc - held (fun t => t.slots.length)⟩

/-- The accumulator slots of a core that no task holds, ascending. -/
def State.freeAcc (s : State) (core : Nat) : List Nat :=
  let used := (s.tasks.filter fun t => t.core == core).flatMap fun t => t.slots.map fun x => x.index
  (List.range 16).filter fun i => !used.contains i

/-! ### The start of a task (R257, R260) -/

/-- A block that is being placed: its launch, number, kind, rank, cohort, core, and speculation id if it is speculative. -/
structure Placing where
  l : Launch
  block : Nat
  kind : Nat
  rank : Nat
  cohort : Option Nat
  core : Nat
  spec : Option Nat
  deriving DecidableEq, Repr

/-- s2 of a warp (R257). -/
def identity (role index depth kind rank : Nat) : Word :=
  natWord (role + index * 2 ^ 8 + depth * 2 ^ 16 + kind * 2 ^ 20 + rank * 2 ^ 24)

/-- Of some free slots, the one that a warp takes: of the scheduler with the most of them, the lowest (R260). -/
def nextSlot (free : List Nat) : Nat :=
  let count := fun (g : Nat) => (free.filter fun i => i / 8 == g).length
  let g := (List.range 4).foldl (fun m g => if count m < count g then g else m) 0
  (free.find? fun i => i / 8 == g).getD 0

/-- The slot a warp takes on a core (R260). -/
def State.slotFor (s : State) (core : Nat) : Nat := nextSlot (s.freeSlots core)

/-- The first split of a warp: every lane at its entry (R257). -/
def firstSplit (pc : W64) (width pl : Nat) : Split := ⟨0, false, [⟨pc, lowMask width, .run, none⟩], pl, .fresh, 0, [], 0⟩

/-- A warp as it starts (R257): NIL registers but s0 to s3, false predicates, an empty chunk, gang 0, depth 0. -/
def startWarp (p : Placing) (role index : Nat) (r : RoleEntry) (id task slot store age : Nat) (rows : List Nat) : Warp :=
  let sreg := fun (t : Table Word) (x : Nat × Word) => Table.put .nil t x.1 x.2
  { id := id
    task := task
    role := role
    first := index * r.width
    width := r.width
    nregs := r.regs
    slot := slot
    legacy := false
    v := []
    p := []
    s := [(0, natWord p.block), (1, p.l.arg), (2, identity role index p.l.depth p.kind p.rank), (3, natWord p.l.count)].foldl sreg []
    live := lowMask r.width
    nbase := 0
    nlim := 0
    gang := 0
    splits := [firstSplit (p.l.kd.code + BitVec.ofNat 64 r.entry) r.width (if r.collector then 1 else 0)]
    run := 0
    turn := 0
    passed := 0
    nest := []
    recs := []
    regions := []
    gates := []
    txs := []
    interval := none
    staged := true
    perf := List.replicate 8 0
    stopped := none
    held := false
    pos := index * r.width
    store := store
    age := age
    rows := rows
    off := 0
    up := ⟨1, 0, 0⟩
    owed := []
    able := [] }

/-- A warp that starts in legacy-width mode (R252): one split for each half. -/
def Warp.startLegacy (w : Warp) : Warp :=
  let cut := fun (upper : Bool) (p : Path) => ({ p with mask := p.mask &&& halfMask upper } : Path)
  let half := fun (num : Nat) (upper : Bool) => w.splits.map fun sp =>
    ({ sp with num := num, upper := upper, paths := sp.paths.map (cut upper) } : Split)
  { w with legacy := true, splits := half 0 false ++ half 1 true }

/-- One warp added to a placed task. -/
def State.addWarp (s : State) (p : Placing) (task role index store : Nat) (r : RoleEntry) (rows : List Nat) : State :=
  let f := s.fresh
  let w := startWarp p role index r f.1 task (s.slotFor p.core) store f.1 rows
  { f.2 with warps := f.2.warps ++ [if p.l.kd.legacy then w.startLegacy else w] }

/-- The warps of one role, in one contiguous run of storage, whose warp-registers they take in warp order (R260). -/
def State.addRole (s : State) (p : Placing) (task role : Nat) (r : RoleEntry) : State :=
  let f := s.fresh
  let n := warpRegs r.regs r.width
  let g := f.2.grantRows p.core (r.warps * n)
  (List.range r.warps).foldl (fun s i => s.addWarp p task role i f.1 r ((g.1.drop (i * n)).take n)) g.2

/-- A task as it starts (R257). -/
def startTask (p : Placing) (id : Nat) (serial : BitVec 16) (acc : List Nat) (age : Nat) : Task :=
  { id := id
    serial := serial
    launch := p.l.id
    ctx := p.l.ctx
    core := p.core
    block := p.block
    kind := p.kind
    rank := p.rank
    cohort := p.cohort
    depth := p.l.depth
    htab := p.l.kd.htab
    scratchSize := (p.l.kd.scratch + 1023) / 1024 * 1024
    scratch := []
    smarks := []
    bregs := p.l.kd.blockRegs
    breg := []
    bpast := []
    owners := []
    slots := (acc.take p.l.kd.accTiles).map fun i => ⟨i, false, false, []⟩
    tl := []
    olds := []
    eng := []
    bars := []
    spec := if p.spec.isSome then .running else .none
    specId := p.spec.getD 0
    specStores := []
    ways := []
    specPages := []
    nsets := []
    colls := 0
    dcolls := []
    dgone := []
    pri := p.l.pri
    age := age
    ended := false }

/-- A block placed: its task with its warps; what its core's L1 holds of earlier reads is dropped (R188), and what ended tasks have
left there is gone. -/
def State.placeBlock (s : State) (p : Placing) : State :=
  let f := s.fresh
  let n := f.2.nextSerial (dieOf p.core) true
  let s := n.2
  let s : State := { s with
    launches := s.launches.map fun l => if l.id = p.l.id then { l with begun := true } else l
    leftTasks := s.leftTasks.filter fun t => t.core != p.core
    tasks := s.tasks ++ [startTask p f.1 (BitVec.ofNat 16 n.1) (s.freeAcc p.core) f.1]
    specIds := match p.spec with | some i => s.specIds ++ [(p.l.id, dieOf p.core * 256 + i)] | none => s.specIds }
  let s := (p.l.kd.rolesOf p.kind).foldl (fun s x => s.addRole p f.1 x.1 x.2) s
  s.fenceL1 p.core false true 4

/-! ### The distributor (R258, R259, R305) -/

/-- A core of the partition where a footprint fits: the most free warp-registers, on a tie the lowest number. -/
def State.bestCore (s : State) (cores : List Nat) (f : Footprint) : Option Nat :=
  match cores.filter fun c => f.fits (s.freeOn c) with
  | [] => none
  | c :: cs => some (cs.foldl (fun m x => if (s.freeOn m).regs < (s.freeOn x).regs then x else m) c)

/-- The cores of one cluster that the ranks of a cohort take, in ascending order. -/
def State.cohortCores (s : State) (k : KDesc) : List Nat → List Nat → Option (List Nat)
  | [], _ => some []
  | _ :: _, [] => none
  | r :: rs, c :: cs =>
    if (k.footprint (k.kindOf r)).fits (s.freeOn c) then (s.cohortCores k rs cs).map fun xs => c :: xs
    else s.cohortCores k (r :: rs) cs

/-- The lowest-numbered cluster that takes a whole cohort. -/
def State.cohortPlace (s : State) (k : KDesc) (cores : List Nat) : Option (List Nat) :=
  (List.range 8).findSome? fun cl => s.cohortCores k (List.range k.cohort) (cores.filter fun c => c / 64 == cl)

/-- The speculation ids of a die that are free (R208). -/
def State.freeSpec (s : State) (die : Nat) : List Nat :=
  (List.range 256).filter fun i => !(s.specIds.any fun x => x.2 == die * 256 + i)

/-- The cores of a partition on which tasks may be placed now. -/
def State.openCores (s : State) (p : Nat) : List Nat := (s.part p).cores.filter fun c => !s.frozenCore c

/-- Whether the next block of a launch is speculative (R277, R278). -/
def Launch.nextSpec (l : Launch) : Bool := l.shaped && l.t.isNone && decide (l.m ≤ l.next)

/-- Whether a launch is dispatched: one of a queue while the queue is mapped (R328). -/
def State.dispatched (s : State) (l : Launch) : Bool := match l.src with | .queue n _ _ => ((s.ctx l.ctx).queue n).tier == 2 | _ => true

/-- The launches of a partition with blocks to place, in age order; a context that is not running, or leaves its cores,
has none (R323, R337, R360). -/
def State.pendingLaunches (s : State) (p : Nat) : List Launch :=
  s.launches.filter fun l =>
    let c := s.ctx l.ctx
    c.part == p && c.active && c.ladder.isNone && c.saveState == 1 && decide (l.next < l.limit) && s.dispatched l

/-- The cores on which the next block of a launch may be placed: of a die with a free speculation id, if it needs one. -/
def State.coresFor (s : State) (l : Launch) (cores : List Nat) : List Nat :=
  if l.nextSpec then cores.filter fun c => !(s.freeSpec (dieOf c)).isEmpty else cores

/-- The next unit of a launch placed, if it fits (R258). -/
def State.placeUnit (s : State) (l : Launch) (cores : List Nat) (core? : Option Nat) : Option State :=
  if l.kd.cohort = 0 then
    match (match core? with | some c => some c | none => s.bestCore (s.coresFor l cores) (l.kd.footprint 0)) with
    | none => none
    | some c =>
      let spec := if l.nextSpec then (s.freeSpec (dieOf c)).head? else none
      some ((s.setLaunch { l with next := l.next + 1 }).placeBlock ⟨l, l.next, 0, 0, none, c, spec⟩)
  else
    match s.cohortPlace l.kd cores with
    | none => none
    | some cs =>
      let f := s.fresh
      let s := f.2.setLaunch { l with next := l.next + l.kd.cohort }
      some ((cs.mapIdx fun k c => (k, c)).foldl (fun s x =>
        s.placeBlock ⟨l, l.next + x.1, l.kd.kindOf x.1, x.1, some f.1, x.2, none⟩) s)

/-- The head of a partition's age order: collectors stand outside it, and speculative blocks without an id are passed over
(R259). -/
def State.headLaunch (s : State) (p : Nat) : Option Launch :=
  let cores := s.openCores p
  (s.pendingLaunches p).find? fun l => !l.kd.collector && (!l.nextSpec || s.coresFor l cores != [])

/-- Collector launches and cores where their next block fits (R259). -/
def State.collectorPlaces (s : State) (p : Nat) : List (Launch × Nat) :=
  let cores := s.openCores p
  ((s.pendingLaunches p).filter fun l => l.kd.collector).flatMap fun l =>
    if l.kd.cohort ≠ 0 then (if (s.cohortPlace l.kd cores).isSome then [(l, 0)] else [])
    else ((s.coresFor l cores).filter fun c => (l.kd.footprint 0).fits (s.freeOn c)).map fun c => (l, c)

/-- Whether a partition is enabled (R305). -/
def Part.enabled (p : Part) : Bool := p.cports != 0 && p.mports != 0

/-- TASK_PLACE (R258): the head unit if it fits; a collector's block, on any core where it fits, may be placed instead. -/
def execTaskPlace (p : Nat) (s : State) : Host.Outcome State Fault Refusal :=
  .next <|
    if !(s.part p).enabled then s
    else
      let cores := s.openCores p
      let head := (s.headLaunch p).bind fun l => s.placeUnit l cores none
      let coll := s.collectorPlaces p
      let c := s.choose (coll.length + (if head.isSome then 1 else 0))
      match coll[c.1]? with
      | some x => (c.2.placeUnit x.1 cores (if x.1.kd.cohort = 0 then some x.2 else none)).getD s
      | none => match head with
        | some h => { h with tick := c.2.tick }
        | none => s

/-! ### The end of a task (R251, R137, R279) -/

/-- Whether a task has nothing left to wait for: no warp, command, tile operation or access (R251). -/
def State.taskDone (s : State) (t : Task) : Bool :=
  !(s.warps.any fun w => w.task == t.id) &&
  (t.eng.all fun e => e.2.cmds.all fun c => c.done || c.isNote) &&
  !(s.tiles.any fun x => x.task == t.id) && !(s.stores.any fun x => x.task == t.id) && !(s.atoms.any fun x => x.task == t.id)

/-- The generations of a squashed task's allocated slots advanced (R279). -/
def State.retireSlots (s : State) (t : Task) : State :=
  if t.spec == .squashed then
    (t.slots.filter fun x => x.allocated).foldl (fun s x =>
      let k := t.core * 16 + x.index
      { s with accGen := Table.put 0 s.accGen k (Table.get 0 s.accGen k + 1) }) s
  else s

/-- A task that has ended gives up what it holds, but for its allocation while a cohort lives, and for its speculative
stores while its launch is not resolved. -/
def Task.vacate (t : Task) : Task :=
  { t with slots := [], bregs := 0, breg := [], bpast := [], owners := [], bars := [], tl := [], olds := [], eng := [], ended := true }

/-- What an ended task leaves on its core, as it stood; once a cohort is gone, with the allocation as its last member left it (R377). -/
def State.leave (s : State) (t : Task) : State := { s with leftTasks := s.leftTasks ++ [t] }

/-- The allocations that a cohort gives up, as they stand. -/
def State.leaveScratch (s : State) (ts : List Task) : State :=
  { s with leftTasks := s.leftTasks.map fun x => match ts.find? fun t => t.id == x.id with
      | some t => { x with scratch := t.scratch, smarks := t.smarks }
      | none => x }

/-- A task that has taken part in collectives of DOMAIN ends: the others of its groups can find no further match of it (R246). -/
def State.leaveGroups (s : State) (t : Task) : State :=
  t.dcolls.foldl (fun s g => { s with tasks := s.tasks.map fun x =>
    if x.ctx = t.ctx ∧ x.id ≠ t.id ∧ 0 < Table.get 0 x.dcolls g.1 then
      { x with dgone := Table.put none x.dgone g.1 (some (match Table.get none x.dgone g.1 with | some k => Nat.min k g.2 | none => g.2)) }
    else x }) s

/-- TASK_END (R251): the core's dirty lines are written back and its resources released. An exited speculative task keeps
its stores until the resolution (R278). -/
def execTaskEnd (tid : Nat) (s : State) : Host.Outcome State Fault Refusal :=
  .next <|
    match s.task? tid with
    | none => s
    | some t =>
      if !s.taskDone t then s
      else if t.spec == .running then
        if t.ended then s
        else (s.fenceL1 t.core true false 7).setTask { t.vacate with core := noCore, scratchSize := 0, scratch := [], smarks := [] }
      else
        let s := ((((s.fenceL1 t.core true false 7).retireSlots t).leave t).leaveGroups t).setTask t.vacate
        if s.tasks.any fun x => t.mate x && !x.ended then s
        else { s.leaveScratch (s.tasks.filter fun x => t.mate x) with tasks := s.tasks.filter fun x => !t.mate x }

/-! ### Aging and staging (R261, R262, R269) -/

/-- A ready warp passed over by its scheduler (R261). -/
def Warp.pass (w : Warp) (upper : Bool) : Warp :=
  if upper then { w with up := { w.up with passed := w.up.passed + 1 } } else { w with passed := w.passed + 1 }

/-- WARP_DUE (R261): a warp passed over 63 times is passed over again, and is due; in legacy-width mode each half (R274). -/
def execWarpDue (wid : Nat) (s : State) : Host.Outcome State Fault Refusal :=
  .next <|
    match s.warp? wid with
    | none => s
    | some w =>
      let w' := if w.passed = 63 then w.pass false else w
      let w' := if w.legacy && w'.up.passed == 63 then w'.pass true else w'
      if w' = w then s else s.setWarp w'

/-- WORKING_SET_STAGED (R269). -/
def execWorkingSetStaged (wid : Nat) (s : State) : Host.Outcome State Fault Refusal :=
  .next <|
    match s.warp? wid with
    | none => s
    | some w => s.setWarp { w with staged := true }

end Sys2Proof.Machine
end

