-- ==== Sys2Proof/Machine/Transaction.lean ====
section
/-!
DEFINITION. Transactions (spec 06, R198 to R202; spec 07, R234 to R239).
-/
namespace Sys2Proof.Machine

/-- All four classes (R201). -/
def allClasses : BitVec 4 := 15
/-- The scope GRID (R25). -/
def scopeGrid : Nat := 4

/-- TXBEGIN in one lane (R234): opened at depth 1, deepened, or doomed at once. -/
def Warp.txOpen (w : Warp) (spec : Bool) (target : W64) (d : Reg) (l : Nat) : Warp :=
  match w.tx? l with
  | some x => if 15 ≤ x.depth then w.doomTx l (abortWord 1 0 0 0) else w.setTx { x with depth := x.depth + 1 }
  | none =>
    let x : Tx := ⟨l, 1, target, d, [], [], [], [], [], if spec then some (abortWord 6 0 0 0) else none⟩
    let w : Warp := { w with txs := w.txs ++ [x] }
    if spec then w else w.setV l d (natWord 0)

/-- TXBEGIN (R234): an outermost one acts as a fence of all classes at GRID (R201). -/
def execTxbegin (g : Guard) (d : Reg) (off : W32) (s : State) : Host.Outcome State Fault Refusal :=
  s.onUnit fun u => s.named u [d] <|
    let acting := u.acting g
    let spec := u.t.spec == .running
    let outer := !spec && acting.any fun l => (u.w.tx? l).isNone
    if outer && !u.fenceOpen s allClasses then u.hold s
    else
      let target := u.c.start + (off.signExtend 64 <<< 2)
      let s := if outer then s.fenceCore u.t.core allClasses allClasses scopeGrid else s
      u.doneTx s (acting.foldl (fun w l => w.txOpen spec target d l) u.w)

/-- Whether every value a transaction loaded is the current one at its home (R201). -/
def Tx.valid (x : Tx) (m : Mem) : Bool :=
  x.reads.all fun r => BitVec.ofNat 64 (m.read r.key r.size) == r.data &&
    (match r.tag with | some t => m.tag r.key == t | none => true)

/-- One lane of TXEND (R236, R201): its stores committed at their homes, or CONFLICT_REMOTE. -/
def U.txEnd (u : U) (sw : State × Warp) (l : Nat) : State × Warp :=
  match sw.2.openTx l with
  | none => sw
  | some x =>
    if 1 < x.depth then (sw.1, sw.2.setTx { x with depth := x.depth - 1 })
    else if x.valid sw.1.mem then
      let s := sw.1.performItems u.t.core u.t.ctx scopeGrid x.writes x.pages
      let w : Warp := { sw.2 with txs := sw.2.txs.filter fun y => y.lane != l }
      if x.writes = [] then (s, w) else u.issueStore s w scopeGrid [] []
    else (sw.1, sw.2.doomTx l (abortWord 3 0 0 0))

/-- TXEND (R236): a commit acts as a fence of all classes at GRID on either side (R201), and its core has room for its requests
(R18). -/
def execTxend (s : State) : Host.Outcome State Fault Refusal :=
  s.onUnit fun u =>
    let outer := u.active.any fun l => match u.w.openTx l with | some x => x.depth ≤ 1 | none => false
    if outer && (!u.fenceOpen s allClasses || decide (requestLimit < s.requests u.t.core + u.active.length)) then u.hold s
    else
      let s := if outer then s.fenceCore u.t.core allClasses allClasses scopeGrid else s
      let r := u.active.foldl u.txEnd (s, u.w)
      u.doneTx (if outer then r.1.fenceCore u.t.core allClasses allClasses scopeGrid else r.1) r.2

/-- TXABORT (R237). -/
def execTxabort (g : Guard) (code : Byte) (s : State) : Host.Outcome State Fault Refusal :=
  s.onUnit fun u => u.doneTx s (u.doomActing g u.w (abortWord 4 code.toNat 0 0))

/-- TXSTAT (R238). -/
def execTxstat (g : Guard) (d : Reg) (s : State) : Host.Outcome State Fault Refusal :=
  s.onUnit fun u => s.lanes u (longInfo 0x84 d 1 0 0) [d] [] (u.acting g) fun l =>
    let depth := match u.w.openTx l with | some x => x.depth | none => 0
    wordOut d (natWord (depth + u.w.txLines.length * 256))

end Sys2Proof.Machine
end

