-- ==== Sys2Proof/Machine/Complete.lean ====
section
/-!
DEFINITION. The completion of accesses (spec 06, R181, R182, R183, R193; spec 07, R228; spec 10, R319, R320).
-/
namespace Sys2Proof.Machine

/-! ### Registers and marks -/

/-- A declared register of a lane written. -/
def Warp.putV (w : Warp) (lane reg : Nat) (x : Word) : Warp := { w with v := Table.put .nil w.v (lane * 256 + reg) x }

/-- A register write of an access made: one whose generation is not the warp-register's current one is discarded (R268); in a warp
that has ended it is made where its registers still stand. -/
def State.writeReg (s : State) (d : RegWrite) : State :=
  if Table.get 0 s.regGen d.row ≠ d.gen then s
  else
    match s.warp? d.warp with
    | none => { s with leftWarps := s.leftWarps.map fun x =>
        if x.warp.id = d.warp then { x with warp := x.warp.putV d.lane d.reg d.word } else x }
    | some w => s.setWarp (w.putV d.lane d.reg d.word)

/-- The rate controller of a context, by its id, at a requester port (R310, R320). -/
def rateKey (ctx port : Nat) : Nat := ctx * 72 + port

/-- A response with a mark (R320): r := max(8, r − ⌊r ÷ 8⌋). -/
def State.marked (s : State) (ctx port : Nat) : State :=
  let k := rateKey ctx port
  let r := Table.get .fresh s.rates k
  { s with rates := Table.put .fresh s.rates k { r with rate := Nat.max 8 (r.rate - r.rate / 8) } }

/-! ### Order of one split's accesses (R181) -/

/-- The 8-byte words that an access in flight writes. -/
def State.wordsOfAccess (s : State) (id : Nat) : List Nat :=
  ((s.stores.filter fun p => p.id == id).flatMap fun p => p.items.map fun it => it.key / 8) ++
  ((s.atoms.filter fun p => p.id == id).flatMap fun p => p.items.map fun it => it.key / 8)

/-- The accesses that precede a store or atomic in flight in the program order of its split. -/
def State.priorOf (s : State) (id : Nat) : List Nat :=
  ((s.stores.filter fun p => p.id == id).flatMap fun p => p.prior) ++ (s.atoms.filter fun p => p.id == id).flatMap fun p => p.prior

/-- Whether an earlier store, atomic or DRAIN of the same split still has to be performed at one of the words of an access
(R162, R181), whatever has become of the split since. -/
def State.behind (s : State) (id : Nat) : Bool :=
  let mine := s.wordsOfAccess id
  (s.priorOf id).any fun e =>
    ((s.wordsOfAccess e).any fun k => mine.contains k) ||
    s.tiles.any fun x => x.id == e && mine.any fun k => x.lines.contains (k / 16)

/-! ### The events -/

/-- LOAD_COMPLETE (R193): the values reach their registers and the path counter falls. -/
def execLoadComplete (id : Nat) (marked : Bool) (s : State) : Host.Outcome State Fault Refusal :=
  .next <|
    match s.loads.find? fun p => p.id == id with
    | none => s
    | some p =>
      let s : State := { s with loads := s.loads.filter fun x => x.id != id }
      let s := p.dests.foldl State.writeReg s
      let s : State := { s with marks := s.marks.filter fun x => x != id }
      (if marked then s.marked (ctxId p.ctx) (p.core / 8) else s).completeAcc id

/-- A store performed: its items reach the point their hint names; the lines of the core's L1 that they leave dirty may be
written back at once (log entry 21). -/
def State.finishStore (s : State) (p : PendStore) : State :=
  let s : State := { s with stores := s.stores.filter fun x => x.id != p.id }
  let s := (s.perform (some p.warp) p.core p.ctx p.hint p.items p.pages).completeAcc p.id
  let c := s.choose 2
  if c.1 = 1 then c.2.l1WriteBack fun l => l.core == p.core && p.items.any fun it => it.key / 128 == l.line else c.2

/-- STORE_PERFORMED (R193, R181). -/
def execStorePerformed (id : Nat) (s : State) : Host.Outcome State Fault Refusal :=
  .next <|
    match s.stores.find? fun p => p.id == id with
    | none => s
    | some p => if s.behind id then s else s.finishStore p

/-- Whether the split of an atomic is within a scope of the split of another (R184). -/
def State.atomCovers (s : State) (hint : Nat) (x y : PendAtom) : Bool :=
  match hint with
  | 0 => s.warps.any fun w => w.splits.any fun sp => (sp.acc.any fun a => a.id == x.id) && sp.acc.any fun a => a.id == y.id
  | 1 => x.task == y.task
  | 2 => match s.task? x.task, s.task? y.task with
    | some t, some z => t.mate z
    | _, _ => false
  | 3 => x.core / 256 == y.core / 256
  | _ => true

/-- Whether a CAS is known for a header CAS by the word it finds at its home or by the one it would leave (R204, R229). -/
def State.headerCas (s : State) (it : AtomItem) : Bool :=
  match it.act with
  | .op _ _ => false
  | .cas _ n => it.tagged && (tagClass n.tag == 7 || tagClass (s.mem.tag it.key) == 7)

/-- The scope at which an atomic is performed at a location: that of its hint, and for a header CAS at least GRID (R182, R204). -/
def State.atomScope (s : State) (p : PendAtom) (it : AtomItem) : Nat := if s.headerCas it then Nat.max p.hint 4 else p.hint

/-- Whether two atomics may both read the store that stands at a location: neither covers the other there, or one does not
(R182). -/
def State.apart (s : State) (p : PendAtom) (x : AtomItem) (q : PendAtom) (y : AtomItem) : Bool :=
  !(s.atomCovers (s.atomScope p x) p q && s.atomCovers (s.atomScope q y) q p)

/-- A part of an atomic in flight when another one has written its location: one that stands apart from it keeps what it has
read, or may have read what the location held before; any other has read nothing yet (R182). `old` is the word before, `c`
a free choice. -/
def State.seenAfter (s : State) (p : PendAtom) (x : AtomItem) (old : Word) (q : PendAtom) (y : AtomItem) (c : Nat) : AtomItem :=
  if y.key / 8 != x.key / 8 then y
  else if s.apart p x q y then (if y.seen.isSome || c % 2 == 0 then y else { y with seen := some old })
  else { y with seen := none }

/-- A memory that holds one word. -/
def Mem.ofWord (k : Nat) (x : Word) : Mem := (Mem.empty.write (k / 8 * 8) (bytesLE x.pay.toNat 8)).setTag k x.tag

/-- Every copy of a line in a header partition invalidated (R204). -/
def State.dropHeaders (s : State) (key : Nat) : State := { s with hdrs := s.hdrs.filter fun x => x.line != key / 128 }

/-- One lane's read-modify-write at the home (R182, R228, R229), of what its atomic has read there. Where it writes, the other
atomics in flight there follow (`seenAfter`); the later lanes of its own instruction read what it leaves (R178). -/
def State.atomItem (s : State) (a : PendAtom) (it : AtomItem) : State :=
  let s := if s.headerCas it then s.dropHeaders it.key else s
  let s := s.atHome a.core a.ctx 6 [it.key] fun m => m
  let seen := ((s.atoms.find? fun q => q.id == a.id).bind fun q => (q.items.find? fun y => y.lane == it.lane).bind fun y => y.seen)
  let r := atomOn (match seen with | some x => Mem.ofWord it.key x | none => s.mem) it.tagged it.key it.size it.act
  let s := match r.1 with
    | none => s
    | some x =>
      let old := s.mem.word (it.key / 8 * 8)
      let follow := fun (q : PendAtom) (y : AtomItem) =>
        if q.id = a.id then (if y.key / 8 = it.key / 8 then { y with seen := none } else y)
        else s.seenAfter a it old q y (Config.pickAt s.tick (q.id * 128 + y.lane))
      let after := s.atoms.map fun (q : PendAtom) => { q with items := q.items.map (follow q) }
      let d := s.perform (some a.warp) a.core a.ctx 6 [x] a.pages
      { d with atoms := after, tick := d.tick + 1 }
  s.writeReg ⟨it.warp, it.lane, it.reg, r.2, it.row, it.gen⟩

/-- An atomic completed: its lanes one after another, and the path counter falls. -/
def State.finishAtom (s : State) (p : PendAtom) : State :=
  let s := p.items.foldl (fun (s : State) it => s.atomItem p it) s
  ({ s with atoms := s.atoms.filter fun x => x.id != p.id }).completeAcc p.id

/-- ATOMIC_COMPLETE (R228): the updates are made and the old values reach their registers. -/
def execAtomicComplete (id : Nat) (s : State) : Host.Outcome State Fault Refusal :=
  .next <|
    match s.atoms.find? fun p => p.id == id with
    | none => s
    | some p => if s.behind id then s else s.finishAtom p

/-! ### Visibility in finite time (R183; log entry 101) -/

/-- Whether R183 bounds the time in which a store to a key becomes visible: device memory, with ALLOT not zero in the
partition of the context. -/
def State.bounded (s : State) (ctx key : Nat) : Bool := isDeviceKey key && (s.part (s.ctx ctx).part).allot != 0

/-- How long a store may wait before it is performed, and a clean line before it is taken afresh, in nanoseconds: 10 µs
together where R183 bounds the time, some finite time elsewhere. -/
def State.waitsAtMost (s : State) (ctx key : Nat) (store : Bool) : Nat :=
  let share := Config.performNs % 10001
  if s.bounded ctx key then (if store then share else 10000 - share) else Config.visibleNs

/-- Whether a store in flight has waited that long. -/
def State.storeDue (s : State) (p : PendStore) : Bool :=
  p.items.any fun it => decide (p.since + s.waitsAtMost p.ctx it.key true ≤ s.nowNs)

/-- The same of an atomic. -/
def State.atomDue (s : State) (p : PendAtom) : Bool :=
  p.items.any fun it => decide (p.since + s.waitsAtMost p.ctx it.key true ≤ s.nowNs)

/-- Whether a line of an L1 has waited that long. -/
def State.lineDue (s : State) (l : L1Line) : Bool := decide (l.since + s.waitsAtMost l.ctx (l.line * 128) false ≤ s.nowNs)

/-- Stores and atomics that have waited their time are performed, in the order of their issue, and clean lines that have are
taken afresh. -/
def State.makeVisible (s : State) : State :=
  let s := (s.stores.filter s.storeDue).foldl (fun s p => if s.behind p.id then s else s.finishStore p) s
  let s := (s.atoms.filter s.atomDue).foldl (fun s p =>
    match s.atoms.find? fun q => q.id == p.id with
    | some q => if s.behind q.id then s else s.finishAtom q
    | none => s) s
  { s with l1 := s.l1.map fun l => if s.lineDue l then s.refetched l else l }

/-- CLEAN_LINE_REFETCH (R183): what a core's L1 holds of a line and has not written takes its home's contents. -/
def execCleanLineRefetch (core line : Nat) (s : State) : Host.Outcome State Fault Refusal := .next (s.l1Refresh core line)

end Sys2Proof.Machine
end

