-- ==== Sys2Proof/Machine/Sha.lean ====
section
/-!
DEFINITION. SHA-512, which the digests of save areas, firmware images, reports and portable images use (spec 02, R77; spec 11, R361,
R371, R372). The spec names the algorithm and does not give it: it is that of FIPS 180-4 (PRESUMED, log entry 105).
-/
namespace Sys2Proof.Machine

/-! ### Constants -/

/-- The first n primes. -/
def primes (n : Nat) : List Nat :=
  ((List.range 410).filter fun p => decide (2 ≤ p) && (List.range p).all fun d => decide (d < 2) || p % d != 0).take n

/-- The integer cube root of x: `n` bits of it, below a root found so far. -/
def cubeRoot (x : Nat) : Nat → Nat → Nat
  | 0, r => r
  | n + 1, r => let c := r + 2 ^ n; cubeRoot x n (if c * c * c ≤ x then c else r)

/-- The initial hash value: the first 64 bits of the fractional parts of the square roots of the first 8 primes. -/
def shaInit : List W64 := (primes 8).map fun p => BitVec.ofNat 64 (Nat.sqrt (p * 2 ^ 128))

/-- The round constants: those of the cube roots of the first 80 primes. -/
def shaRounds : List W64 := (primes 80).map fun p => BitVec.ofNat 64 (cubeRoot (p * 2 ^ 192) 68 0)

/-! ### The message -/

/-- The bytes of a number in n bytes, the highest first. -/
def bytesBE (v n : Nat) : List Byte := (bytesLE v n).reverse

/-- A message padded to whole blocks of 128 bytes. -/
def shaPad (m : List Byte) : List Byte :=
  m ++ [0x80] ++ List.replicate ((239 - m.length % 128) % 128) 0 ++ bytesBE (8 * m.length) 16

/-- The 16 words of a block. -/
def shaWords (b : List Byte) : List W64 := (List.range 16).map fun i => BitVec.ofNat 64 (numLE ((b.drop (8 * i)).take 8).reverse)

/-- The message schedule of a block, the latest word first. -/
def shaSchedule (b : List Byte) : List W64 :=
  (List.range 64).foldl (fun w _ =>
    let at_ := fun i => w.getD i 0
    let s0 := (at_ 14).rotateRight 1 ^^^ (at_ 14).rotateRight 8 ^^^ (at_ 14 >>> 7)
    let s1 := (at_ 1).rotateRight 19 ^^^ (at_ 1).rotateRight 61 ^^^ (at_ 1 >>> 6)
    (s1 + at_ 6 + s0 + at_ 15) :: w) (shaWords b).reverse

/-! ### The compression -/

/-- The eight working variables. -/
structure ShaVars where
  a : W64
  b : W64
  c : W64
  d : W64
  e : W64
  f : W64
  g : W64
  h : W64
  deriving DecidableEq, Repr

/-- One round. -/
def ShaVars.round (v : ShaVars) (k w : W64) : ShaVars :=
  let s1 := v.e.rotateRight 14 ^^^ v.e.rotateRight 18 ^^^ v.e.rotateRight 41
  let ch := (v.e &&& v.f) ^^^ (~~~v.e &&& v.g)
  let t1 := v.h + s1 + ch + k + w
  let s0 := v.a.rotateRight 28 ^^^ v.a.rotateRight 34 ^^^ v.a.rotateRight 39
  let maj := (v.a &&& v.b) ^^^ (v.a &&& v.c) ^^^ (v.b &&& v.c)
  ⟨t1 + (s0 + maj), v.a, v.b, v.c, v.d + t1, v.e, v.f, v.g⟩

/-- The sum of two values of the hash, variable by variable. -/
def ShaVars.add (x y : ShaVars) : ShaVars :=
  ⟨x.a + y.a, x.b + y.b, x.c + y.c, x.d + y.d, x.e + y.e, x.f + y.f, x.g + y.g, x.h + y.h⟩

/-- One block. -/
def ShaVars.block (ks : List W64) (v : ShaVars) (b : List Byte) : ShaVars :=
  v.add ((ks.zip (shaSchedule b).reverse).foldl (fun x k => x.round k.1 k.2) v)

/-- The 64 bytes of the SHA-512 digest of a message. -/
def sha512 (m : List Byte) : List Byte :=
  let p := shaPad m
  let i := fun n => shaInit.getD n 0
  let ks := shaRounds
  let v := (List.range (p.length / 128)).foldl (fun x n => x.block ks ((p.drop (128 * n)).take 128))
    (⟨i 0, i 1, i 2, i 3, i 4, i 5, i 6, i 7⟩ : ShaVars)
  [v.a, v.b, v.c, v.d, v.e, v.f, v.g, v.h].flatMap fun w => bytesBE w.toNat 8

/-- A digest as the registers that hold one show it: its first byte lowest. -/
def digestOf (m : List Byte) : BitVec 512 := BitVec.ofNat 512 (numLE (sha512 m))

end Sys2Proof.Machine
end

