-- ==== Sys2Proof/Machine/Area.lean ====
section
/-!
DEFINITION. Save areas: their bytes, which only firmware lays out (spec 11, R361), and the identities in one that comes back
(spec 11, R362).
-/
namespace Sys2Proof.Config

/-- The bytes in which firmware lays out what a save area holds (R361: the layout is the firmware's; log entry 106). -/
opaque areaLayout : Machine.SaveArea → List Byte
/-- What the bytes of an area that this device has not written hold (R361, R362; log entry 106). -/
opaque areaHolds : List Byte → Machine.SaveArea

end Sys2Proof.Config

namespace Sys2Proof.Machine

/-- The 64 KiB units that the bytes of an area take (R363). -/
def areaUnits (bs : List Byte) : Nat := (bs.length + 65535) / 65536

/-! ### Identities

The identities in an area name each other; they come back moved by `d`, above every identity of the device (log entry 4). -/

/-- An operation of an engine command. -/
def EngOp.rebound (d : Nat) (o : EngOp) : EngOp :=
  match o with
  | .tlsig after => .tlsig (after.map fun x => x + d)
  | .resolution l => .resolution (l + d)
  | .completion l => .completion (l + d)
  | .acpy .. | .amcast .. | .agath .. | .ascat .. | .hcpy .. | .acoll .. | .sxpd .. | .spack .. => o

/-- A command. -/
def EngCmd.rebound (d : Nat) (c : EngCmd) : EngCmd := { c with op := c.op.rebound d, acc := c.acc + d }

/-- A task, of context v. -/
def Task.rebound (d v : Nat) (t : Task) : Task :=
  { t with
    id := t.id + d
    launch := t.launch + d
    ctx := v
    cohort := t.cohort.map fun c => c + d
    owners := t.owners.map fun x => (x.1, x.2 + d)
    olds := t.olds.map fun x => { x with warp := x.warp + d, by_ := x.by_ + d }
    eng := t.eng.map fun e => (e.1, { e.2 with cmds := e.2.cmds.map (EngCmd.rebound d) }) }

/-- A sub-path. -/
def Path.rebound (d : Nat) (p : Path) : Path := match p.wait with | .gate g => { p with wait := .gate (g + d) } | _ => p

/-- A warp. -/
def Warp.rebound (d : Nat) (w : Warp) : Warp :=
  { w with
    id := w.id + d
    task := w.task + d
    splits := w.splits.map fun sp => { sp with paths := sp.paths.map (Path.rebound d) }
    recs := w.recs.map fun r => (r.1, r.2.map fun (x : RetRec) => { x with gate := x.gate + d })
    gates := w.gates.map fun g => (g.1 + d, g.2) }

/-- A launch, of context v. -/
def Launch.rebound (d v : Nat) (l : Launch) : Launch :=
  { l with
    id := l.id + d
    ctx := v
    src := match l.src with
      | .launchp t => .launchp (t + d)
      | .tail o => .tail (o + d)
      | .queue .. | .spawn | .fabric => l.src }

/-- An area, of context v. -/
def SaveArea.rebound (a : SaveArea) (d v : Nat) : SaveArea :=
  { a with
    tasks := a.tasks.map (Task.rebound d v)
    warps := a.warps.map (Warp.rebound d)
    gens := a.gens.map fun x => (x.1 + d, x.2)
    queues := a.queues.map fun q => (q.1, { q.2 with last := q.2.last.map fun l => l + d })
    launches := a.launches.map (Launch.rebound d v)
    specIds := a.specIds.map fun x => (x.1 + d, x.2)
    waiters := a.waiters.map fun x => (x.1, match x.2 with | .doubleTrap w => .doubleTrap (w + d) | y => y)
    top := a.top + d }

end Sys2Proof.Machine
end

