-- ==== Sys2Proof/Machine/FloatOps.lean ====
section
/-!
DEFINITION. The typed float instructions (spec 02, R53; spec 04, R123): sources read in the named format whatever
their tags, the exact result rounded once under the unit's prefix.
-/
namespace Sys2Proof.Machine

/-- A source of a float instruction: the exact value of its bits in the format, under FTZ. -/
def U.fsrc (u : U) (f : FFmt) (l : Nat) (r : Reg) : FVal := fmtValue f u.ftz (u.w.getV l r).pay

/-- A float instruction of sources `srcs` writing a word (R123). -/
def State.floatOp (s : State) (op : Nat) (g : Guard) (d : Reg) (srcs : List Reg) (f : U → Nat → Word) :
    Host.Outcome State Fault Refusal :=
  s.onUnit fun u => s.lanes u (longInfo op d 1 0 0) (d :: srcs) srcs (u.acting g) fun l => wordOut d (f u l)

/-- An encoding under the tag of its format. -/
def fmtWord (f : FFmt) (n : Nat) : Word := ⟨f.tag, BitVec.ofNat 64 n⟩

/-- FADD (R123). -/
def execFadd (g : Guard) (f : FFmt) (d a b : Reg) (s : State) : Host.Outcome State Fault Refusal :=
  s.floatOp 0x40 g d [a, b] fun u l => u.round f ((u.fsrc f l a).add u.rm (u.fsrc f l b))
/-- FSUB (R123). -/
def execFsub (g : Guard) (f : FFmt) (d a b : Reg) (s : State) : Host.Outcome State Fault Refusal :=
  s.floatOp 0x41 g d [a, b] fun u l => u.round f ((u.fsrc f l a).add u.rm (u.fsrc f l b).neg)
/-- FMUL (R123). -/
def execFmul (g : Guard) (f : FFmt) (d a b : Reg) (s : State) : Host.Outcome State Fault Refusal :=
  s.floatOp 0x42 g d [a, b] fun u l => u.round f ((u.fsrc f l a).mul (u.fsrc f l b))
/-- FFMA (R123): one rounding. -/
def execFfma (g : Guard) (f : FFmt) (d a b c : Reg) (s : State) : Host.Outcome State Fault Refusal :=
  s.floatOp 0x43 g d [a, b, c] fun u l =>
    u.round f (((u.fsrc f l a).mul (u.fsrc f l b)).add u.rm (u.fsrc f l c))
/-- FDIV (R123, R117). -/
def execFdiv (g : Guard) (f : FFmt) (d a b : Reg) (s : State) : Host.Outcome State Fault Refusal :=
  s.floatOp 0x44 g d [a, b] fun u l => u.round f ((u.fsrc f l a).div (u.fsrc f l b))
/-- FSQRT (R123). -/
def execFsqrt (g : Guard) (f : FFmt) (d a : Reg) (s : State) : Host.Outcome State Fault Refusal :=
  s.floatOp 0x45 g d [a] fun u l => u.round f (u.fsrc f l a).sqrt
/-- FRCP (R123). -/
def execFrcp (g : Guard) (f : FFmt) (d a : Reg) (s : State) : Host.Outcome State Fault Refusal :=
  s.floatOp 0x46 g d [a] fun u l => u.round f ((FVal.ofInt 1).div (u.fsrc f l a))
/-- FRSQ (R123). -/
def execFrsq (g : Guard) (f : FFmt) (d a : Reg) (s : State) : Host.Outcome State Fault Refusal :=
  s.floatOp 0x47 g d [a] fun u l => u.round f (u.fsrc f l a).rsqrt
/-- FMIN (R123, R118). -/
def execFmin (g : Guard) (f : FFmt) (d a b : Reg) (s : State) : Host.Outcome State Fault Refusal :=
  s.floatOp 0x48 g d [a, b] fun u l => u.round f ((u.fsrc f l a).min (u.fsrc f l b))
/-- FMAX (R123, R118). -/
def execFmax (g : Guard) (f : FFmt) (d a b : Reg) (s : State) : Host.Outcome State Fault Refusal :=
  s.floatOp 0x49 g d [a, b] fun u l => u.round f ((u.fsrc f l a).max (u.fsrc f l b))

/-- FCMP (R123, R118). -/
def execFcmp (g : Guard) (f : FFmt) (cc : Cond) (d a b : Reg) (s : State) : Host.Outcome State Fault Refusal :=
  s.onUnit fun u => s.lanes u (longInfo 0x4A d 2 cc.code.toNat f.code.toNat) [a, b] [a, b] (u.acting g) fun l =>
    .ok [.p d (condHolds cc ((u.fsrc f l a).cmp (u.fsrc f l b)))]

/-- The class bit of an encoding (R123). -/
def classBit (f : FSpec) (x : Nat) : Nat :=
  let sub := decide (x % f.signBit / 2 ^ f.fb = 0)
  match decodeF f x with
  | .nan => 8
  | .inf s => if s then 0 else 7
  | .fin s n _ =>
    if n = 0 then (if s then 3 else 4)
    else if sub then (if s then 2 else 5) else (if s then 1 else 6)

/-- FCLASS (R123): FTZ is not applied. -/
def execFclass (g : Guard) (f : FFmt) (d a : Reg) (s : State) : Host.Outcome State Fault Refusal :=
  s.floatOp 0x4B g d [a] fun u l => natWord (2 ^ classBit f.spec ((u.w.getV l a).pay.toNat % 2 ^ f.spec.width))

/-- FEXP2 (R123). -/
def execFexp2 (g : Guard) (f : FFmt) (d a : Reg) (s : State) : Host.Outcome State Fault Refusal :=
  s.floatOp 0x4C g d [a] fun u l => fmtWord f (exp2F f.spec u.rm u.sat u.ftz (u.fsrc f l a))
/-- FLOG2 (R123). -/
def execFlog2 (g : Guard) (f : FFmt) (d a : Reg) (s : State) : Host.Outcome State Fault Refusal :=
  s.floatOp 0x4D g d [a] fun u l => fmtWord f (log2F f.spec u.rm u.sat u.ftz (u.fsrc f l a))
/-- FSIN (R123): radians. -/
def execFsin (g : Guard) (f : FFmt) (d a : Reg) (s : State) : Host.Outcome State Fault Refusal :=
  s.floatOp 0x4E g d [a] fun u l => fmtWord f (trigF false f.spec u.rm u.sat u.ftz (u.fsrc f l a))
/-- FCOS (R123): radians. -/
def execFcos (g : Guard) (f : FFmt) (d a : Reg) (s : State) : Host.Outcome State Fault Refusal :=
  s.floatOp 0x4F g d [a] fun u l => fmtWord f (trigF true f.spec u.rm u.sat u.ftz (u.fsrc f l a))

/-- FCVT (R123): E4M3 and E5M2 from payload[7:0]. -/
def execFcvt (g : Guard) (f : FFmt) (src : SrcFmt) (d a : Reg) (s : State) : Host.Outcome State Fault Refusal :=
  s.floatOp 0x50 g d [a] fun u l =>
    u.round f (readF src.spec u.ftz ((u.w.getV l a).pay.toNat % 2 ^ src.spec.width))
/-- I2F (R123). -/
def execI2f (g : Guard) (f : FFmt) (un : Bool) (d a : Reg) (s : State) : Host.Outcome State Fault Refusal :=
  s.floatOp 0x51 g d [a] fun u l => u.round f (.ofInt (asInt (if un then .u else .s) (u.w.getV l a).pay))
/-- F2I (R123, R40): rz without a prefix, else its RM. -/
def execF2i (g : Guard) (f : FFmt) (un : Bool) (d a : Reg) (s : State) : Host.Outcome State Fault Refusal :=
  s.floatOp 0x52 g d [a] fun u l => intBits (f2i (if u.c.arith.isSome then u.rm else .rz) un (u.fsrc f l a))
/-- FRND (R123): MOD8 gives the rounding; RM of a prefix is ignored. -/
def execFrnd (g : Guard) (f : FFmt) (m : RMode) (d a : Reg) (s : State) : Host.Outcome State Fault Refusal :=
  s.floatOp 0x53 g d [a] fun u l => u.round f ((u.fsrc f l a).integral m)

end Sys2Proof.Machine
end

