-- ==== Sys2Proof/Machine/Packed.lean ====
section
/-!
DEFINITION. The packed instructions and the GX blocks in registers (spec 02, R53; spec 04, R124, R125).
-/
namespace Sys2Proof.Machine

/-- Element j of a packed word (R99). -/
def element (f : FSpec) (x : W64) (j : Nat) : Nat := x.toNat / 2 ^ (f.width * j) % 2 ^ f.width

/-- The elements of a packed word: 64 / w (R99). -/
def elements (f : FSpec) : Nat := 64 / f.width

/-- A packed word from its elements (R99), tag BITS. -/
def packWord (f : FSpec) (n : Nat) (e : Nat → Nat) : Word :=
  ⟨.bits, BitVec.ofNat 64 ((List.range n).foldl (fun acc j => acc + e j * 2 ^ (f.width * j)) 0)⟩

/-- The exact value of element j of a source (R97). -/
def U.elem (u : U) (f : FSpec) (l : Nat) (r : Reg) (j : Nat) : FVal := readF f u.ftz (element f (u.w.getV l r).pay j)

/-- A packed instruction: each element rounded in its element format (R124). -/
def State.packOp (s : State) (op : Nat) (g : Guard) (k : PkFmt) (d : Reg) (srcs : List Reg) (f : U → Nat → Nat → FVal) :
    Host.Outcome State Fault Refusal :=
  s.floatOp op g d srcs fun u l => packWord k.spec (elements k.spec) fun j => roundFmt k.spec u.rm u.sat u.ftz (f u l j)

/-- PADD (R124). -/
def execPadd (g : Guard) (k : PkFmt) (d a b : Reg) (s : State) : Host.Outcome State Fault Refusal :=
  s.packOp 0x54 g k d [a, b] fun u l j => (u.elem k.spec l a j).add u.rm (u.elem k.spec l b j)
/-- PMUL (R124). -/
def execPmul (g : Guard) (k : PkFmt) (d a b : Reg) (s : State) : Host.Outcome State Fault Refusal :=
  s.packOp 0x55 g k d [a, b] fun u l j => (u.elem k.spec l a j).mul (u.elem k.spec l b j)
/-- PFMA (R124). -/
def execPfma (g : Guard) (k : PkFmt) (d a b c : Reg) (s : State) : Host.Outcome State Fault Refusal :=
  s.packOp 0x56 g k d [a, b, c] fun u l j =>
    ((u.elem k.spec l a j).mul (u.elem k.spec l b j)).add u.rm (u.elem k.spec l c j)

/-- PDOT (R124): F32 of the exact C + Σ A_j × B_j, rounded once. -/
def execPdot (g : Guard) (bf : Bool) (d a b c : Reg) (s : State) : Host.Outcome State Fault Refusal :=
  let k : FSpec := if bf then .bf16 else .f16
  s.floatOp 0x57 g d [a, b, c] fun u l =>
    u.round .f32 ((List.range 4).foldl (fun acc j => acc.add u.rm ((u.elem k l a j).mul (u.elem k l b j))) (u.fsrc .f32 l c))

/-- PMAX (R124): as FMAX. -/
def execPmax (g : Guard) (k : PkFmt) (d a b : Reg) (s : State) : Host.Outcome State Fault Refusal :=
  s.packOp 0x58 g k d [a, b] fun u l j => (u.elem k.spec l a j).max (u.elem k.spec l b j)

/-- PCVT (R124): elements below the smaller count; further destination elements are zero. -/
def execPcvt (g : Guard) (src dst : PcFmt) (d a : Reg) (s : State) : Host.Outcome State Fault Refusal :=
  s.floatOp 0x59 g d [a] fun u l =>
    packWord dst.spec (Nat.min (elements src.spec) (elements dst.spec)) fun j =>
      roundFmt dst.spec u.rm u.sat u.ftz (u.elem src.spec l a j)

/-- The names of n registers from a first one. -/
def regRun (r : Reg) (n : Nat) : List Reg := (List.range n).map fun i => r + BitVec.ofNat 8 i

/-- QPACK (R125): the sixteen lanes of a group quantized to one block, which each participating lane
receives; FTZ has no effect on it (R102). -/
def execQpack (g : Guard) (k : GxFmt) (d a : Reg) (s : State) : Host.Outcome State Fault Refusal :=
  s.onUnit fun u =>
    let acting := u.acting g
    let regs := regRun d k.regs
    s.lanes u (longInfo 0x5A d 1 0 0) (regs ++ [a]) [a] acting fun l =>
      let xs := (List.range 16).map fun i =>
        let m := l / 16 * 16 + i
        if m ∈ acting then decodeF .f32 ((u.w.getV m a).pay.toNat % 2 ^ 32) else .zero false
      let block := quantizeGX k xs
      .ok (regs.mapIdx fun i r => .v r ⟨.bits, BitVec.ofNat 64 (block / 2 ^ (64 * i))⟩)

/-- QUNPK (R125): element i of the lane's own block, as F32. -/
def execQunpk (g : Guard) (k : GxFmt) (d a : Reg) (s : State) : Host.Outcome State Fault Refusal :=
  s.onUnit fun u =>
    let regs := regRun a k.regs
    s.lanes u (longInfo 0x5B d 1 0 0) (d :: regs) regs (u.acting g) fun l =>
      let block := regs.foldr (fun r acc => (u.w.getV l r).pay.toNat + acc * 2 ^ 64) 0
      wordOut d ⟨.f32, BitVec.ofNat 64 (roundFmt .f32 .rn false u.ftz (gxValue k block (l % 16)))⟩

end Sys2Proof.Machine
end

