-- ==== Sys2Proof/Machine/MatrixRun.lean ====
section
/-!
DEFINITION. What tile operations do, and the events that accept, apply and complete them (spec 05, R143, R145, R146,
R150, R158 to R162, R171).
-/
namespace Sys2Proof.Machine

/-! ### Operands -/

/-- Element (i, k) of tile t of a descriptor as a tile operation reads it (R139, R145): rows ROWS to 63 are +0. -/
def State.tileElem (s o : State) (t : Task) (d : SDesc) (tile i j : Nat) : List SByte :=
  if d.rows ≤ i then []
  else
    match s.slotTask t (d.base / 2 ^ 19), o.slotTask t (d.base / 2 ^ 19) with
    | some x, some y => mixed s.tick (elementAddress d tile i j) (readElem y d tile i j) (readElem x d tile i j)
    | _, _ => []

/-- The value of an element's bytes; none for a row that does not exist. -/
def elemOrZero (kind : Nat) (bs : List SByte) : FVal := if bs = [] then .zero false else elemValue kind bs

/-- The elements of a descriptor's tiles as they are read now (R150): their bits, none in a row that does not exist, and whether
a poisoned word was read. -/
def State.takeTiles (s o : State) (t : Task) (d : SDesc) : TileSrc :=
  let bs := (List.range d.count).map fun tile => (List.range 4096).map fun e => s.tileElem o t d tile (e / 64) (e % 64)
  .taken d.kind (bs.map fun x => x.map fun b => if b = [] then none else some (numLE (b.map fun y => y.val)))
    (bs.any fun x => x.any fun e => e.any fun b => b.bad.isSome)

/-- The value of a taken element. -/
def takenValue (kind : Nat) : Option Nat → FVal
  | none => .zero false
  | some n => decodeF (kindSpec kind) (n % 2 ^ (kindSpec kind).width)

/-- The tiles of an operand, and whether a poisoned word was read (R142, R146). -/
def State.tilesOf (s o : State) (t : Task) : TileSrc → Tiles × Bool
  | .taken kind ts bad => (ts.map fun x => (x.map (takenValue kind)).toArray, bad)
  | .regs ws =>
    ([((List.range 4096).map fun e => decodeF .c16
      (element .c16 (Table.get .nil ws (e / 64 * 16 + e % 64 / 4)).pay (e % 4))).toArray], false)
  | .desc d =>
    let bs := (List.range d.count).map fun tile => (List.range 4096).map fun e => s.tileElem o t d tile (e / 64) (e % 64)
    (bs.map fun x => (x.map (elemOrZero d.kind)).toArray, bs.any fun x => x.any fun e => e.any fun b => b.bad.isSome)

/-- The slot after a product (R146, R136). -/
def State.productSlot (s o : State) (t : Task) (x : AccSlot) (zero : Bool) (a b : TileSrc) : AccSlot :=
  let ta := s.tilesOf o t a
  let tb := s.tilesOf o t b
  let bad := ta.2 || tb.2
  { x with data := tileProduct zero x.data ta.1 tb.1, poison := bad || (!zero && x.poison) }

/-- The slot after ACCLD (R171, R136). -/
def State.loadSlot (s o : State) (t : Task) (x : AccSlot) (d : SDesc) : AccSlot :=
  let es := (List.range 4096).map fun e => s.tileElem o t d 0 (e / 64) (e % 64)
  { x with
    data := (es.mapIdx fun i b => (i, BitVec.ofNat 32 (roundFmt .f32 .rn false false (elemOrZero d.kind b)))).filter fun c => c.2 != 0
    poison := es.any fun e => e.any fun b => b.bad.isSome }

/-! ### Draining -/

/-- Element (i, j) of a slot, or of its transpose. -/
def AccSlot.elem (x : AccSlot) (trans : Bool) (i j : Nat) : FVal :=
  decodeF .f32 (Table.get 0 x.data (if trans then j * 64 + i else i * 64 + j)).toNat

/-- Poison of origin 4 that a poisoned slot leaves (R136). -/
def AccSlot.bad (x : AccSlot) : Option (Nat × Nat) := if x.poison then some (0, 4) else none

/-- The bytes of a dense tile in memory (R158, R159). -/
def denseRun (x : AccSlot) (trans : Bool) (a : W64) (f : TFmt) : ByteRun :=
  (List.range 64).flatMap fun i =>
    layRun (a.toNat + i * storeBytes f) (encodeRow f ((List.range 64).map fun j => (x.elem trans i j, x.bad)))

/-- The bytes of the rows of a scratchpad destination (R158). -/
def padRun (x : AccSlot) (trans : Bool) (d : SDesc) : ByteRun :=
  (List.range d.rows).flatMap fun i => (List.range 64).flatMap fun j =>
    layRun (elementAddress d 0 i j % 2 ^ 19)
      ((bytesLE (roundFmt (kindSpec d.kind) .rn false false (x.elem trans i j)) (elemBytes d.kind)).map fun b => ⟨b, x.bad⟩)

/-- A drain's copy written (R158, R160): memory at the point its hint names. -/
def State.drainTo (s : State) (t : Task) (op : TileOp) (x : AccSlot) (trans : Bool) : DrainDst → State
  | .memory a f => s.writeRun t.id op.hint op.trs (denseRun x trans a f)
  | .scratch d _ =>
    match s.slotTask t (d.base / 2 ^ 19) with
    | some y => s.onTask y.id fun y => y.writeScratch (padRun x trans d)
    | none => s

/-- The sum of a destination element and an accumulator element (R161). -/
def addElem (f : TFmt) (old : Nat) (x : FVal) : Nat :=
  roundFmt (storeSpec f) .rn false false ((decodeF (storeSpec f) old).add .rn x)

/-- The store items of an add-on-store to memory (R161): poisoned words and lines stay, the rest takes its sum. -/
def addItems (m : Mem) (trs : List (Nat × Trans)) (x : AccSlot) (a : W64) (f : TFmt) : List StoreItem :=
  let z := (storeSpec f).width / 8
  (List.range (4096 * z / 8)).flatMap fun w =>
    match transKey trs (a.toNat + 8 * w) with
    | none => []
    | some (tr, k) =>
      if (tr.tagged && m.tag k == .poison) || (!tr.tagged && m.marked k) then []
      else
        let vs := (List.range (8 / z)).map fun q =>
          let e := w * (8 / z) + q
          addElem f (m.read (k + q * z) z) (x.elem false (e / 64) (e % 64))
        [⟨k, 8, BitVec.ofNat 64 (vs.foldr (fun v acc => v + acc * 2 ^ (8 * z)) 0), if tr.tagged then some .bits else none, false⟩]

/-- An add-on-store to scratchpad: poisoned words stay (R161). -/
def addPad (y : Task) (x : AccSlot) (d : SDesc) : Task :=
  (List.range d.rows).foldl (fun y i => (List.range 64).foldl (fun y j =>
    let o := elementAddress d 0 i j % 2 ^ 19
    let z := elemBytes d.kind
    if y.smark o then y
    else y.sstore o z (BitVec.ofNat 64 (roundFmt (kindSpec d.kind) .rn false false
      ((decodeF (kindSpec d.kind) (y.sread o z)).add .rn (x.elem false i j))))) y) y

/-- The update of a DRAIN.ADD, indivisible and at the home (R161). -/
def State.addOn (s : State) (t : Task) (op : TileOp) (x : AccSlot) : DrainDst → State
  | .memory a f =>
    if x.poison then s.writeRun t.id 6 op.trs (denseRun x false a f)
    else
      let keys := (List.range (64 * storeBytes f / 128)).filterMap fun l => (transKey op.trs (a.toNat + 128 * l)).map fun y => y.2
      let s := s.l1WriteBack fun l => l.core == t.core && decide (l.line ∈ keys.map (· / 128))
      let pages := distinct (op.trs.map fun y => y.2.gpa / 65536)
      s.perform none t.core t.ctx 6 (addItems s.mem op.trs x a f) pages
  | .scratch d _ =>
    match s.slotTask t (d.base / 2 ^ 19) with
    | some y => s.onTask y.id fun y => if x.poison then y.writeScratch (padRun x false d) else addPad y x d
    | none => s

/-! ### The events -/

/-- A tile operation in flight. -/
def State.tile? (s : State) (id : Nat) : Option TileOp := s.tiles.find? fun x => x.id == id

/-- Whether the matrix engine may accept an operation (R143): it has none accepted, and the operation is the first of its
warp that it has not accepted; all the products of a latch together (R150). -/
def State.canAccept (s : State) (op : TileOp) : Bool :=
  !op.accepted && !(s.tiles.any fun x => x.core == op.core && x.accepted) &&
  (s.tiles.filter fun x => x.id == op.id || (op.gang != 0 && x.gang == op.gang)).all fun y =>
    ((s.tiles.find? fun x => x.warp == y.warp && !x.accepted).map fun x => x.id) == some y.id

/-- An operation accepted, if it may be. -/
def State.acceptTile (s : State) (id : Nat) : State :=
  match s.tile? id with
  | none => s
  | some op =>
    if s.canAccept op then
      let seen : Snap := { s.snap with mem := .empty, l1 := [] }
      { s with tiles := s.tiles.map fun x =>
          if x.id = id ∨ (op.gang ≠ 0 ∧ x.gang = op.gang) then { x with accepted := true, seen := some seen } else x }
    else s

/-- TILE_OP_ACCEPT (R143, R150). -/
def execTileOpAccept (id : Nat) (s : State) : Host.Outcome State Fault Refusal := .next (s.acceptTile id)

/-- Whether an operation is the one the matrix engine of its core applies: the first it has accepted. -/
def State.applies (s : State) (op : TileOp) : Bool :=
  op.accepted && ((s.tiles.find? fun x => x.core == op.core && x.accepted).map fun x => x.id) == some op.id

/-- Whether an earlier store or atomic of the split of a DRAIN still has to be performed at its destination (R162, R181). -/
def State.drainBehind (s : State) (op : TileOp) : Bool :=
  (s.stores.any fun p => op.prior.contains p.id && p.items.any fun it => op.lines.contains (it.key / 128)) ||
  s.atoms.any fun p => op.prior.contains p.id && p.items.any fun it => op.lines.contains (it.key / 128)

/-- The sums of an accepted DRAIN.ADD applied (R161). -/
def State.updateTile (s : State) (id : Nat) : State :=
  match s.tile? id with
  | none => s
  | some op =>
    match op.act, s.task? op.task with
    | .drainAdd dst, some t =>
      match t.slot? op.slot with
      | some x =>
        if s.applies op && !op.updated && !s.drainBehind op then
          let s := s.addOn t op x dst
          { s with tiles := s.tiles.map fun y => if y.id = id then { y with updated := true } else y }
        else s
      | none => s
    | _, _ => s

/-- TROWEL_UPDATE (R161): the sums are applied at one instant. -/
def execTrowelUpdate (id : Nat) (s : State) : Host.Outcome State Fault Refusal := .next (s.updateTile id)

/-- What a tile operation's sources held when it was accepted. -/
def State.tileSeen (s : State) (op : TileOp) : State :=
  match op.seen with
  | some sn => { s.back (some { sn with mem := s.mem, l1 := s.l1 }) with tick := s.tick }
  | none => s

/-- A tile operation applied to its slot. DESIGN CHOICE (log entry 119): where the two copies of a DRAIN.T overlap, the transposed one is
written last. -/
def State.applyTile (s : State) (t : Task) (op : TileOp) (x : AccSlot) : State :=
  let o := s.tileSeen op
  match op.act with
  | .product zero a b => s.setTask (t.setSlot (s.productSlot o t x zero a b))
  | .accld d => s.setTask (t.setSlot (s.loadSlot o t x d))
  | .drain dst tdst =>
    let s := s.drainTo t op x false dst
    match tdst with
    | some y => s.drainTo t op x true y
    | none => s
  | .drainAdd _ => s

/-- A is read once for the products of a latch (R150): the first of them to complete takes it for all. -/
def State.takeA (s : State) (t : Task) (op : TileOp) : State × TileOp :=
  match op.act with
  | .product z (.desc d) b =>
    if op.gang = 0 then (s, op)
    else
      let a := s.takeTiles (s.tileSeen op) t d
      let take := fun (x : TileOp) => match x.act with
        | .product z' _ b' => if x.gang = op.gang then { x with act := .product z' a b' } else x
        | _ => x
      ({ s with tiles := s.tiles.map take }, { op with act := .product z a b })
  | _ => (s, op)

/-- The stores to memory of a destination of DRAIN. -/
def drainStores (op : TileOp) (x : AccSlot) (trans : Bool) (d : DrainDst) : List StoreItem :=
  match d with
  | .memory a f => runItems op.trs (denseRun x trans a f)
  | .scratch _ _ => []

/-- Whether the L2 has room for the lines of a DRAIN of a speculative task (R208). -/
def State.drainRoom (s : State) (t : Task) (op : TileOp) (x : AccSlot) : Bool :=
  match op.act with
  | .drain dst tdst => s.specFits t (drainStores op x false dst ++ (tdst.map (drainStores op x true)).getD [])
  | .product _ _ _ | .drainAdd _ | .accld _ => true

/-- An accepted operation applied whole, if it may be; path 5 falls (R143, R146). -/
def State.completeTile (s : State) (id : Nat) : State :=
  match s.tile? id with
  | none => s
  | some op =>
    match s.task? op.task with
    | none => s
    | some t =>
      match t.slot? op.slot with
      | none => s
      | some x =>
        if s.applies op && !s.drainBehind op && s.drainRoom t op x && (op.updated || (match op.act with | .drainAdd _ => false | _ => true)) then
          let r := s.takeA t op
          let s := (r.1.applyTile ((r.1.task? op.task).getD t) r.2 x).drawn
          ({ s with tiles := s.tiles.filter fun y => y.id != id }).completeAcc id
        else s

/-- TILE_OP_COMPLETE (R143, R146). -/
def execTileOpComplete (id : Nat) (s : State) : Host.Outcome State Fault Refusal := .next (s.completeTile id)

/-! ### Visibility in finite time (R183; log entry 101) -/

/-- Whether a drain to memory has waited as long as a store may. -/
def State.tileDue (s : State) (op : TileOp) : Bool :=
  op.lines.any fun k => decide (op.since + s.waitsAtMost (((s.task? op.task).map fun t => t.ctx).getD 0) (k * 128) true ≤ s.nowNs)

/-- Drains that have waited their time are performed, and what their core's matrix engine has to do before them. -/
def State.drainVisible (s : State) : State :=
  let due := s.tiles.filter s.tileDue
  (s.tiles.filter fun x => due.any fun y => y.core == x.core && decide (x.id ≤ y.id)).foldl (fun s x =>
    ((s.acceptTile x.id).updateTile x.id).completeTile x.id) s

end Sys2Proof.Machine
end

