-- ==== Sys2Proof/Machine/Swienek.lean ====
section
/-!
DEFINITION. Portable images (spec 02, R74 to R78): their header, the functions that an image carries, their translation by the
firmware, and the cache of translated images. What an operation of a function means stands in SwienekRun.lean.
-/
namespace Sys2Proof.Machine

/-! ### Functions (R75) -/

/-- The type of a value (R75): a tag, a number format in a word of packed or narrow numbers, a predicate, or the dynamic type, which
admits any tag. -/
inductive SwTy where
  | tagged (t : Tag)
  | packed (f : PcFmt)
  | narrow (f : GxFmt)
  | pred
  | dyn
  deriving DecidableEq, Repr

/-- A value of one thread. -/
inductive SwVal where
  | word (x : Word)
  | bool (b : Bool)
  deriving DecidableEq, Repr

/-- Whether a type admits a value: packed and narrow numbers lie in words of tag BITS (R84). -/
def SwTy.admits (t : SwTy) (x : SwVal) : Bool :=
  match t, x with
  | .tagged t, .word w => w.tag == t
  | .packed _, .word w => w.tag == .bits
  | .narrow _, .word w => w.tag == .bits
  | .dyn, .word _ => true
  | .pred, .bool _ => true
  | .tagged _, .bool _ | .packed _, .bool _ | .narrow _, .bool _ | .dyn, .bool _ | .pred, .word _ => false

/-- An operation (R75): a native instruction, its registers standing for virtual ones, with its modifiers and, for a memory operation,
its scope hint. `uses` and `preds` say which value stands in
which lane register and predicate of the instruction, `defs` and `pdefs` which value each register it writes defines; `width` is the
width that a cross-lane operation names. -/
structure SwOp where
  instr : Instr
  arith : Option ArithPrefix
  place : Option PlacePrefix
  width : Option Nat
  uses : List (Reg × Nat)
  preds : List (Reg × Nat)
  defs : List (Reg × Nat × SwTy)
  pdefs : List (Reg × Nat)
  deriving DecidableEq, Repr

/-- How a block ends: it goes on at another with the values of that one's parameters, or the thread ends. -/
inductive SwEnd where
  | jump (blk : Nat) (args : List Nat)
  | branch (p : Nat) (yes : Nat) (yesArgs : List Nat) (no : Nat) (noArgs : List Nat)
  | exit
  deriving DecidableEq, Repr

/-- A block. `marker` is the convergence marker that stands at its start: the block whose branch it names (R75). -/
structure SwBlock where
  params : List (Nat × SwTy)
  marker : Option Nat
  ops : List SwOp
  ending : SwEnd
  deriving DecidableEq, Repr

/-- A function: its blocks, of which the first is entered. -/
structure SwFn where
  blocks : List SwBlock
  deriving DecidableEq, Repr

/-- The values a block defines. -/
def SwBlock.defines (b : SwBlock) : List Nat :=
  b.params.map (fun p => p.1) ++ b.ops.flatMap fun o => o.defs.map (fun d => d.2.1) ++ o.pdefs.map fun d => d.2

/-- The blocks a block goes on at, with the number of values it hands over. -/
def SwEnd.targets : SwEnd → List (Nat × Nat)
  | .jump b xs => [(b, xs.length)]
  | .branch _ y ys n ns => [(y, ys.length), (n, ns.length)]
  | .exit => []

/-- The values an ending uses. -/
def SwEnd.uses : SwEnd → List Nat
  | .jump _ xs => xs
  | .branch p _ ys _ ns => p :: ys ++ ns
  | .exit => []

/-- The values that are there at the start of each block, whatever the way to it: what `known` holds so far, narrowed to what every
block that goes on there has. -/
def SwFn.narrow (f : SwFn) (known : List (List Nat)) : List (List Nat) :=
  known.mapIdx fun i xs => xs.filter fun x =>
    (f.blocks.mapIdx fun j b => (j, b)).all fun jb =>
      !((jb.2.ending.targets.any fun t => t.1 == i)) || (known.getD jb.1 []).contains x || jb.2.defines.contains x

/-- The values there at the start of each block: the first block has none. -/
def SwFn.there (f : SwFn) : List (List Nat) :=
  let every := f.blocks.flatMap SwBlock.defines
  (List.range (f.blocks.length * every.length)).foldl (fun k _ => f.narrow k) (f.blocks.mapIdx fun i _ => if i = 0 then [] else every)

/-- Whether the operations of a block use only values that are there before them. -/
def opsKnown : List SwOp → List Nat → Bool
  | [], _ => true
  | o :: os, known =>
    ((o.uses.map (fun x => x.2) ++ o.preds.map fun x => x.2).all fun x => known.contains x) &&
      opsKnown os (o.defs.map (fun d => d.2.1) ++ o.pdefs.map (fun d => d.2) ++ known)

/-- Operations that combine lanes (R127 to R134), which name their width (R75). -/
def crossLane : Instr → Bool
  | .shflx .. | .shfl .. | .vote .. | .rdx .. | .scan .. | .segrdx .. | .matchv .. | .bcast .. | .lanesel .. | .smovFromLane .. => true
  | _ => false

/-- The type of a value of a function; none of one that it does not define. -/
def SwFn.typeOf (f : SwFn) (x : Nat) : Option SwTy :=
  f.blocks.findSome? fun b =>
    ((b.params.find? fun p => p.1 == x).map fun p => p.2).or
      (b.ops.findSome? fun o => ((o.defs.find? fun d => d.2.1 == x).map fun d => d.2.2).or
        (if o.pdefs.any fun d => d.2 == x then some .pred else none))

/-- Whether a value may stand where a type is asked for: the dynamic type admits every word (R75). -/
def SwTy.takes (t : SwTy) (x : Option SwTy) : Bool :=
  match x with
  | none => false
  | some y => t == y || (t == .dyn && y != .pred)

/-- Whether a block gives every operation words and predicates where it takes them, branches on a predicate, and hands over values of
the types that the next block's parameters ask for. -/
def SwFn.typed (f : SwFn) (b : SwBlock) : Bool :=
  let handed := fun (t : Nat) (xs : List Nat) =>
    (((f.blocks[t]?).map fun y => y.params).getD []).zip xs |>.all fun p => p.1.2.takes (f.typeOf p.2)
  (b.ops.all fun o => (o.uses.all fun x => SwTy.dyn.takes (f.typeOf x.2)) && o.preds.all fun x => f.typeOf x.2 == some .pred) &&
  (match b.ending with
    | .jump t xs => handed t xs
    | .branch p y ys n ns => f.typeOf p == some .pred && handed y ys && handed n ns
    | .exit => true)

/-- Typed static single-assignment form (R75): every value is defined once and before its uses, a block receives a value for each of
its parameters, the types agree, a marker names a branch, and exactly the cross-lane operations name a width. -/
def SwFn.wf (f : SwFn) : Bool :=
  let defs := f.blocks.flatMap SwBlock.defines
  decide (0 < f.blocks.length) && decide (distinct defs = defs) &&
  (f.blocks.mapIdx fun i b => (i, b)).all fun ib =>
    let known := ib.2.params.map (fun p => p.1) ++ f.there.getD ib.1 []
    opsKnown ib.2.ops known && f.typed ib.2 &&
    (ib.2.ending.uses.all fun x => known.contains x || ib.2.defines.contains x) &&
    (ib.2.ending.targets.all fun t => ((f.blocks[t.1]?).map fun b => b.params.length) == some t.2) &&
    (ib.2.ops.all fun o => o.width.isSome == crossLane o.instr) &&
    (match ib.2.marker with
      | none => true
      | some m => (f.blocks[m]?).any fun (b : SwBlock) => b.ending.targets.length == 2)

/-- A kernel (R76): the function it enters, and the registers and the width that its role declares. -/
structure SwKernel where
  fn : Nat
  regs : Nat
  width : Nat
  deriving DecidableEq, Repr

/-- What a translation makes (R76): the code; the word at which each kernel begins, each block by function and number, and each operation
by function, block and place; the lane registers that the values of each function stand in; and the words of the spill area that the
values which spill stand in. -/
structure SwCode where
  words : List W32
  kernels : List Nat
  blocks : List (Nat × Nat × Nat)
  ops : List (Nat × Nat × Nat × Nat)
  regs : List (Nat × Nat × Reg)
  spills : List (Nat × Nat × Nat)
  deriving DecidableEq, Repr, Inhabited

/-! ### The image (R74) -/

/-- Bytes [o, o + n) of an image as a number. -/
def imgNum (img : List Byte) (o n : Nat) : Nat := numLE ((img.drop o).take n)

/-- The section entries of an image: kind, zero, offset, size. -/
def imgSections (img : List Byte) : List (Nat × Nat × Nat × Nat) :=
  (List.range (Nat.min (imgNum img 12 4) 64)).map fun i =>
    let o := 24 + 16 * i
    (imgNum img o 4, imgNum img (o + 4) 4, imgNum img (o + 8) 4, imgNum img (o + 12) 4)

/-- Whether two runs of bytes overlap. -/
def runsMeet (a b : Nat × Nat × Nat × Nat) : Bool :=
  decide (0 < a.2.2.2) && decide (0 < b.2.2.2) && decide (a.2.2.1 < b.2.2.1 + b.2.2.2) && decide (b.2.2.1 < a.2.2.1 + a.2.2.2)

/-- Whether each of some sections keeps clear of those behind it. -/
def sectionsApart : List (Nat × Nat × Nat × Nat) → Bool
  | [] => true
  | x :: xs => !(xs.any fun y => runsMeet x y) && sectionsApart xs

/-- The header rules of R74. -/
def imageFormed (img : List Byte) : Bool :=
  decide (24 ≤ img.length) && decide (imgNum img 0 4 = 0x4B4E5753) && decide (imgNum img 4 2 = 1) &&
  decide (1 ≤ imgNum img 6 2) && decide (imgNum img 6 2 ≤ 3) && decide (imgNum img 8 4 < 8) &&
  decide (1 ≤ imgNum img 12 4) && decide (imgNum img 12 4 ≤ 64) && decide (imgNum img 16 8 = img.length) &&
  decide (24 + 16 * imgNum img 12 4 ≤ img.length) &&
  ((imgSections img).all fun x => decide (1 ≤ x.1) && decide (x.1 ≤ 5) && x.2.1 == 0 && decide (x.2.2.1 + x.2.2.2 ≤ img.length)) &&
  sectionsApart (imgSections img)

/-- The options word of an image (R74). -/
def imageOptions (img : List Byte) : Nat := imgNum img 8 4

end Sys2Proof.Machine

namespace Sys2Proof.Config

/-- The functions and kernels that an image carries, or the offset of the section at which its translation fails (R75, R76): the spec
gives the contents of no section (log entry 90). -/
opaque imageContents : List Byte → Except Nat (List Machine.SwFn × List Machine.SwKernel)
/-- The native code that the firmware makes of them (R76), by the level of the code and the options word of their image (R74): the
registers, the places and the spills are its choice (log entry 90). -/
opaque nativeCode : List Machine.SwFn → List Machine.SwKernel → Nat → Nat → Machine.SwCode
/-- The tagged stack area that the runtime names at a translation, if it names one (R76), and its words. -/
opaque spillArea : List Byte → Option Nat
/-- Where in the addresses of a context the code of an entry of the image cache is fetched (R77, R78; log entry 90): by the key, the level
and the options word. -/
opaque imageAddr : BitVec 512 → Nat → Nat → Option Nat

end Sys2Proof.Config

namespace Sys2Proof.Machine

/-! ### Translation (R76) -/

/-- The units of some words of code with their places, up to a word that begins none. -/
def codeUnits : Nat → Nat → List W32 → List (Nat × Decoded)
  | 0, _, _ => []
  | n + 1, at_, ws =>
    match decodeWords 0 .start ws with
    | .ok (u, rest) => (at_, u) :: codeUnits n (at_ + (ws.length - rest.length)) rest
    | .error _ => []

/-- The modifiers of an operation under the options word of its image: bit 0 is FTZ by default (R74), each instruction keeping the
rounding it has without a prefix. -/
def SwOp.modifiers (o : SwOp) (options : Nat) : Option ArithPrefix :=
  match o.arith with
  | some a => some a
  | none =>
    let mode : RMode := match o.instr with | .f2i .. => .rz | _ => .rn
    if options % 2 = 1 ∧ acceptsArith o.instr = true then some ⟨mode, false, true, false⟩ else none

/-- The register fields of a unit's words (R36, R38): D, A and B, and C of the long form. -/
def regFields : List W32 → List Reg
  | [] => []
  | w :: ws =>
    if w.extractLsb' 0 2 = 0 then [w.extractLsb' 8 8, w.extractLsb' 16 8, w.extractLsb' 24 8]
    else [w.extractLsb' 10 8, w.extractLsb' 18 8] ++ match ws with | [] => [] | x :: _ => [x.extractLsb' 0 8, x.extractLsb' 8 8]

/-- A unit's words without these fields. -/
def bareWords : List W32 → List W32
  | [] => []
  | w :: ws =>
    if w.extractLsb' 0 2 = 0 then (w &&& 0xFF) :: ws
    else (w &&& 0xFC0003FF) :: match ws with | [] => [] | x :: xs => (x &&& 0xFFFF0000) :: xs

/-- The values of an operation that stand in a register of its instruction. -/
def SwOp.valuesIn (o : SwOp) (r : Reg) : List Nat :=
  ((o.uses.filter fun x => x.1 == r).map fun x => x.2) ++ (o.defs.filter fun d => d.1 == r).map fun d => d.2.1

/-- Whether a unit is an operation of a function, its values in the registers assigned to them, its hint and its modifiers its own. -/
def SwOp.isUnit (o : SwOp) (c : SwCode) (fn options : Nat) (d : Decoded) : Bool :=
  let a := encode o.instr
  let b := encode d.instr
  d.place == o.place && d.arith == o.modifiers options && bareWords a == bareWords b &&
  ((regFields a).zip (regFields b)).all fun x =>
    match o.valuesIn x.1 with
    | [] => x.1 == x.2
    | vs => vs.all fun v => c.regs.contains (fn, v, x.2)

/-- The word at which a block of the code begins. -/
def SwCode.blockAt (c : SwCode) (fn b : Nat) : Option Nat := (c.blocks.find? fun x => x.1 == fn && x.2.1 == b).map fun x => x.2.2

/-- The word at which an operation stands. -/
def SwCode.opAt (c : SwCode) (fn b i : Nat) : Option Nat := (c.ops.find? fun x => x.1 == fn && x.2.1 == b && x.2.2.1 == i).map fun x => x.2.2.2

/-- Whether some places rise. -/
def rising : List Nat → Bool
  | x :: y :: r => decide (x < y) && rising (y :: r)
  | _ => true

/-- The operations of a block stand in the code in their order (R76). -/
def SwCode.hasBlock (c : SwCode) (us : List (Nat × Decoded)) (fn options : Nat) (b : Nat × SwBlock) : Bool :=
  let at_ := b.2.ops.mapIdx fun i o => (o, c.opAt fn b.1 i)
  (c.blockAt fn b.1).isSome && rising ((c.blockAt fn b.1).toList ++ (at_.filterMap fun x => x.2).map fun x => x + 1) &&
  at_.all fun x => match x.2 with
    | none => false
    | some p => us.any fun u => u.1 == p && x.1.isUnit c fn options u.2

/-- The places of the convergence markers (R76). -/
def SwCode.markersAt (c : SwCode) (fs : List SwFn) : List Nat :=
  (fs.mapIdx fun k f => (f.blocks.mapIdx fun i b => (i, b)).filterMap fun ib => if ib.2.marker.isSome then c.blockAt k ib.1 else none).flatten

/-- The registers of a kernel stay below what its role declares, and every value of its function stands in one or in a word of the spill
area, of `area` words. -/
def SwCode.fitsRole (c : SwCode) (fs : List SwFn) (area : Nat) (k : SwKernel) : Bool :=
  (c.regs.all fun r => r.1 != k.fn || decide (r.2.2.toNat < k.regs)) &&
  (c.spills.all fun x => decide (x.2.2 < area)) && distinct (c.spills.map fun x => x.2.2) == c.spills.map (fun x => x.2.2) &&
  (match fs[k.fn]? with
    | none => false
    | some f => (f.blocks.flatMap SwBlock.defines).all fun v => f.typeOf v == some .pred ||
        (c.regs.any fun r => r.1 == k.fn && r.2.1 == v) || c.spills.any fun x => x.1 == k.fn && x.2.1 == v)

/-- What a translation keeps (R74, R76): each operation in its place and order with its modifiers, a JOIN at each convergence marker and
at no other point, the registers of the roles, widths that the roles allow, and legacy width from the start where bit 1 of the options asks
for it. -/
def SwCode.keeps (c : SwCode) (fs : List SwFn) (ks : List SwKernel) (options area : Nat) : Bool :=
  let us := codeUnits c.words.length 0 c.words
  ((fs.mapIdx fun k f => (k, f)).all fun kf => (kf.2.blocks.mapIdx fun i b => (i, b)).all fun b => c.hasBlock us kf.1 options b) &&
  ((us.filter fun u => u.2.instr == .join).map fun u => u.1) == sortBy id (c.markersAt fs) &&
  ks.all (c.fitsRole fs area) &&
  (ks.mapIdx fun i k => (i, k)).all fun ik =>
    (us.any fun u => some u.1 == c.kernels[ik.1]? && (match u.2.instr with | .legacyEnter _ => true | _ => false)) == decide (options / 2 % 2 = 1) &&
    ((fs[ik.2.fn]?).map fun f => f.blocks.all fun b => b.ops.all fun o => match o.width with | some n => decide (n ≤ ik.2.width) | none => true) == some true

/-- An image translated (R76): native code of the device's level that keeps what R76 asks for, or the offset
of the section that fails. DESIGN CHOICE (log entry 117): a function that is not in the form of R75, and a kernel for which there is no such
code, fails at the first section of kind 2, at offset 0 where the image has none. -/
def translateImage (img : List Byte) : Except Nat SwCode :=
  match Config.imageContents img with
  | .error o => .error o
  | .ok (fs, ks) =>
    let code := Config.nativeCode fs ks deviceLevel (imageOptions img)
    if (fs.all SwFn.wf) && code.keeps fs ks (imageOptions img) ((Config.spillArea img).getD 0) then .ok code
    else .error ((((imgSections img).find? fun x => x.1 == 2).map fun x => x.2.2.1).getD 0)

/-! ### The cache (R77, R78) -/

/-- Whether an entry is the one for an image: its key is the digest of the whole image, the level of the code and the options word. -/
def ImgEntry.isFor (e : ImgEntry) (img : List Byte) : Bool :=
  e.key == digestOf img && e.level == deviceLevel && e.options == imageOptions img

/-- Whether a requester sees an entry; 96 is the physical function's context. -/
def ImgEntry.shown (e : ImgEntry) (vf : Nat) : Bool := if vf = 96 then e.pf else e.mask.getLsbD vf

/-- An entry made visible to a requester, and used at a time. A request for an entry is what counts as its use (DESIGN CHOICE, log
entry 90: the spec does not say what counts). -/
def ImgEntry.show (e : ImgEntry) (vf used : Nat) : ImgEntry :=
  if vf = 96 then { e with pf := true, used := used } else { e with mask := e.mask ||| ((1 : BitVec 96) <<< vf), used := used }

/-- An entry hidden from a requester. -/
def ImgEntry.hide (e : ImgEntry) (vf : Nat) : ImgEntry :=
  if vf = 96 then { e with pf := false } else { e with mask := e.mask &&& ~~~((1 : BitVec 96) <<< vf) }

/-- A function reset or destroyed: its bit is cleared in every entry, and an entry that nobody sees is freed (R78). -/
def State.forgetImages (s : State) (v : Nat) : State :=
  { s with dev := { s.dev with images := (s.dev.images.map fun e => e.hide v).filter fun e => e.pf || e.mask != 0 } }

/-- The cache with the least recently used entry gone when it is full (R78). -/
def evictImage (room : Nat) (es : List ImgEntry) : List ImgEntry :=
  if es.length < room then es
  else
    match sortBy (fun e => e.used) es with
    | [] => []
    | old :: _ => es.filter fun e => e.used != old.used

/-- The code that a context may execute of an image: that of the entry it sees (R77, R78). -/
def State.imageCode (s : State) (vf : Nat) (img : List Byte) : Option (List W32) :=
  (s.dev.images.find? fun e => e.isFor img && e.shown vf).map fun e => e.code

/-- The entry from which a context fetches at an address, and the address of its first word (R78): translated code stands nowhere else. -/
def State.imageAt (s : State) (ctx va : Nat) : Option (ImgEntry × Nat) :=
  s.dev.images.findSome? fun e =>
    if e.shown ctx then
      (Config.imageAddr e.key e.level e.options).bind fun a => if a ≤ va ∧ va < a + 4 * e.code.length then some (e, a) else none
    else none

/-- A line of instructions as an entry gives it. -/
def ImgEntry.line (e : ImgEntry) (core ctx line a : Nat) : ILine :=
  ⟨core, ctx, line, (List.range 128).map fun i =>
    let k := line * 128 + i - a
    if line * 128 + i < a then 0 else (e.code.getD (k / 4) 0).extractLsb' (8 * (k % 4)) 8, false⟩

/-- A fetch from an entry: the line that it leaves in the core's instruction cache carries the fetching context's id (R77). -/
def State.fetchImage (s : State) (core ctx line : Nat) (e : ImgEntry) (a : Nat) : State × ILine :=
  match s.icache.find? fun l => l.core == core && l.ctx == ctx && l.line == line with
  | some l => (s, l)
  | none => let l := e.line core ctx line a; ({ s with icache := s.icache ++ [l] }, l)

/-- A request of the firmware refused with an error (R74, R76). -/
def State.imageRefused (s : State) (e : ImgError) : State :=
  { s with dev := { s.dev with reply := none, imgErr := some e } }

/-- SWIENEK_TRANSLATE (R74 to R78): a malformed image is refused, and so is one that cannot be translated, with the offset of its
section; the entry of a known image becomes visible to the requester without a translation, and a new one is translated and kept. -/
def execSwienekTranslate (vf : Nat) (img : List Byte) (s : State) : Host.Outcome State Fault Refusal :=
  .next <|
    let f := s.fresh
    let s := f.2
    if !imageFormed img || decide (96 < vf) then s.imageRefused .malformed
    else if (s.dev.images.any fun e => e.isFor img) then
      { s with dev := { s.dev with reply := some [], imgErr := none, images := s.dev.images.map fun e => if e.isFor img then e.show vf f.1 else e } }
    else
      match translateImage img with
      | .error o => s.imageRefused (.failed o)
      | .ok code =>
        let debug := if imageOptions img / 4 % 2 = 1 then some code.ops else none
        let e := (⟨digestOf img, deviceLevel, imageOptions img, code.words, debug, 0, false, 0⟩ : ImgEntry).show vf f.1
        { s with dev := { s.dev with reply := some [], imgErr := none, images := evictImage Config.imageRoom s.dev.images ++ [e] } }

end Sys2Proof.Machine
end

