-- ==== Sys2Proof/Machine/System.lean ====
section
/-!
DEFINITION. The special registers and the system instructions (spec 11, R349 to R357; spec 10, R310; spec 07, R225).
-/
namespace Sys2Proof.Machine

/-! ### Special registers (R349) -/

/-- The lowest level that reads a special register, and the lowest that writes it, if any does. -/
def sprAccess (n : Nat) : Option (Nat × Option Nat) :=
  match n with
  | 0x000 => some (0, none)
  | 0x001 => some (0, some 1)
  | 0x002 | 0x003 | 0x004 | 0x005 | 0x006 | 0x007 | 0x008 | 0x009 => some (1, some 1)
  | 0x010 | 0x011 => some (0, some 1)
  | 0x020 => some (0, some 1)
  | 0x021 => some (0, none)
  | 0x030 => some (0, none)
  | 0x031 => some (1, none)
  | 0x032 => some (0, none)
  | 0x040 | 0x041 | 0x042 => some (0, none)
  | _ => none

/-- IDENT (R370). -/
def identWord : W64 := BitVec.ofNat 64 (0x1B57 + 0x0960 * 2 ^ 16 + Config.stepping.toNat * 2 ^ 32 + deviceLevel * 2 ^ 40)
/-- FWREL (R349): major 3, or the release in the header of the image that runs (R371). -/
def State.fwrel (s : State) : W64 :=
  if s.dev.image = [] then BitVec.ofNat 64 (Config.fwMinorPatch.toNat + 3 * 2 ^ 32)
  else BitVec.ofNat 64 (numLE ((s.dev.image.drop 4).take 8))
/-- The major release of the firmware that runs (R349, R362). -/
def State.fwMajor (s : State) : Nat := bits s.fwrel 47 32
/-- SCOPECTL (R190). -/
def Ctx.scopectl (c : Ctx) : W64 :=
  BitVec.ofNat 64 (c.scopeLimit + (if c.scopeClamp then 8 else 0) + (if c.scopeClamped then 16 else 0))
/-- A special register as the executing split reads it (R349, R351). -/
def U.sysRead (u : U) (s : State) (n : Nat) : W64 :=
  let c := s.ctx u.t.ctx
  match n with
  | 0x000 => BitVec.ofNat 64 u.sp.pl
  | 0x001 => u.t.htab
  | 0x002 => c.ttab
  | 0x003 => u.sp.frame.epc
  | 0x004 => u.sp.frame.cause
  | 0x005 => u.sp.frame.fm0
  | 0x006 => u.sp.frame.fm1
  | 0x007 => u.sp.frame.tval
  | 0x008 => u.sp.frame.estat
  | 0x009 => u.sp.tscratch
  | 0x010 => u.w.nbase
  | 0x011 => u.w.nlim
  | 0x020 => c.scopectl
  | 0x021 => if c.pauseIncl then 1 else 0
  | 0x030 => BitVec.ofNat 64 u.t.core
  | 0x031 => BitVec.ofNat 64 (ctxId u.t.ctx + u.t.ctx * 2 ^ 8)
  | 0x032 => BitVec.ofNat 64 (u.t.serial.toNat + (((s.launch? u.t.launch).map fun l => l.serial.toNat).getD 0) * 2 ^ 32)
  | 0x040 => identWord
  | 0x041 => s.fwrel
  | 0x042 => Config.reserveBytes
  | _ => 0

/-- [2:0] and [63:57] written as zero (R349, R225). -/
def tableMask : W64 := 0x01FFFFFFFFFFFFF8
/-- The writable fields of %cause and of %estat (R347). -/
def causeMask : W64 := 0x00FF7FFF
def estatMask : W64 := 0xF

/-- SCOPECTL written (R190): CLAMPED from PL1, and LIMIT and CLAMP from PL2; a LIMIT of 7 is not taken. -/
def Ctx.writeScope (c : Ctx) (pl : Nat) (x : W64) : Ctx :=
  let c := if bitAt x 4 then { c with scopeClamped := false } else c
  if pl < 2 then c
  else { c with
    scopeLimit := if bits x 2 0 = 7 then c.scopeLimit else bits x 2 0
    scopeClamp := bitAt x 3 }

/-- A frame written through SYSWR (R349, R347). -/
def TrapFrame.set (f : TrapFrame) (n : Nat) (x : W64) : TrapFrame :=
  match n with
  | 0x003 => { f with epc := x &&& ~~~3 }
  | 0x004 => { f with cause := x &&& causeMask }
  | 0x005 => { f with fm0 := x }
  | 0x006 => { f with fm1 := x }
  | 0x007 => { f with tval := x }
  | 0x008 => { f with estat := (f.estat &&& ~~~estatMask) ||| (x &&& estatMask) }
  | _ => f

/-- SYSWR's effect (R351). -/
def U.sysWrite (u : U) (s : State) (n : Nat) (x : W64) : State :=
  let c := s.ctx u.t.ctx
  match n with
  | 0x001 => u.skip (s.onTask u.t.id fun t => { t with htab := x &&& tableMask })
  | 0x002 => u.skip (s.setCtx u.t.ctx { c with ttab := x &&& tableMask })
  | 0x003 | 0x004 | 0x005 | 0x006 | 0x007 | 0x008 => u.done s (u.w.setSplit { u.sp with frame := u.sp.frame.set n x })
  | 0x009 => u.done s (u.w.setSplit { u.sp with tscratch := x })
  | 0x010 => u.done s { u.w with nbase := x &&& tableMask }
  | 0x011 => u.done s { u.w with nlim := x &&& tableMask }
  | 0x020 => u.skip (s.setCtx u.t.ctx (c.writeScope u.sp.pl x))
  | _ => u.skip s

/-- SYSRD (R351). -/
def execSysrd (g : Guard) (d : Reg) (num : BitVec 12) (s : State) : Host.Outcome State Fault Refusal :=
  s.onUnit fun u =>
    match sprAccess num.toNat with
    | none => s.raise u (mkTrap codeIllegal 0 u.pa.mask 0)
    | some (rd, _) => s.once u g [] <|
      if u.sp.pl < rd then s.illegal u else u.done s (u.w.setS d (intBits (u.sysRead s num.toNat)))

/-- SYSWR (R351): the level first, then POISON_READ. -/
def execSyswr (g : Guard) (a : Reg) (num : BitVec 12) (s : State) : Host.Outcome State Fault Refusal :=
  s.onUnit fun u =>
    match sprAccess num.toNat with
    | none => s.raise u (mkTrap codeIllegal 0 u.pa.mask 0)
    | some (_, wr) =>
      if u.acting g ≠ [] ∧ (match wr with | some l => decide (u.sp.pl < l) | none => true) = true then s.illegal u
      else s.once u g [a] (u.sysWrite s num.toNat (u.w.getS a).pay)

/-- TIME (R352, R364). -/
def execTime (g : Guard) (d : Reg) (s : State) : Host.Outcome State Fault Refusal :=
  s.onUnit fun u => s.once u g [] (u.done s (u.w.setS d (intBits (s.guestTime u.t.ctx))))

/-- The cycles of the arithmetic clock since a core last powered up (R352). -/
def State.clockOf (s : State) (core : Nat) : Nat := s.cycles - Table.get 0 s.dev.woke core

/-- CLOCK (R352). -/
def execClock (g : Guard) (d : Reg) (s : State) : Host.Outcome State Fault Refusal :=
  s.onUnit fun u => s.once u g [] (u.done s (u.w.setS d (natWord (s.clockOf u.t.core))))

/-- PERF (R357). -/
def execPerf (g : Guard) (d : Reg) (n : Byte) (s : State) : Host.Outcome State Fault Refusal :=
  s.onUnit fun u => s.once u g [] (u.done s (u.w.setS d (intBits (u.w.perf.getD n.toNat 0))))

/-! ### ICINV (R353) -/

/-- A line, or every line, of a context dropped from the instruction caches of its partition's cores. -/
def State.icDrop (s : State) (v : Nat) (line : Option Nat) : State :=
  let cores := (s.part (s.ctx v).part).cports
  let gone := fun (l : ILine) => l.ctx == v && cores.getLsbD (l.core / 8) && (line.isNone || line == some l.line)
  { s with icache := s.icache.filter (fun l => !gone l), icinvs := s.icinvs ++ [(v, line, s.tick)] }

/-- ICINV: waits for path 3, then drops the line of payload(sA). -/
def execIcinv (g : Guard) (a : Reg) (s : State) : Host.Outcome State Fault Refusal :=
  s.onUnit fun u => s.once u g [a] <|
    if u.sp.count 3 ≠ 0 then u.hold s else u.skip (s.icDrop u.t.ctx (some ((u.pS a).toNat / 128)))

/-- ICINV.all. -/
def execIcinvAll (g : Guard) (s : State) : Host.Outcome State Fault Refusal :=
  s.onUnit fun u => s.once u g [] <| if u.sp.count 3 ≠ 0 then u.hold s else u.skip (s.icDrop u.t.ctx none)

/-! ### VQPUSH (R354) -/

/-- The entry copied to its slot, TAIL raised, the doorbell rung: a store of the device, which rewrites no table entry (R327). -/
def State.pushEntry (s : State) (v n : Nat) (q : QTable) (ws : List W64) : State :=
  let s := (ws.mapIdx fun i x => (i, x)).foldl (fun s x =>
    s.deviceStore noCore v 6 (q.slot q.tail + BitVec.ofNat 64 (8 * x.1)) .bits x.2) s
  let e := ((s.ctx v).queue n).entry
  let s := s.deviceStore4 v ((s.ctx v).qAddr n + 16) ((q.tail + 1) % 2 ^ 32)
  (s.setQueue v n { (s.ctx v).queue n with entry := e }).ring v n false

/-- The first fault that VQPUSH meets on the entry, the table entry or the ring; the entry's words without one. -/
def State.pushReads (s : State) (u : U) (va : W64) (n : Nat) (q : QTable) : Except (XFault × W64 × Bool) (List W64) :=
  let tail := (s.ctx u.t.ctx).qAddr n + 16
  match s.deviceWords u.t.ctx u.sp.pl va 8, s.translate u.t.ctx 1 .write tail, s.translate u.t.ctx 1 .write (q.slot q.tail) with
  | .error e, _, _ => .error (e, va, false)
  | _, .error e, _ => .error (e, tail, true)
  | _, _, .error e => .error (e, q.slot q.tail, true)
  | .ok ws, .ok _, .ok _ => .ok ws

/-- VQPUSH (R354): the device reads and writes the table entry and the ring at PL1. -/
def execVqpush (g : Guard) (a b : Reg) (s : State) : Host.Outcome State Fault Refusal :=
  s.onUnit fun u => s.once u g [a, b] <|
    let c := s.ctx u.t.ctx
    let n := (u.pS a).toNat
    let va := u.pS b
    if c.vqcount ≤ n then s.illegal u
    else if va.toNat % 64 ≠ 0 then s.raise u (mkTrap codeAlign 0 u.pa.mask va)
    else
      match s.qtable u.t.ctx n with
      | .error e => s.xfault u e (c.qAddr n) u.pa.mask false false
      | .ok q =>
        if q.privileged && u.sp.pl == 0 then s.illegal u
        else
          match s.pushReads u va n q with
          | .error (e, x, wr) => s.xfault u e x u.pa.mask wr false
          | .ok _ =>
            if u.speculative || decide (q.size ≤ q.waiting) then u.hold s
            else s.afterOwn u fun s =>
              match s.deviceWords u.t.ctx u.sp.pl va 8 with
              | .ok ws =>
                (u.skip ((s.deviceTouch u.t.ctx 1 (c.qAddr n) 8).deviceTouch u.t.ctx u.sp.pl va 8)).pushEntry u.t.ctx n q ws
              | .error _ => u.hold s

/-! ### RETT and HCALL (R355, R356) -/

/-- RETT (R355): the level of %estat, BUSY 0, and the split at %epc, where its next unit is fetched. -/
def execRett (g : Guard) (s : State) : Host.Outcome State Fault Refusal :=
  s.onUnit fun u => s.once u g [] <|
    if u.sp.pl = 0 then s.illegal u
    else
      let f := u.sp.frame
      let sp : Split := { u.sp with pl := bits f.estat 1 0, frame := { f with estat := f.estat &&& ~~~4 } }
      let w : Warp := { ((u.w.setSplit sp).setHead u.c.split { u.pa with pc := f.epc }).endTurn u.sp.upper with interval := none }
      (s.setWarp w).recheck u.w.id

/-- HCALL (R356): an event of type 4, and a wait at the boundary after the unit. -/
def execHcall (g : Guard) (n : W32) (s : State) : Host.Outcome State Fault Refusal :=
  s.onUnit fun u =>
    if u.acting g ≠ [] ∧ u.sp.pl = 0 then s.illegal u
    else s.once u g [56, 57, 58, 59] <|
      let f := s.fresh
      let w := u.w.setHead u.c.split { u.pa with pc := u.c.next, wait := .hcall f.1 }
      let args := [u.pS 56, u.pS 57, u.pS 58, u.pS 59]
      ((f.2.setWarp w).postEvent ⟨4, u.t.ctx, f.1, u.c.start, n.setWidth 64, args⟩).addWaiter u.t.ctx f.1 .hcall

end Sys2Proof.Machine
end

