-- ==== Sys2Proof/Machine/Context.lean ====
section
/-!
DEFINITION. The life of a context: enabling, the save area's probe, the pre-emption ladder, save, restore and kill, the
hypervisor's answers and events, and invalidations (spec 10, R324, R337, R338; spec 11, R345, R348, R356 to R366).
-/
namespace Sys2Proof.Machine

/-! ### Enabling and the save area (R360, R363) -/

/-- The guest-physical addresses of the first n pages of a context's save area. -/
def Ctx.savePages (c : Ctx) (n : Nat) : List Nat := (List.range n).map fun i => c.savegpa + i * 65536

/-- Whether a guest-physical page passes stage 2 for an access. -/
def State.pageOk (s : State) (v : Nat) (write : Bool) (gpa : Nat) : Bool :=
  match s.stage2 v gpa with
  | .ok (e, _) => if write then e.wr else e.rd
  | .error _ => false

/-- A function enabled, or its save area moved: the area is to be probed, and a change of FMASK is honoured (R360, R323). -/
def State.enable (s : State) (v : Nat) : State :=
  let c := s.ctx v
  s.setCtx v { c with en := true, pinned := false, probeAt := 0, fmaskOn := if c.en then c.fmaskOn else c.fmask }

/-- VF_ENABLE (R360). -/
def execVfEnable (v : Nat) (s : State) : Host.Outcome State Fault Refusal :=
  .next (if (s.ctx v).en then s else s.enable v)

/-- An event of a context with a waiter for its answer. -/
def State.askHv (s : State) (v type : Nat) (addr detail : W64) (x : Waiter) : State :=
  let f := s.fresh
  (f.2.postEvent ⟨type, v, f.1, addr, detail, []⟩).addWaiter v f.1 x

/-- Whether a page of the save area has faulted and waits for its answer. -/
def Ctx.probing (c : Ctx) : Bool := c.waiters.any fun x => match x.2 with | .probe _ => true | _ => false

/-- SAVE_AREA_PROBE (R360): the pages are probed in order up to one that faults, which posts an event of type 2; after its answer
the probe goes on from there. PINNED when all have passed. -/
def execSaveAreaProbe (v : Nat) (s : State) : Host.Outcome State Fault Refusal :=
  .next <|
    let c := s.ctx v
    if !c.en || c.pinned || c.probing then s
    else
      match ((List.range c.savesize).drop c.probeAt).find? fun i => !s.pageOk v true (c.savegpa + i * 65536) with
      | none => s.setCtx v { c with pinned := true }
      | some i =>
        let g := c.savegpa + i * 65536
        (s.setCtx v { c with probeAt := i }).askHv v 2 (BitVec.ofNat 64 g) 1 (.probe g)

/-! ### The ladder (R337) -/

/-- A pre-emption request (R337): the ladder starts for a running context; a second request changes nothing. -/
def State.preempt (s : State) (v : Nat) : State :=
  let c := s.ctx v
  if c.saveState = 1 ∧ c.ladder = none then
    (s.setCtx v { c with saveState := 2, ladder := some (s.nowNs, 0), save := .empty, stopAt := none }).softSave v
  else s

/-- CMD_STOP_SAVE (R337, R359, R361). -/
def execCmdStopSave (v : Nat) (s : State) : Host.Outcome State Fault Refusal := .next (s.preempt v)

/-- SLICE_EXPIRY (R337): SLICE µs after the context began to run. -/
def execSliceExpiry (v : Nat) (s : State) : Host.Outcome State Fault Refusal :=
  .next <|
    let c := s.ctx v
    if c.slice ≠ 0 ∧ c.since + c.slice * 1000 ≤ s.nowNs then s.preempt v else s

/-- Warps halted at the boundaries of their next units: their open transactions abort with FAULT and cause 0 (R201, R337). -/
def Warp.halt (w : Warp) : Warp := { w.abortAll with held := true }

/-- GRACE_EXPIRY (R337). -/
def execGraceExpiry (v : Nat) (s : State) : Host.Outcome State Fault Refusal :=
  .next <|
    let c := s.ctx v
    match c.ladder with
    | some (t, 0) =>
      if t + c.grace * 1000 ≤ s.nowNs then
        let ids := (s.ctxTasks v).map fun t => t.id
        { (s.setCtx v { c with ladder := some (t, 1) }) with
          warps := s.warps.map fun w => if ids.contains w.task then w.halt else w }
      else s
    | _ => s

/-- A save or restore that stops (R363). -/
def State.freeze (s : State) (v state : Nat) : State := s.setCtx v { (s.ctx v) with saveState := state }

/-- What the save area of a context will hold, all its tasks saved (R361). -/
def State.areaOf (s : State) (v : Nat) : SaveArea :=
  let c := (s.saveTasks v (s.ctxTasks v)).ctx v
  let ls := s.launches.filter fun l => l.ctx == v
  { c.save with
    ttab := c.ttab
    queues := c.queues
    launches := ls
    specIds := s.specIds.filter fun x => ls.any fun l => l.id == x.1
    waiters := c.waiters.filter fun x => match x.2 with | .hcall | .doubleTrap _ => true | _ => false
    answers := c.answers
    complete := true
    gs := c.stopAt.getD (s.guestTime v).toNat
    major := s.fwMajor
    top := s.nextId }

/-- Bytes written to the save area of a context, through its stage 2. -/
def State.writeArea (s : State) (v : Nat) (bs : List Byte) : State :=
  let c := s.ctx v
  s.perform none noCore v 6 ((bs.mapIdx fun i b => (i, b)).filterMap fun x =>
    (s.guestKey v (c.savegpa + x.1)).map fun k => ⟨k, 1, x.2.setWidth 64, none, false⟩)
    ((c.savePages (areaUnits bs)).map fun g => g / 65536)

/-- SAVE_COMPLETE (R361, R363): every task of the context can be saved. An area too small stops the save with an event of
type 9, a page that faults with one of type 2; else the area is written, its pages logged and its digest reported. -/
def execSaveComplete (v : Nat) (s : State) : Host.Outcome State Fault Refusal :=
  .next <|
    let c := s.ctx v
    let soft := match c.ladder with | some (_, k) => k == 0 | none => false
    if c.saveState ≠ 2 ∨ ((s.ctxTasks v).all fun t => s.saveable soft t) = false then s
    else
      let a := s.areaOf v
      let bs := Config.areaLayout a
      let need := areaUnits bs
      let frozen := s.setCtx v { c with saveState := 4, stopAt := some a.gs }
      if c.savesize < need then frozen.askHv v 9 (BitVec.ofNat 64 c.savegpa) (BitVec.ofNat 64 need) .save
      else
        match (List.range need).find? fun i => !s.pageOk v true (c.savegpa + i * 65536) with
        | some i => (frozen.writeArea v (bs.take (i * 65536))).askHv v 2 (BitVec.ofNat 64 (c.savegpa + i * 65536)) 1 .save
        | none =>
          let s := (s.saveTasks v (s.ctxTasks v)).writeArea v bs
          let c := s.ctx v
          let gone := a.launches.map fun l => l.id
          let s : State := { s with
            areas := s.areas ++ [a]
            launches := s.launches.filter fun l => l.ctx != v
            specIds := s.specIds.filter fun x => !gone.contains x.1 }
          (s.setCtx v { c with saveState := 3, ladder := none, stopAt := none, digest := digestOf bs, save := a, answers := [] }).postEvent ⟨7, v, 0, 0, 0, []⟩

/-! ### Restore (R362, R364, R366) -/

/-- The bytes of a context's save area, as they stand. -/
def State.readArea (s : State) (v n : Nat) : List Byte :=
  (List.range n).map fun i => match s.guestKey v ((s.ctx v).savegpa + i) with | some k => s.mem.byte k | none => 0

/-- What the area of a context holds: the save that wrote these bytes, and for bytes that no save of this device wrote whatever
their firmware reads in them; with the bytes that its digest covers (log entry 106). -/
def State.areaRead (s : State) (v : Nat) : SaveArea × List Byte :=
  let size := (s.ctx v).savesize * 65536
  match s.areas.find? fun a => decide ((Config.areaLayout a).length ≤ size) && s.readArea v (Config.areaLayout a).length == Config.areaLayout a with
  | some a => (a, Config.areaLayout a)
  | none => let bs := s.readArea v size; (Config.areaHolds bs, bs)

/-- CMD_RESTORE (R362): the area is read and its digest and major release checked. A page that faults freezes the restore, and the
kill timer runs (R363). -/
def State.checkRestore (s : State) (v : Nat) : State :=
  let c := s.ctx v
  let fail := fun (d : W64) => (s.setCtx v { c with saveState := 0, ladder := none }).postEvent ⟨10, v, 0, BitVec.ofNat 64 c.savegpa, d, []⟩
  match (c.savePages c.savesize).find? fun g => !s.pageOk v false g with
  | some g => (s.setCtx v { c with saveState := 6, ladder := some ((c.ladder.map fun x => x.1).getD s.nowNs, 2) }).askHv v 2 (BitVec.ofNat 64 g) 0 .restore
  | none =>
    let r := s.areaRead v
    if c.digest ≠ digestOf r.2 then fail 1
    else if r.1.major ≠ s.fwMajor then fail 2
    else { (s.setCtx v { c with saveState := 5, save := r.1.rebound s.nextId v }) with
      nextId := s.nextId + r.1.top
      history := s.history ++ (s.history.filter fun h => r.1.launches.any fun l => l.id == h.1).map fun h => (h.1 + s.nextId, h.2) }

/-- CMD 2 of a context that is empty or saved (R359, R362). -/
def State.restoreCmd (s : State) (v : Nat) : State :=
  let c := s.ctx v
  if c.en ∧ c.pinned = true ∧ (c.saveState = 0 ∨ c.saveState = 3) then s.checkRestore v else s

/-- CMD_RESTORE (R359, R362). -/
def execCmdRestore (v : Nat) (s : State) : Host.Outcome State Fault Refusal := .next (s.restoreCmd v)

/-- The footprint of a saved task. -/
def savedFootprint (t : Task) (ws : List Warp) : Footprint :=
  ⟨ws.length, ws.foldl (fun n w => n + warpRegs w.nregs w.width) 0, t.scratchSize, t.bregs, t.slots.length⟩

/-- Whether a core takes a saved task: its footprint fits, and its accumulator slots, which keep their numbers, are free there
(log entry 18). -/
def State.takesBack (s : State) (t : Task) (ws : List Warp) (core : Nat) : Bool :=
  (savedFootprint t ws).fits (s.freeOn core) && t.slots.all fun x => (s.freeAcc core).contains x.index

/-- A gang mask with the slots of its members as they are numbered now (R148, R152). -/
def gangBack (moved : List (Nat × Nat)) (gang : BitVec 32) : BitVec 32 :=
  BitVec.ofNat 32 ((moved.filter fun x => gang.getLsbD x.1).foldl (fun n x => n ||| 2 ^ x.2) 0)

/-- A saved warp placed on a core: its storage lies anew and its warp-registers are granted (R260, R268); `moved` pairs the slots that
the warps of its task had with those they take. -/
def State.warpBack (s : State) (core slot : Nat) (moved : List (Nat × Nat)) (w : Warp) : State :=
  let g := s.grantRows core (warpRegs w.nregs w.width)
  let f := g.2.fresh
  { f.2 with warps := f.2.warps ++ [{ w with store := f.1, pos := 0, slot := slot, rows := g.1, off := 0, gang := gangBack moved w.gang }] }

/-- The slots that some warps take on a core (R260), ascending. -/
def State.slotsBack (s : State) (core n : Nat) : List Nat :=
  sortBy id ((List.range n).foldl (fun xs _ => xs ++ [nextSlot ((s.freeSlots core).filter fun i => !xs.contains i)]) [])

/-- A saved task placed on a core: its warps keep the order of their slots, its accumulator slots their generations. What the core's L1
holds is dropped, so that its loads return nothing older than what they have returned and stored elsewhere (R181); and what ended tasks
have left there is gone. -/
def State.putBack (s : State) (t : Task) (ws : List Warp) (gens : List (Nat × Nat × BitVec 4)) (core : Nat) : State :=
  let slots := s.slotsBack core ws.length
  let placed := (sortBy (fun w => w.slot) ws).mapIdx fun i w => (slots.getD i 0, w)
  let moved := placed.map fun x => (x.2.slot, x.1)
  let s := s.fenceL1 core false true 7
  let s := placed.foldl (fun s x => s.warpBack core x.1 moved x.2) s
  let put := fun (g : Table (BitVec 4)) (x : Nat × Nat × BitVec 4) => if x.1 = t.id then Table.put 0 g (core * 16 + x.2.1) x.2.2 else g
  { s with
    tasks := s.tasks ++ [{ s.taskIn t with core := core }]
    leftTasks := s.leftTasks.filter fun x => x.core != core
    accGen := gens.foldl put s.accGen }

/-- The cores of one cluster that take the members of a saved cohort, in ascending order. -/
def State.cohortBack (s : State) (ws : Task → List Warp) : List Task → List Nat → Option (List (Task × Nat))
  | [], _ => some []
  | _ :: _, [] => none
  | t :: ts, c :: cs =>
    if s.takesBack t (ws t) c then (s.cohortBack ws ts cs).map fun xs => (t, c) :: xs else s.cohortBack ws (t :: ts) cs

/-- One saved unit placed (R258, R362): a task on the fitting core with the most free warp-registers, a cohort whole in one
cluster. -/
def State.unitBack (s : State) (ws : Task → List Warp) (gens : List (Nat × Nat × BitVec 4)) (cores : List Nat) : List Task → Option State
  | [] => some s
  | [t] =>
    match cores.filter fun c => s.takesBack t (ws t) c with
    | [] => if t.core = noCore then some { s with tasks := s.tasks ++ [s.taskIn t] } else none
    | c :: cs =>
      let best := if t.core = noCore then noCore else cs.foldl (fun m x => if (s.freeOn m).regs < (s.freeOn x).regs then x else m) c
      some (s.putBack t (ws t) gens best)
  | t :: ts =>
    (List.range 8).findSome? fun cl =>
      (s.cohortBack ws (t :: ts) (cores.filter fun c => c / 64 == cl)).map fun xs =>
        xs.foldl (fun s x => s.putBack x.1 (ws x.1) gens x.2) s

/-- The saved units in age order: single tasks, and cohorts by rank. -/
def savedUnits (ts : List Task) : List (List Task) :=
  let ts := sortBy (fun t => t.age) ts
  distinct (ts.map fun t => sortBy (fun x => x.rank) (ts.filter fun x => t.mate x))

/-- Every saved unit placed; none when some unit finds no room. -/
def State.allBack (s : State) (a : SaveArea) (cores : List Nat) : Option State :=
  (savedUnits a.tasks).foldl (fun o u => o.bind fun s => s.unitBack (fun t => a.warps.filter fun w => w.task == t.id) a.gens cores u) (some s)

/-- The unresolved predicted-shape launches of a context resolved as SHAPE with t = m would (R366). -/
def State.resolveAll (s : State) (v : Nat) : State :=
  (s.launches.filter fun l => l.ctx == v && l.shaped && l.t.isNone).foldl (fun s l => s.resolve l l.m) s

/-- The reply to an HCALL in a warp: s56 := INT HVVAL (R356). -/
def Warp.reply (w : Warp) (ref : Nat) (x : W64) : Warp :=
  if w.paths.any fun p => p.wait == .hcall ref then (w.setS 56 (intBits x)).release (· == .hcall ref) 0 else w

/-- Whether a warp is one of a context's. -/
def State.warpOf (s : State) (v : Nat) (w : Warp) : Bool := ((s.task? w.task).map fun t => t.ctx) == some v

/-- An answer taken by the warps of its context that wait for it: an HCALL's value, or the retry of a double trap (R356, R358). -/
def State.giveAnswer (s : State) (v : Nat) (a : Nat × Option W64) : State :=
  { s with warps := s.warps.map fun w => if s.warpOf v w then (match a.2 with
      | some x => w.reply a.1 x
      | none => if w.stopped = some a.1 then { w with stopped := none } else w) else w }

/-- A saved queue as it comes back: with a doorbell rung since, and held where no hardware slot is free for it (R328, R361). -/
def restoredQueue (mapped : Nat) (saved now : VQueue) : VQueue :=
  { saved with
    tier := if saved.tier = 2 ∧ queueSlots ≤ mapped then 1 else saved.tier
    rung := saved.rung || now.rung
    rungAt := Nat.max saved.rungAt now.rungAt }

/-- The queues of a context as they come back. -/
def State.queuesBack (s : State) (v : Nat) (qs : Table VQueue) : Table VQueue :=
  let others := ((s.queuesIn 2).filter fun x => x.1 != v).length
  let now := (s.ctx v).queues
  (qs.foldl (fun (r : Nat × Table VQueue) q =>
    let x := restoredQueue r.1 q.2 (Table.get .fresh now q.1)
    (if x.tier = 2 then r.1 + 1 else r.1, Table.put .fresh r.2 q.1 x)) (others, now)).2

/-- RESTORE_COMPLETE (R362, R364, R366): every task is placed and resumes at its boundary; what the area holds of the context
takes effect, with the answers that came meanwhile (R356). -/
def execRestoreComplete (v : Nat) (s : State) : Host.Outcome State Fault Refusal :=
  .next <|
    let c := s.ctx v
    if c.saveState ≠ 5 then s
    else
      match s.allBack c.save (s.openCores c.part) with
      | none => s
      | some s =>
        let c := s.ctx v
        let s : State := { s with launches := s.launches ++ c.save.launches, specIds := s.specIds ++ c.save.specIds }
        let s := s.setCtx v { c with
          saveState := 1
          ladder := none
          since := s.nowNs
          timeO := s.nowNs
          timeB := c.save.gs + (if c.pauseIncl then c.timeadj.toNat else 0)
          fmaskOn := c.fmask
          ttab := c.save.ttab
          queues := s.queuesBack v c.save.queues
          waiters := c.waiters ++ c.save.waiters.filter fun x => !(c.waiters.contains x) && !((c.save.answers ++ c.answers).any fun a => a.1 == x.1)
          answers := []
          save := .empty }
        let s := (c.save.answers ++ c.answers).foldl (fun s a => s.giveAnswer v a) s
        (if c.fmask.getLsbD 2 then s.resolveAll v else s).postEvent ⟨8, v, 0, 0, 0, []⟩

/-- A save or restore that had stopped goes on (R363). -/
def State.resumeSave (s : State) (v : Nat) : State :=
  let c := s.ctx v
  let c : Ctx := { c with waiters := c.waiters.filter fun x => x.2 != .save && x.2 != .restore }
  let s := s.setCtx v c
  if c.saveState = 4 then s.freeze v 2 else if c.saveState = 6 then s.checkRestore v else s

/-- CMD 4 of a context that is frozen (R359, R363). -/
def State.continueCmd (s : State) (v : Nat) : State :=
  if (s.ctx v).saveState = 4 ∨ (s.ctx v).saveState = 6 then s.resumeSave v else s

/-- CMD_CONTINUE (R359, R363). -/
def execCmdContinue (v : Nat) (s : State) : Host.Outcome State Fault Refusal := .next (s.continueCmd v)

/-! ### Kill (R337, R338, R367) -/

/-- The entries of a queue that are not accepted receive a status, and are behind HEAD then (R337). -/
def State.killQueue (s : State) (v n status : Nat) : State :=
  match s.qtable v n with
  | .error _ => s
  | .ok q =>
    if !q.ok || decide (q.size < q.waiting) then s
    else
      let s := (List.range q.waiting).foldl (fun s i =>
        match s.deviceWords v 1 (q.slot (q.head + i)) 8 with
        | .ok ws => let e := qentryOf ws; s.report v e.compl e.irq status none
        | .error _ => s) s
      if q.waiting = 0 then s else s.deviceStore4 v ((s.ctx v).qAddr n + 24) q.tail

/-- The launches of a context end: those of queues are reported with a status (R337). -/
def State.killLaunches (s : State) (v status : Nat) : State :=
  let ls := s.launches.filter (fun l => l.ctx == v) ++ (s.ctx v).save.launches
  let s := ls.foldl (fun s l => match l.src with
    | .queue _ compl irq => s.report v compl irq status (some l.serial)
    | .launchp _ | .spawn | .fabric | .tail _ => s) s
  let ids := ls.map fun l => l.id
  { s with
    launches := s.launches.filter fun l => l.ctx != v
    history := s.history.filter fun h => !ids.contains h.1
    specIds := s.specIds.filter fun x => !ids.contains x.1 }

/-- The speculative launches of a context squashed (R337): the chunks of their tasks, those in a save area too, are retracted
(R279). -/
def State.squashAll (s : State) (v : Nat) : State :=
  let ls := (s.launches.filter fun l => l.ctx == v) ++ (s.ctx v).save.launches
  let mine := (ls.filter fun l => l.shaped && l.t.isNone).flatMap fun l => (s.specTasks l).map fun t => (t, l.kd)
  mine.foldl (fun s x => s.squashTask x.1 x.2) s

/-- Stores of a killed context that were in flight are performed or not, freely. -/
def State.killStores (s : State) (v : Nat) : State :=
  let ps := s.stores.filter fun p => p.ctx == v
  let s := ps.foldl (fun s p =>
    let c := s.choose 2
    if c.1 = 1 then c.2.perform (some p.warp) p.core p.ctx p.hint p.items p.pages else c.2) s
  { s with stores := s.stores.filter fun p => p.ctx != v, atoms := s.atoms.filter fun p => p.ctx != v, loads := s.loads.filter fun p => p.ctx != v }

/-- What the caches hold under a context's id written back and dropped (R310, R311). -/
def State.dropId (s : State) (v : Nat) : State :=
  let s := s.l1Drop fun l => l.ctx == v
  { s with
    l2 := s.l2.filter fun x => x.2 != ctxId v
    hdrs := s.hdrs.filter fun x => x.id != ctxId v
    icache := s.icache.filter fun l => l.ctx != v
    icinvs := s.icinvs ++ [(v, none, s.tick)] }

/-- A context killed (R337): its speculative launches are squashed, its tasks end, its queues' entries receive the status, its resources are reset, its dirty
lines written back, and an event of type 6 is posted. -/
def State.killCtx (s : State) (v status : Nat) : State :=
  let s := (s.squashAll v).killLaunches v status
  let s := ((s.ctx v).queues.map fun q => q.1).foldl (fun s n => s.killQueue v n status) s
  let s := s.killStores v
  let ts := s.ctxTasks v
  let ids := ts.map fun t => t.id
  let reset := fun (g : Table (BitVec 4)) (t : Task) => t.slots.foldl (fun g x => Table.put 0 g (t.core * 16 + x.index) 0) g
  let s : State := { s with
    tasks := s.tasks.filter fun t => t.ctx != v
    warps := s.warps.filter fun w => !ids.contains w.task
    tiles := s.tiles.filter fun x => !ids.contains x.task
    leftWarps := s.leftWarps.filter fun x => x.ctx != v
    leftTasks := s.leftTasks.filter fun t => t.ctx != v
    accGen := ts.foldl reset s.accGen }
  let s := s.dropId v
  let c := s.ctx v
  let c : Ctx := { c with
    saveState := 0
    ladder := none
    waiters := []
    save := .empty
    digest := if c.saveState = 3 then c.digest else 0
    queues := Table.mapVals .fresh (fun _ q => { q with last := none, rung := false }) c.queues }
  (s.setCtx v c).postEvent ⟨6, v, 0, 0, 0, []⟩

/-- CMD_KILL (R337, R363). -/
def execCmdKill (v : Nat) (s : State) : Host.Outcome State Fault Refusal := .next (s.killCtx v 16)

/-- KILL_EXPIRY (R337): KILL µs after the request, the save not complete. -/
def execKillExpiry (v : Nat) (s : State) : Host.Outcome State Fault Refusal :=
  .next <|
    let c := s.ctx v
    match c.ladder with
    | some (t, _) => if t + c.kill * 1000 ≤ s.nowNs then s.killCtx v 16 else s
    | none => s

/-- Translations of a context dropped (R324, R359). -/
def State.dropTlb (s : State) (v : Nat) (p : TlbEntry → Bool) : State :=
  { s with tlb := s.tlb.filter fun e => !(e.ctx == v && p e) }

/-- A context destroyed: no entry of the image cache shows to it, and no cache holds a line or a translation of it, before its id is
used again (R78, R311, R323; log entry 85). -/
def State.destroy (s : State) (v : Nat) : State := ((s.forgetImages v).dropId v).dropTlb v fun _ => true

/-- VF_FLR (R338, R78, R311): killed as the ladder's kill step does; its own registers take their reset values. -/
def execVfFlr (v : Nat) (s : State) : Host.Outcome State Fault Refusal :=
  .next <|
    let s := (s.killCtx v 16).destroy v
    s.setCtx v { (s.ctx v) with vqtab := 0, vqcount := 0, s1root := 0, queues := [] }

/-! ### Invalidations (R324, R359) -/

/-- S1INV (R324): every stage-1 translation of the context. -/
def execS1inv (v : Nat) (s : State) : Host.Outcome State Fault Refusal := .next (s.dropTlb v fun _ => true)

/-- Whether a translation lies in the range of a context's stage-2 invalidation. -/
def Ctx.inS2 (c : Ctx) (t : Trans) : Bool :=
  c.s2all || (decide (c.s2gpa ≤ t.gpa) && decide (t.gpa < c.s2gpa + 2 ^ c.s2log * 65536))

/-- A stage-2 invalidation started (R359). -/
def State.s2Inv (s : State) (v : Nat) : State :=
  let c := s.ctx v
  let f := s.choose 2
  let s := f.2.setCtx v { c with s2busy := true }
  if f.1 = 1 then s.dropTlb v fun e => c.inS2 e.tr else s

/-- S2_INVALIDATE (R359): an invalidation starts; whether a cached translation leaves now or by its end is free. -/
def execS2Invalidate (v : Nat) (s : State) : Host.Outcome State Fault Refusal := .next (s.s2Inv v)

/-- Whether a command or tile operation of a context holds a translation in the range (R157); a queued command in a save area holds
none. -/
def State.holdsS2 (s : State) (v : Nat) (c : Ctx) : Bool :=
  ((s.ctxTasks v).any fun t => t.eng.any fun e => e.2.cmds.any fun x => !x.done && x.trs.any fun y => c.inS2 y.2) ||
  (s.tiles.any fun x => ((s.task? x.task).map fun t => t.ctx) == some v && x.trs.any fun y => c.inS2 y.2)

/-- S2_INVALIDATE_COMPLETE (R359, R157). -/
def execS2InvalidateComplete (v : Nat) (s : State) : Host.Outcome State Fault Refusal :=
  .next <|
    let c := s.ctx v
    if !c.s2busy || s.holdsS2 v c then s
    else (s.setCtx v { c with s2busy := false }).dropTlb v fun e => c.inS2 e.tr

/-! ### The hypervisor's answers (R331, R345, R356, R358) -/

/-- Who waits under a REF. -/
def Ctx.waiter (c : Ctx) (ref : Nat) : Option Waiter := (c.waiters.find? fun x => x.1 == ref).map fun x => x.2

/-- A REF answered. -/
def State.answered (s : State) (v ref : Nat) : State :=
  let c := s.ctx v
  s.setCtx v { c with waiters := c.waiters.filter fun x => x.1 != ref }

/-- An answer kept with a context where its warps have been saved (R356). -/
def State.keepAnswer (s : State) (v : Nat) (a : Nat × Option W64) : State :=
  let c := s.ctx v
  if c.save.warps = [] then s else s.setCtx v { c with answers := c.answers ++ [a] }

/-- Sub-paths that wait for a REF run again. -/
def Warp.wake (w : Warp) (x : Wait) : Warp := w.release (· == x) 0

/-- A warp whose units that wait for a REF go on: they are performed before a halt that comes later, but not after one that came
before the answer (R348). -/
def Warp.answered (w : Warp) (ref : Nat) : Warp :=
  let mine := (w.splits.filter fun sp => sp.paths.any fun p => p.wait == .stage2 ref).map fun sp => sp.num
  if mine = [] then w
  else { (w.wake (.stage2 ref)) with owed := if w.held then w.owed else w.owed ++ mine.filter fun n => !w.owed.contains n }

/-- ACTION 1 (R358). An answer for a warp that has been saved is kept with its context. -/
def State.retry (s : State) (v ref : Nat) : State :=
  match (s.ctx v).waiter ref with
  | none => s
  | some x =>
    match x with
    | .unit _ _ _ => { (s.answered v ref) with warps := s.warps.map fun w => if s.warpOf v w then w.answered ref else w }
    | .doubleTrap _ => ((s.answered v ref).keepAnswer v (ref, none)).giveAnswer v (ref, none)
    | .save | .restore => s.resumeSave v
    | .probe _ => s.answered v ref
    | .hcall => s

/-- HV_ACTION_RETRY (R358): the waiting unit, the double-trapped warp, the save or the restore goes on. -/
def execHvActionRetry (v ref : Nat) (s : State) : Host.Outcome State Fault Refusal := .next (s.retry v ref)

/-- The unit that a split of a context waits with, on a REF: its place in execution. -/
def State.waitingUnit (s : State) (v ref : Nat) : Option U :=
  (s.warps.filter (s.warpOf v)).findSome? fun w => w.splits.findSome? fun sp =>
    match sp.paths, s.task? w.task with
    | p :: _, some t => if p.wait = .stage2 ref then some ⟨w, sp, { p with wait := .run }, t, ⟨w.id, sp.num, p.pc, p.pc, none, none, false⟩⟩ else none
    | _, _ => none

/-- ACTION 2 (R331, R358). -/
def State.convert (s : State) (v ref : Nat) : State :=
  match (s.ctx v).waiter ref, s.waitingUnit v ref with
  | some (.unit va kind mask), some u =>
    let w := u.w.setHead u.c.split u.pa
    ((s.answered v ref).setWarp w).raise { u with w := w, sp := (w.split? u.c.split).getD u.sp }
      ⟨codeMemFault, 6, false, kind % 4 == 1, kind % 4 == 2, 0, mask, va⟩
  | _, _ => s

/-- HV_ACTION_CONVERT (R331, R358): the fault becomes MEM_FAULT with KIND 6 for the guest. -/
def execHvActionConvert (v ref : Nat) (s : State) : Host.Outcome State Fault Refusal := .next (s.convert v ref)

/-- ACTION 3 (R356). -/
def State.hcallAnswer (s : State) (v ref : Nat) : State :=
  match (s.ctx v).waiter ref with
  | some .hcall => let a := (ref, some (s.ctx v).hvval); ((s.answered v ref).keepAnswer v a).giveAnswer v a
  | _ => s

/-- HV_ACTION_HCALL (R356): the waiting split goes on; a context that is saved keeps the answer. -/
def execHvActionHcall (v ref : Nat) (s : State) : Host.Outcome State Fault Refusal := .next (s.hcallAnswer v ref)

/-! ### The event ring (R358) -/

/-- The 64 bytes of an event record. -/
def EvRec.bytes (e : EvRec) (time : W64) : List Byte :=
  bytesLE (e.type + e.vf * 2 ^ 8 + e.ref % 2 ^ 32 * 2 ^ 32) 8 ++ bytesLE e.addr.toNat 8 ++ bytesLE e.detail.toNat 8 ++
  ((List.range 4).flatMap fun i => bytesLE (e.arg.getD i 0).toNat 8) ++ bytesLE time.toNat 8

/-- EVENT_RING_POST (R358): the oldest waiting event, unless the ring is full, or has no size of 6 to 15. -/
def execEventRingPost (s : State) : Host.Outcome State Fault Refusal :=
  .next <|
    let d := s.dev
    match d.evwait with
    | [] => s
    | e :: es =>
      if d.evlog < 6 ∨ 2 ^ d.evlog ≤ (d.evtail + 2 ^ 32 - d.evhead) % 2 ^ 32 then s
      else
        let k := hostKey (d.evbase + 64 * (d.evtail % 2 ^ d.evlog))
        let s := s.perform none noCore 0 6 ((e.bytes (s.guestTime e.vf)).mapIdx fun i b => ⟨k + i, 1, b.setWidth 64, none, false⟩) []
        { s with dev := { d with evwait := es, evtail := (d.evtail + 1) % 2 ^ 32, msix := d.msix + 1 } }

end Sys2Proof.Machine
end

