-- ==== Sys2Proof/Machine/Partition.lean ====
section
/-!
DEFINITION. Partitions and Castling (spec 10, R305 to R308, R320, R332 to R336).
-/
namespace Sys2Proof.Machine

/-! ### The checks of a Castling (R334) -/

/-- The partitions but one. -/
def State.otherParts (s : State) (p : Nat) : List Part := ((List.range 16).filter fun q => q != p).map s.part

/-- The end of the highest device page that a stage-2 table of a level maps; `n` levels are left. -/
def deviceEnd (rd : Nat → W64) : Nat → Nat → Nat
  | 0, _ => 0
  | n + 1, table =>
    let level := 4 - n
    (List.range (if level = 4 then 32 else 512)).foldl (fun m i =>
      match pteOf true level (rd (table + 8 * i)) with
      | none => m
      | some e =>
        if e.leaf then (if e.kind = 0 then Nat.max m (e.addr + leafSize level) else m)
        else Nat.max m (deviceEnd rd n e.addr)) 0

/-- The end of the physical memory that the functions of a partition map (R334 code 2). -/
def State.mappedEnd (s : State) (p : Nat) : Nat :=
  s.ctxs.foldl (fun m c =>
    if c.2.part = p ∧ c.2.s2en = true then Nat.max m (deviceEnd (fun pa => BitVec.ofNat 64 (s.mem.read (partKey p pa) 8)) 4 c.2.s2root)
    else m) 0

/-- Whether a leaf entry of a kind in a stage-2 table of a level maps a physical page of device memory; `n` levels are left. -/
def mapsWhere (ok : Pte → Bool) (rd : Nat → W64) (pa : Nat) : Nat → Nat → Bool
  | 0, _ => false
  | n + 1, table =>
    let level := 4 - n
    (List.range (if level = 4 then 32 else 512)).any fun i =>
      match pteOf true level (rd (table + 8 * i)) with
      | none => false
      | some e =>
        if e.leaf then decide (e.kind = 0) && ok e && decide (e.addr ≤ pa) && decide (pa < e.addr + leafSize level)
        else mapsWhere ok rd pa n e.addr

/-- Whether a function of a partition maps a physical address, by a leaf entry of a kind. -/
def State.maps (s : State) (ok : Pte → Bool) (p pa : Nat) : Bool :=
  s.ctxs.any fun c => c.2.part == p && c.2.s2en && mapsWhere ok (fun a => BitVec.ofNat 64 (s.mem.read (partKey p a) 8)) pa 4 c.2.s2root

/-- Whether a function of a partition maps a physical address as tagged (R29). -/
def State.mapsTagged (s : State) (p pa : Nat) : Bool := s.maps (fun e => e.user) p pa

/-- The pages of a partition's tag pool that a stage-2 entry of one of its functions maps (R308). -/
def State.poolMapped (s : State) (p : Nat) : List Nat :=
  ((List.range (s.part p).tpsize).map fun i => (s.part p).tpbase + i).filter fun q => s.maps (fun _ => true) p (q * 65536)

/-- The keys of the words of some pages of a partition. -/
def pageWords (p : Nat) (pages : List Nat) : List Nat := pages.flatMap fun q => (List.range 8192).map fun i => partKey p (q * 65536) + 8 * i

/-- Whether an L1 line lies in a page of a partition. -/
def L1Line.inPage (l : L1Line) (p page : Nat) : Bool := l.line / 512 == partKey p (page * 65536) / 65536

/-- What a mapping inside a partition's tag pool leaves: the bytes of the pages mapped and the tags kept in the pool are unspecified, that
is free, at every step; the L1s keep neither lines of those pages nor clean lines of the tagged ones (R6, R308; log entry 113). -/
def State.stirPool (s : State) (p : Nat) : State :=
  match s.poolMapped p with
  | [] => s
  | qs =>
    let tagged := (s.part p).tagPages
    let m := (pageWords p qs).foldl (fun m k => m.write k ((List.range 8).map fun i => Config.poolByte s.tick (k + i))) s.mem
    let m := (pageWords p tagged).foldl (fun m k => m.setTag k (Config.poolTag s.tick k)) m
    { s with mem := m, l1 := s.l1.filter fun l => !(qs.any (l.inPage p) || !l.isDirty && tagged.any (l.inPage p)) }

/-- The partitions that have a tag pool, each left as a mapping inside it leaves it (R308). -/
def State.stirPools (s : State) : State := s.parts.foldl (fun s x => if x.2.tpsize = 0 then s else s.stirPool x.1) s

/-- The cores of a set of core ports. -/
def coresOf (ports : W64) : List Nat := (List.range 512).filter fun c => ports.getLsbD (c / 8)

/-- Why a Castling is refused: the lowest code (R334); 0 when it is not. -/
def State.castlingRefusal (s : State) (p : Nat) : Nat :=
  let x := s.part p
  let newC := x.scports &&& ~~~x.cports
  let newM := x.smports &&& ~~~x.mports
  let others := s.otherParts p
  let foreign := others.any fun q => (q.cports &&& newC) != 0 || (q.mports &&& newM) != 0
  let unscrubbed := (newC &&& ~~~s.dev.scrubbed.1) != 0 || (newM &&& ~~~s.dev.scrubbed.2) != 0
  let cap := capOf x.smports * 65536
  let stay := coresOf (x.cports &&& x.scports)
  let units := s.launches.filter fun l => (s.ctx l.ctx).part == p
  if foreign || unscrubbed then 1
  else if cap < s.mappedEnd p ∨ cap < (x.tpbase + x.tpsize) * 65536 ∧ x.tpsize ≠ 0 then 2
  else if (x.scports == 0) != (x.smports == 0) then 3
  else if units.any fun l => !l.kd.fitsPart stay then 4
  else if others.any fun q => q.state != 0 && ((q.scports ||| q.cports) &&& (x.scports ||| x.cports) != 0 ||
      (q.smports ||| q.mports) &&& (x.smports ||| x.mports) != 0) then 5
  else 0

/-! ### The states (R332) -/

/-- GO (R307): a partition that is idle enters state 1. -/
def State.goCastling (s : State) (p : Nat) : State :=
  let x := s.part p
  if x.state = 0 then s.setPart p { x with state := 1 } else s

/-- The check of state 1 (R332, R334): a refusal, or state 2, at whose start the arriving memory ports join the matrix set and the
new slice list takes effect (R306, R333). -/
def State.castle (s : State) (p : Nat) : State :=
  let x := s.part p
  let r := s.castlingRefusal p
  if r ≠ 0 then s.setPart p { x with refuse := r, done := true, state := 0 }
  else s.setPart p { x with refuse := 0, state := 2, matrix := x.mports ||| x.smports, moved := [] }

/-- CASTLING_GO (R307, R332): state 1, and the check in it. -/
def execCastlingGo (p : Nat) (s : State) : Host.Outcome State Fault Refusal :=
  .next (if (s.part p).state = 1 then s.castle p else s.goCastling p)

/-- CASTLING_SWEEP_COMPLETE (R332, R333): every line has moved, and state 3 begins. -/
def execCastlingSweepComplete (p : Nat) (s : State) : Host.Outcome State Fault Refusal :=
  .next <|
    let x := s.part p
    if x.state = 2 then s.setPart p { x with state := 3, since := s.nowNs, moved := [] } else s

/-- The tasks on departing cores that the ladder does not hold; a cohort with a member there goes whole (R335). -/
def State.departing (s : State) (p : Nat) : List Task :=
  let x := s.part p
  let gone := coresOf (x.cports &&& ~~~x.scports)
  let out := s.tasks.filter fun t => gone.contains t.core && (s.ctx t.ctx).part == p
  s.tasks.filter fun t => (out.any fun y => y.mate t) && (s.ctx t.ctx).ladder.isNone

/-- A saved unit moved to remaining cores, to resume at its boundary (R332, R335): it goes through the form in which a save keeps it,
but for the waits on stage 2, which stay. -/
def State.moveUnit (s : State) (p : Nat) (u : List Task) : State :=
  let ids := u.map fun t => t.id
  let ws := s.warps.filter fun w => ids.contains w.task
  if (u.all fun t => s.saveable false t) = false then s
  else
    let s1 := u.foldl (fun s t => s.fenceL1 t.core true false 7) s
    let gens := u.flatMap fun t => t.slots.map fun x => (t.id, x.index, Table.get 0 s1.accGen (t.core * 16 + x.index))
    let bare : State := { s1 with
      tasks := s1.tasks.filter fun t => !ids.contains t.id
      warps := s1.warps.filter fun w => !ids.contains w.task }
    let free := fun (t : Task) => (ws.filter fun w => w.task == t.id).map fun w => w.movedOut
    (bare.unitBack free gens (s.part p).cores (u.map s1.taskOut)).getD s

/-- CASTLING_CGRACE_EXPIRY (R332, R335): CGRACE µs into state 3 the remaining tasks on departing cores are halted, and
those that can be saved are placed again. -/
def execCastlingCgraceExpiry (p : Nat) (s : State) : Host.Outcome State Fault Refusal :=
  .next <|
    let x := s.part p
    if x.state ≠ 3 ∨ s.nowNs < x.since + x.cgrace * 1000 then s
    else
      let ts := s.departing p
      let ids := ts.map fun t => t.id
      let s : State := { s with warps := s.warps.map fun w => if ids.contains w.task then w.halt else w }
      (savedUnits ts).foldl (fun s u => s.moveUnit p u) s

/-- Bytes, tags and marks of a partition's memory from an address on cleared. -/
def Mem.clearFrom (m : Mem) (p pa : Nat) : Mem :=
  let keep := fun (k : Nat) => decide (k < partKey p pa) || decide (partKey (p + 1) 0 ≤ k)
  ⟨m.bytes.filter fun c => keep c.1, m.tags.filter fun c => keep c.1, m.marks.filter fun c => keep (c.1 * 128)⟩

/-- The start of state 4 (R332): no task is left on departing cores, and the departing ports leave the matrix. -/
def State.leaveMatrix (s : State) (p : Nat) : State :=
  let x := s.part p
  let gone := coresOf (x.cports &&& ~~~x.scports)
  if s.tasks.any fun t => gone.contains t.core then s else s.setPart p { x with state := 4, matrix := x.smports }

/-- The scrub of state 4 (R332, R336): what lay on the departing ports and behind them is cleared; what of the partition's memory
lies below the new CAP has moved (R333). State 5 begins. -/
def State.scrub (s : State) (p : Nat) : State :=
  let x := s.part p
  let goneC := x.cports &&& ~~~x.scports
  let goneM := x.mports &&& ~~~x.smports
  let gone := coresOf goneC
  let s := s.l1Drop fun l => gone.contains l.core
  let s : State := { s with
    icache := s.icache.filter fun l => !gone.contains l.core
    accGen := s.accGen.filter fun g => !gone.contains (g.1 / 16)
    regGen := s.regGen.filter fun g => !gone.contains (g.1 / coreRegs)
    mem := if goneM = 0 then s.mem else s.mem.clearFrom p (capOf x.smports * 65536)
    dev := { s.dev with scrubbed := (s.dev.scrubbed.1 ||| goneC, s.dev.scrubbed.2 ||| goneM) } }
  s.setPart p { x with state := 5 }

/-- CASTLING_SCRUB (R332, R336): state 4 begins, and its scrub. -/
def execCastlingScrub (p : Nat) (s : State) : Host.Outcome State Fault Refusal :=
  .next (if (s.part p).state = 3 then s.leaveMatrix p else if (s.part p).state = 4 then s.scrub p else s)

/-- CASTLING_COMMIT (R332): the partition takes the staged sets and its new CAP. -/
def execCastlingCommit (p : Nat) (s : State) : Host.Outcome State Fault Refusal :=
  .next <|
    let x := s.part p
    if x.state ≠ 5 then s
    else
      let s : State := { s with dev := { s.dev with scrubbed := (s.dev.scrubbed.1 &&& ~~~x.scports, s.dev.scrubbed.2 &&& ~~~x.smports) } }
      s.setPart p { x with
        cports := x.scports
        mports := x.smports
        matrix := x.smports
        cap := capOf x.smports
        state := 0
        done := true }

/-! ### ALLOT (R307, R320) -/

/-- NETCAP (R318). -/
def netCap : Nat := 9600

/-- ALLOT_WRITE (R320): a write that would make the sum exceed NETCAP is ignored and sets ALLOTERR. -/
def State.writeAllot (s : State) (p : Nat) (v : Nat) : State :=
  let sum := (s.otherParts p).foldl (fun n q => n + q.allot) v
  let x := s.part p
  if netCap < sum then s.setPart p { x with allotErr := true } else s.setPart p { x with allot := v }

/-- ALLOT_WRITE (R320). -/
def execAllotWrite (p : Nat) (v : BitVec 16) (s : State) : Host.Outcome State Fault Refusal := .next (s.writeAllot p v.toNat)

end Sys2Proof.Machine
end

