-- ==== Sys2Proof/Machine/Network.lean ====
section
/-!
DEFINITION. The on-chip network and what reaches the device from the host and the fabric (spec 10, R306, R315 to R320,
R339 to R342).
-/
namespace Sys2Proof.Machine

/-! ### The crossbar (R306) -/

/-- What a die's engine ports serve, in ascending order (R17): the queue and launch front end, the context engine, the
collective engine, and the external interface with the fabric ports and, on the west die, the host link. -/
inductive EnginePort where
  | frontEnd | context | collective | external
  deriving DecidableEq, Repr

/-- The number of an engine port: 64 to 67 on the west die (0), 68 to 71 on the east (R17). -/
def EnginePort.num (e : EnginePort) (die : Nat) : Nat :=
  64 + 4 * (die % 2) + match e with | .frontEnd => 0 | .context => 1 | .collective => 2 | .external => 3

/-- The requester ports of the crossbar (R17, R306). -/
def requesterPorts : Nat := 72

/-- The row of a requester port: the matrix set of a core port's partition, none for a core port that has departed; for an
engine port the union of those of the enabled partitions. -/
def State.matrixRow (s : State) (port : Nat) : W64 :=
  let ps := (List.range 16).map s.part
  if port < 64 then
    match ps.find? fun p => p.cports.getLsbD port with
    | some p => if 4 ≤ p.state ∧ p.scports.getLsbD port = false then 0 else p.matrix
    | none => 0
  else if requesterPorts ≤ port then 0
  else (ps.filter fun p => p.enabled).foldl (fun m p => m ||| p.matrix) 0

/-- Whether the crossbar delivers a packet: its row, and for an engine port the partition it carries. The matrix knows nothing of a
packet that goes to no memory-side port. -/
def State.crosses (s : State) (p : Packet) : Bool :=
  decide (64 ≤ p.mport) || (s.matrixRow p.port).getLsbD p.mport && (decide (p.port < 64) || decide (16 ≤ p.part) || (s.part p.part).matrix.getLsbD p.mport)

/-! ### Outputs (R17, R317) -/

/-- The die of a requester port. -/
def portDie (port : Nat) : Nat := if port < 64 then port / 32 else (port - 64) / 4 % 2

/-- The outputs, by number: those of the crossbar to the memory-side ports 0 to 63 and, from 64, to the 72 requester ports; those of
the die-to-die link, by the die they leave; and the on-chip sides of the host port and of the 24 fabric ports. -/
def portOutput (port : Nat) : Nat := 64 + port
def linkOutput (die : Nat) : Nat := 136 + die
def hostOutput : Nat := 138
def fabricOutput (k : Nat) : Nat := 139 + k

/-- The die of an output. -/
def outputDie (o : Nat) : Nat :=
  if o < 64 then o / 32 else if o < 136 then portDie (o - 64) else if o < 138 then o - 136 else if o = 138 then 0 else (o - 139) / 12

/-- The way of a packet from a die by some outputs of one die: over the link where that is the other die. -/
def wayTo (die : Nat) (os : List Nat) : List Nat :=
  match os with
  | [] => []
  | o :: _ => if outputDie o = die then os else linkOutput die :: os

/-- The outputs to the host: that to the external interface of the west die, and the host port's (R17). -/
def hostWay : List Nat := [portOutput (EnginePort.num .external 0), hostOutput]

/-- The outputs to the fabric by one of its ports. -/
def fabricWay (k : Nat) : List Nat := [portOutput (EnginePort.num .external (k / 12)), fabricOutput k]

/-- A packet at the first output of its way. -/
def onWay (way : List Nat) (p : Packet) : Packet := { p with output := way.headD 0, route := way.drop 1 }

/-! ### Channels (R316 to R318) -/

/-- A channel's number in the order MGMT, INV, RSP, REQ, BULK, UPD. -/
def vcNum : VC → Nat
  | .mgmt => 0 | .inv => 1 | .rsp => 2 | .req => 3 | .bulk => 4 | .upd => 5

/-- The channels that are weighed, marked and rate-controlled. -/
def vcWeighed (c : VC) : Bool := decide (3 ≤ vcNum c)

/-- A network output. -/
def State.net (s : State) (o : Nat) : NetOut := Table.get .fresh s.nets o

/-- The packets of a channel that wait at an output. -/
def NetOut.of (n : NetOut) (c : VC) : List Packet := n.queue.filter fun p => p.vc == c

/-- The slot of a packet: its partition, or 16 for firmware traffic. -/
def packetSlot (p : Packet) : Nat := Nat.min p.part 16

/-- The head packet of the first of some slots, taken cyclically, after the one that the channel served last. -/
def NetOut.pickBy (slots : Nat) (slotOf : Packet → Nat) (n : NetOut) (c : VC) : Option Packet :=
  let last := n.lastPart.getD (vcNum c) (slots - 1)
  ((List.range slots).map fun i => (last + 1 + i) % slots).findSome? fun slot => (n.of c).find? fun p => slotOf p == slot

/-- Pick (R317): over the partitions, and firmware traffic after them. -/
def NetOut.pick (n : NetOut) (c : VC) : Option Packet := n.pickBy 17 packetSlot c

/-- The credit of a weighed channel. -/
def creditOf (c : Nat × Nat × Nat) (i : Nat) : Nat := match i with | 0 => c.1 | 1 => c.2.1 | _ => c.2.2

/-- A credit spent. -/
def spend (c : Nat × Nat × Nat) (i : Nat) : Nat × Nat × Nat :=
  match i with | 0 => (c.1 - 1, c.2) | 1 => (c.1, c.2.1 - 1, c.2.2) | _ => (c.1, c.2.1, c.2.2 - 1)

/-- The weighed channels in their order. -/
def weighedVC (i : Nat) : VC := match i with | 0 => .req | 1 => .bulk | _ => .upd

/-- The channel an output serves, with its credits and last channel after the choice (R317). -/
def NetOut.choose (n : NetOut) (weights : Nat × Nat × Nat) : Option (VC × NetOut) :=
  match [VC.mgmt, .inv, .rsp].find? fun c => !(n.of c).isEmpty with
  | some c => some (c, n)
  | none =>
    let ready := (List.range 3).filter fun i => !(n.of (weighedVC i)).isEmpty
    if ready = [] then none
    else
      let credits := if (ready.all fun i => creditOf n.credits i == 0) then weights else n.credits
      match ((List.range 3).map fun i => (n.last + 1 + i) % 3).find? fun i => ready.contains i && decide (0 < creditOf credits i) with
      | some i => some (weighedVC i, { n with credits := spend credits i, last := i })
      | none => none

/-- A queue of this many flits marks what enters it (R319). -/
def markFlits : Nat := 64

/-- A packet enters its output's queue (R319). -/
def State.enqueue (s : State) (p : Packet) : State :=
  let n := s.net p.output
  let held := (n.of p.vc).foldl (fun k x => k + x.flits) 0
  let p : Packet := { p with marked := p.marked || (vcWeighed p.vc && decide (markFlits ≤ held)) }
  { s with nets := Table.put .fresh s.nets p.output { n with queue := n.queue ++ [p] } }

/-- The response to a request, from the output that the request has come to: it carries the request's mark back to the source, to
the output of the source's port (R316, R319). -/
def responseTo (p : Packet) : Packet := onWay (wayTo (outputDie p.output) [portOutput p.port]) { p with vc := .rsp }

/-- Whether a request, or its response, is still under way. -/
def State.travels (s : State) (x : PktSrc) : Bool :=
  (s.sources.any fun n => n.2.queue.any fun p => p.src == x) || (s.nets.any fun n => n.2.queue.any fun p => p.src == x) ||
  s.hbm.any fun h => h.2.waiting.any fun p => p.src == x

/-- A response back at its source: its mark lowers the rate there and then; that of the last response of a load does when
LOAD_COMPLETE takes it (R319, R320). -/
def State.returned (s : State) (p : Packet) : State :=
  if !p.marked then s
  else
    match p.src with
    | .access id => if (s.loads.any fun l => l.id == id) && !s.travels p.src then { s with marks := s.marks ++ [id] } else s.marked p.ctx p.port
    | .command _ _ _ | .none => s.marked p.ctx p.port

/-- A packet at the end of its way: a request that needs HBM waits at its port, as every one of a class without ways does; another
is answered at once (R314, R315). -/
def State.arrive (s : State) (p : Packet) : State :=
  if vcWeighed p.vc then
    if 64 ≤ p.mport then s.enqueue (responseTo p)
    else
    let f := s.choose 2
    if f.1 = 1 ∨ (s.sclass p.cls).ways = 0 then
      let h := Table.get .fresh f.2.hbm p.mport
      { f.2 with hbm := Table.put .fresh f.2.hbm p.mport { h with waiting := h.waiting ++ [p] } }
    else f.2.enqueue (responseTo p)
  else match p.vc with
    | .rsp => s.returned p
    | _ => s

/-- A packet refused by the matrix is counted for its partition (R306). -/
def State.isolated (s : State) (p : Packet) : State :=
  if p.part < 16 then
    let x := s.part p.part
    s.setPart p.part { x with isolcnt := x.isolcnt + 1 }
  else s

/-- A packet sent by an output: on to the next one of its way, or to its end. -/
def State.forward (s : State) (p : Packet) : State :=
  match p.route with
  | [] => s.arrive p
  | o :: os => s.enqueue { p with output := o, route := os }

/-- PACKET_SEND (R317): an output sends one packet whole. -/
def execPacketSend (o : Nat) (s : State) : Host.Outcome State Fault Refusal :=
  .next <|
    match (s.net o).choose (s.dev.wreq, s.dev.wbulk, s.dev.wupd) with
    | none => s
    | some (c, n) =>
      match n.pick c with
      | none => s
      | some p =>
        let n : NetOut := { n with
          queue := dropFirst (fun x => x == p) n.queue
          lastPart := n.lastPart.set (vcNum c) (packetSlot p) }
        let s : State := { s with nets := Table.put .fresh s.nets o n }
        if s.crosses p then s.forward p else s.isolated p

/-! ### Admission and rates (R319, R320) -/

/-- The parts of a packet's token, and its depth in packets (R320). -/
def tokenUnit : Nat := 1024
def tokenDepth : Nat := 32

/-- Whether a packet's token buckets let it leave its source: MGMT, INV and RSP always (R319, R320). -/
def State.admissible (s : State) (p : Packet) : Bool :=
  !vcWeighed p.vc ||
    (decide (tokenUnit ≤ (Table.get .fresh s.rates (rateKey p.ctx p.port)).bucket) &&
      !(decide (p.part < 16) && (s.part p.part).allot != 0 && decide ((s.part p.part).bucket < p.bytes)))

/-- The packets that wait at a requester port, with the port's arbiter. -/
def State.source (s : State) (port : Nat) : NetOut := Table.get .fresh s.sources port

/-- The contexts among which a port admits in rotation (R310, R320). -/
def contextSlots : Nat := 98

/-- The packet that a requester port admits next: R317 over those that are admissible, with contexts in place of partitions
(R320). -/
def State.nextAdmit (s : State) (port : Nat) : Option Packet :=
  let n := s.source port
  let n : NetOut := { n with queue := n.queue.filter s.admissible }
  (n.choose (s.dev.wreq, s.dev.wbulk, s.dev.wupd)).bind fun c => c.2.pickBy contextSlots (fun p => p.ctx) c.1

/-- A packet leaves its source, and the port's arbiter moves on. -/
def State.leaveSource (s : State) (p : Packet) : State :=
  let n := s.source p.port
  if n.queue.contains p then
    let able : NetOut := { n with queue := n.queue.filter s.admissible }
    let m := match able.choose (s.dev.wreq, s.dev.wbulk, s.dev.wupd) with
      | some c => { n with credits := c.2.credits, last := c.2.last }
      | none => n
    let n' : NetOut := { m with queue := dropFirst (fun x => x == p) n.queue, lastPart := n.lastPart.set (vcNum p.vc) p.ctx }
    { s with sources := Table.put .fresh s.sources p.port n' }
  else s

/-- PACKET_ADMIT (R320): a packet of the weighed channels takes a token, and its size from an allotted partition's bucket;
one that cannot waits at its source. -/
def execPacketAdmit (pkt : Packet) (s : State) : Host.Outcome State Fault Refusal :=
  .next <|
    if !s.admissible pkt then s
    else
      let s := s.leaveSource pkt
      if !vcWeighed pkt.vc then s.enqueue pkt
      else
        let k := rateKey pkt.ctx pkt.port
        let r := Table.get .fresh s.rates k
        let x := s.part pkt.part
        let s : State := { s with rates := Table.put .fresh s.rates k { r with bucket := r.bucket - tokenUnit } }
        let s := if pkt.part < 16 ∧ x.allot ≠ 0 then s.setPart pkt.part { x with bucket := x.bucket - pkt.bytes } else s
        s.enqueue pkt

/-- RATE_RECOVERY (R320): r := min(1,024, r + 16) of every controller. -/
def execRateRecovery (s : State) : Host.Outcome State Fault Refusal :=
  .next { s with rates := Table.mapVals .fresh (fun _ r => { r with rate := Nat.min 1024 (r.rate + 16) }) s.rates }

/-- The buckets filled over a step of `ns` nanoseconds in which a port can inject `packets` packets (R320): ALLOT GB/s is
ALLOT bytes in a nanosecond. -/
def State.fillBuckets (s : State) (ns packets : Nat) : State :=
  { s with
    rates := Table.mapVals .fresh (fun _ r => { r with bucket := Nat.min (tokenDepth * tokenUnit) (r.bucket + r.rate * packets) }) s.rates
    parts := Table.mapVals .reset (fun _ p => { p with bucket := Nat.min (2000 * p.allot) (p.bucket + ns * p.allot) }) s.parts }

/-! ### HBM service (R315) -/

/-- The class a port serves next, and how many of it in a row that makes (R315). -/
def HbmPort.next (h : HbmPort) (weight : Nat → Nat) : Option (Nat × Nat) :=
  let all := h.waiting.map fun p => p.cls
  let heavy := all.filter fun c => decide (0 < weight c)
  let cs := if heavy = [] then all else heavy
  if cs.contains h.last ∧ h.run < weight h.last ∧ h.run ≠ 0 then some (h.last, h.run + 1)
  else (((List.range 32).map fun i => (h.last + 1 + i) % 32).find? fun c => cs.contains c).map fun c => (c, 1)

/-- HBM_REQUEST_SERVE (R315): the oldest waiting request of the class chosen is served, and answered (R316). -/
def execHbmRequestServe (m : Nat) (s : State) : Host.Outcome State Fault Refusal :=
  .next <|
    let h := Table.get .fresh s.hbm m
    match h.next fun c => (s.sclass c).weight with
    | none => s
    | some (c, run) =>
      let h' : HbmPort := { h with waiting := dropFirst (fun x => x.cls == c) h.waiting, last := c, run := run }
      let s' : State := { s with hbm := Table.put .fresh s.hbm m h' }
      match h.waiting.find? fun x => x.cls == c with
      | some p => s'.enqueue (responseTo p)
      | none => s'

/-! ### The packets of an access (R313, R316) -/

/-- A request of a context, which carries its id and its partition (R306, R310), with a service class (R313). -/
def State.request (s : State) (ctx cls port : Nat) (vc : VC) (bytes : Nat) (src : PktSrc) : Packet :=
  ⟨0, [], ctxId ctx, (s.ctx ctx).part, port, 64, cls, vc, bytes, Config.flitsOf bytes, false, src⟩

/-- A packet of the firmware, to a port (R310, R313). -/
def firmwarePacket (port to_ : Nat) (vc : VC) : Packet :=
  onWay (wayTo (portDie port) [portOutput to_]) ⟨0, [], 0, 16, port, 64, 0, vc, 8, Config.flitsOf 8, false, .none⟩

/-- A packet on its way to an address: to the memory-side port of a device line (R309, R333), by the host port, or by one of the
fabric ports. DESIGN CHOICE (log entry 81): a free one of the 24. -/
def State.packetTo (s : State) (p : Packet) (key : Nat) : Packet :=
  if isDeviceKey key then let m := s.portAt key; onWay (wayTo (portDie p.port) [m]) { p with mport := m }
  else if key < 17 * spaceSize then onWay (wayTo (portDie p.port) hostWay) p
  else onWay (wayTo (portDie p.port) (fabricWay (Config.pickAt s.tick key % 24))) p

/-- The requests of some lines. -/
def State.lineRequests (s : State) (lines : List Nat) (ctx cls port : Nat) (vc : VC) (src : PktSrc) : List Packet :=
  lines.map fun k => s.packetTo (s.request ctx cls port vc 128 src) (k * 128)

/-- Packets join those that wait at their ports. -/
def State.waitAt (s : State) (ps : List Packet) : State :=
  ps.foldl (fun s p =>
    let n := s.source p.port
    { s with sources := Table.put .fresh s.sources p.port { n with queue := n.queue ++ [p] } }) s

/-! ### Accesses from outside, by guest-physical address (R339, R340) -/

/-- The translation of a guest-physical page by a function's stage 2 alone, for an access; none where it faults. -/
def State.guestPage (s : State) (v : Nat) (write : Bool) (page : Nat) : Option Trans :=
  let c := s.ctx v
  match s.stage2 v (page * 65536) with
  | .error _ => none
  | .ok (e, pa) =>
    let t : Trans := ⟨pteKey c.part e pa, page * 65536, pteKind e, e.user && decide (e.kind ≠ 2), true, true, true, true, e.rd, e.wr, e.ex⟩
    if (if write then e.wr else e.rd) then some t else none

/-- The first address of an extent that stage 2 refuses, and whether for want of room in the tag pool, which the pages take from in
order (R308); or the translations of all of them. -/
def State.guestPages (s : State) (v : Nat) (write : Bool) (a n : Nat) : Except (Nat × Bool) (List (Nat × Trans)) :=
  (pagesOf a n).foldl (fun r p =>
    match r, s.guestPage v write p with
    | .error e, _ => .error e
    | .ok _, none => .error (Nat.max a (p * 65536), false)
    | .ok ts, some t =>
      if (s.overPool v (ts.map (fun x => x.2) ++ [t])).isSome then .error (Nat.max a (p * 65536), true) else .ok (ts ++ [(p, t)])) (.ok [])

/-- A byte as an agent outside the package reads it at its home; of a poisoned source its value is free (R367, log
entry 3). -/
def State.outsideByte (s : State) (trs : List (Nat × Trans)) (a : Nat) : Byte :=
  match transKey trs a with
  | none => 0
  | some (tr, k) =>
    let b := s.mem.source tr.tagged a k
    if b.bad.isSome then BitVec.ofNat 8 (Config.pickAt s.tick a) else b.val

/-- What an access of an agent outside the package leaves behind, and sends from its port: its lines at their homes, the tags of its
pages taken, and a request for each line. -/
def State.comesIn (s : State) (v port a n cls : Nat) (trs : List (Nat × Trans)) : State :=
  let lines := (linesIn a n).filterMap fun l => transKey trs (l * 128)
  let s := lines.foldl (fun s x => (s.visit v x.1 x.2).takeTags v x.1) s
  s.waitAt (s.lineRequests (lines.map fun x => x.2 / 128) v cls port .req .none)

/-- An access of an agent outside the package, performed at its home; a read returns its bytes. -/
def State.outsideAccess (s : State) (v hint port a n cls : Nat) (trs : List (Nat × Trans)) (wr : Option (List Byte)) : State :=
  let s := s.comesIn v port a n cls trs
  match wr with
  | none =>
    let bs := (List.range n).map fun i => s.outsideByte trs (a + i)
    { s with dev := { s.dev with reply := some bs }, tick := s.tick + 1 }
  | some bs =>
    let r := layRun a ((bs.take n).map SByte.clean)
    let s := s.perform none noCore v hint ((runItems trs r).filter fun it => it.size != 0) (runPages trs r)
    { s with dev := { s.dev with reply := some [] } }

/-- The bytes an access covers. -/
def accessSize (len : Nat) (wr : Option (List Byte)) : Nat := match wr with | none => len | some bs => Nat.min len bs.length

/-- HOST_WINDOW_ACCESS (R339): stage 2 of WVF; a fault reads all ones, drops writes and notifies the hypervisor. Outside the
window there is nothing to access. -/
def execHostWindowAccess (off len : Nat) (wr : Option (List Byte)) (s : State) : Host.Outcome State Fault Refusal :=
  .next <|
    let d := s.dev
    let n := accessSize len wr
    if !d.wen || decide (d.wsize * 65536 < off + n) then s
    else
      let a := d.wgpa + off
      match s.guestPages d.wvf wr.isSome a n with
      | .ok trs => s.outsideAccess d.wvf 6 (EnginePort.num .external 0) a n d.wclass trs wr
      | .error (gpa, pool) =>
        let f := s.fresh
        let s : State := { f.2 with dev := { d with reply := some (if wr.isSome then [] else List.replicate n 0xFF) } }
        s.postEvent ⟨1, d.wvf, f.1, BitVec.ofNat 64 gpa, (if wr.isSome then 1 else 0) + (if pool then 4 else 0), []⟩

/-- The enabled function that a domain tenant id names (R340). -/
def State.domainVf (s : State) (dom : Nat) : Option Nat := (s.ctxs.find? fun c => c.2.en && c.2.domten == dom).map fun c => c.1

/-- A packet of the fabric refused (R340, R341). -/
def State.refuse (s : State) : State := { s with dev := { s.dev with reply := none } }

/-- The bytes a fabric access covers, whether it may write, and what it does to a word (R180, R228, R229). -/
def fabricSize (len : Nat) : FabricOp → Nat
  | .read | .atom _ _ | .cas _ _ => len
  | .write bs => Nat.min len bs.length
  | .readWord | .writeWord _ => 8

/-- Whether a fabric access may write. -/
def fabricWrites : FabricOp → Bool
  | .read | .readWord => false
  | .write _ | .writeWord _ | .atom _ _ | .cas _ _ => true

/-- What it does to one location; none for a run of bytes. -/
def fabricOnWord (tagged : Bool) (k z : Nat) (m : Mem) : FabricOp → Option (Option StoreItem × Word)
  | .read | .write _ => none
  | .readWord => some (none, m.whole tagged k)
  | .writeWord x => some (some ⟨k, 8, x.pay, if tagged then some x.tag else none, false⟩, .nil)
  | .atom o x => some (atomOn m tagged k z (.op o x))
  | .cas e x => some (atomOn m tagged k z (.cas e x))

/-- A word as a reply carries it: its payload and the code of its tag. -/
def wordReply (x : Word) : List Byte := bytesLE x.pay.toNat 8 ++ [x.tag.code]

/-- An access of the fabric to one location of device memory, at its home and indivisible there (R180, R182, R340). DESIGN CHOICE (log
entry 81): one that is not aligned, or of a size that no access has, is refused. -/
def State.fabricWord (s : State) (v port gpa z : Nat) (trs : List (Nat × Trans)) (op : FabricOp) : State :=
  match transKey trs gpa with
  | none => s.refuse
  | some (tr, k) =>
    if (z ≠ 4 ∧ z ≠ 8) ∨ gpa % z ≠ 0 ∨ tr.kind ≠ .device then s.refuse
    else
      let s := s.comesIn v port gpa z 0 trs
      match fabricOnWord tr.tagged k z s.mem op with
      | none => s
      | some (it, x) =>
        let s := s.perform none noCore v 5 it.toList [tr.gpa / 65536]
        { s with dev := { s.dev with reply := some (wordReply x) } }

/-- FABRIC_MEMORY_ACCESS (R340): at DOMAIN scope under stage 2 of the function named, or refused. It comes by a fabric port of either
die (R17), freely. -/
def execFabricMemoryAccess (dom gpa len : Nat) (op : FabricOp) (s : State) : Host.Outcome State Fault Refusal :=
  .next <|
    match s.domainVf dom with
    | none => s.refuse
    | some v =>
      let n := fabricSize len op
      match s.guestPages v (fabricWrites op) gpa n with
      | .error _ => s.refuse
      | .ok trs =>
        let port := EnginePort.num .external (Config.pickAt s.tick 0)
        match op with
        | .read => s.outsideAccess v 5 port gpa n 0 trs none
        | .write bs => s.outsideAccess v 5 port gpa n 0 trs (some bs)
        | .readWord | .writeWord _ | .atom _ _ | .cas _ _ => s.fabricWord v port gpa n trs op

/-! ### Launch packets (R341) -/

/-- An entry of the fabric launch table. -/
structure LTEntry where
  desc : W64
  lo : Nat
  hi : Nat
  maxBlk : Nat
  cls : Nat
  deriving DecidableEq, Repr

/-- Entry i of a function's launch table, read through its stage 2. DESIGN CHOICE (log entry 114): of a CLASS above 31 the low five bits
count. -/
def State.ltEntry (s : State) (v i : Nat) : Option LTEntry :=
  let c := s.ctx v
  let word := fun (k : Nat) =>
    match s.stage2 v (c.ltab.toNat + 32 * i + 8 * k) with
    | .ok (e, pa) => if e.rd then some (BitVec.ofNat 64 (s.mem.read (pteKey c.part e pa) 8)) else none
    | .error _ => none
  match word 0, word 1, word 2 with
  | some d, some x, some y => some ⟨d, bits x 15 0, bits x 31 16, bits x 63 32, bits y 4 0⟩
  | _, _, _ => none

/-- The entry under which a launch packet is accepted. -/
def State.ltMatch (s : State) (v : Nat) (desc : W64) (pkg blocks : Nat) : Option LTEntry :=
  ((List.range (s.ctx v).ltcount).filterMap fun i => s.ltEntry v i).find? fun e =>
    e.desc == desc && decide (e.lo ≤ pkg) && decide (pkg ≤ e.hi) && decide (blocks ≤ e.maxBlk)

/-- FABRIC_LAUNCH_PACKET (R341): checked against the launch table; then a launch of that function (R255). -/
def execFabricLaunchPacket (dom : Nat) (desc : W64) (pkg blocks : Nat) (s : State) : Host.Outcome State Fault Refusal :=
  .next <|
    match s.domainVf dom with
    | none => s.refuse
    | some v =>
      if (s.ctx v).fmask.getLsbD 3 then s.refuse
      else
        match s.ltMatch v desc pkg blocks with
        | none => s.refuse
        | some e =>
          let ws := match s.deviceWords v 1 desc 16 with | .ok ws => some ws | .error _ => none
          let a : Ask := ⟨desc, ws, true, some (blocks, 1, 1), false, false, false⟩
          match s.refusal v a with
          | some _ => s.refuse
          | none =>
            let kd := kdescOf (ws.getD [])
            let r := (s.deviceTouch v 1 desc 16).accept v desc kd .fabric ⟨.bits, kd.arg⟩ 0 0 e.cls fun l => { l with limit := blocks, count := blocks }
            let s := r.2.2.startRunning v
            { s with dev := { s.dev with reply := some [] } }

/-- FABRIC_COLLECTIVE_TRAFFIC (R340, R246): a part of a DOMAIN collective, for an enabled function. -/
def execFabricCollectiveTraffic (msg : CollMsg) (s : State) : Host.Outcome State Fault Refusal :=
  .next (if (s.domainVf (msg.dom / 65536)).isSome then { s with colls := s.colls ++ [msg] } else s)

end Sys2Proof.Machine
end

