-- ==== Sys2Proof/Machine/Traffic.lean ====
section
/-!
DEFINITION. The traffic of the on-chip network (spec 10, R313, R316, R319, R320): the packets that what the machine has done in a
step sends, by channel, port, class and context, and which accesses still wait for theirs (log entry 81).
-/
namespace Sys2Proof.Machine

/-! ### Channels and ports (R17, R316) -/

/-- The channel on which a command's transfers travel; none for one that moves no data. -/
def cmdChannel (op : EngOp) : Option VC :=
  match op with
  | .acpy .. | .amcast .. | .agath .. | .ascat .. | .hcpy .. | .sxpd .. | .spack .. => some .bulk
  | .acoll .. => some .upd
  | .tlsig _ | .resolution _ | .completion _ => none

/-- The requester port of a command: the collective engine's of its die for ACOLL, the core's own for the others. -/
def cmdPort (op : EngOp) (core : Nat) : Nat :=
  match op with
  | .acoll .. => EnginePort.num .collective (dieOf core)
  | _ => core / 8

/-- The channel of a tile operation's memory traffic. -/
def tileChannel (x : TileDo) : Option VC :=
  match x with
  | .drain (.memory _ _) _ => some .bulk
  | .drainAdd _ => some .upd
  | .product _ _ _ | .drain (.scratch _ _) _ | .accld _ => none

/-- The service class of a task (R313). -/
def State.classOf (s : State) (task : Nat) : Nat := ((s.task? task).map fun t => t.pri).getD 0

/-- The packets of a transfer that goes to requester ports: a multicast to the cores it names, and what a collective's members hand
to the collective engine of their die and, beyond the package, to the fabric (R243, R246, R340). -/
def State.portPackets (s : State) (t : Task) (c : EngCmd) (src : PktSrc) : List Packet :=
  let send := fun (p : Packet) (bytes : Nat) (way : List Nat) => List.replicate ((bytes + 127) / 128) (onWay way p)
  match c.op with
  | .amcast _ m n =>
    (castCores t.core m).flatMap fun k =>
      send (s.request t.ctx t.pri (t.core / 8) .bulk 128 src) n.toNat (wayTo (dieOf t.core) [portOutput ((t.core / 64 * 64 + k) / 8)])
  | .acoll dom _ ty _ _ n gid _ =>
    let coll := EnginePort.num .collective (dieOf t.core)
    if dom then
      if (s.group t.ctx gid).isSome then
        send (s.request t.ctx t.pri coll .upd 128 src) (n * collBytes ty) (wayTo (dieOf t.core) (fabricWay (Config.pickAt s.tick t.core % 24)))
      else []
    else send (s.request t.ctx t.pri (t.core / 8) .upd 128 src) (n * collBytes ty) (wayTo (dieOf t.core) [portOutput coll])
  | _ => []

/-! ### What a step sends -/

/-- The requests of the accesses issued since the identity `n` was the next: loads, stores, atomics and tile operations. -/
def State.accessTraffic (s : State) (n : Nat) : List Packet :=
  ((s.loads.filter fun p => decide (n ≤ p.id)).flatMap fun p => s.lineRequests p.lines p.ctx p.cls (p.core / 8) .req (.access p.id)) ++
  ((s.stores.filter fun p => decide (n ≤ p.id)).flatMap fun p =>
    s.lineRequests (distinct ((p.items.filter fun it => !inL1 p.hint it.key).map fun it => it.key / 128)) p.ctx (s.classOf p.task) (p.core / 8) .req (.access p.id)) ++
  ((s.atoms.filter fun p => decide (n ≤ p.id)).flatMap fun p =>
    s.lineRequests (distinct (p.items.map fun it => it.key / 128)) p.ctx (s.classOf p.task) (p.core / 8) .req (.access p.id)) ++
  (s.tiles.filter fun x => decide (n ≤ x.id)).flatMap fun x =>
    match tileChannel x.act, s.task? x.task with
    | some vc, some t => s.lineRequests x.lines t.ctx t.pri (x.core / 8) vc (.access x.id)
    | _, _ => []

/-- Whether a command had started. -/
def State.hadStarted (s : State) (task eng num : Nat) : Bool :=
  match s.task? task with
  | some t => (t.engCtx eng).cmds.any fun c => c.num == num && c.started
  | none => false

/-- The transfers of the commands that have started since a state `b`: a packet for each line they move. -/
def State.commandTraffic (b s : State) : List Packet :=
  s.tasks.flatMap fun t => t.eng.flatMap fun e => e.2.cmds.flatMap fun c =>
    match cmdChannel c.op with
    | some vc =>
      if c.started && !b.hadStarted t.id e.1 c.num then
        s.lineRequests (s.cmdLines t c) t.ctx t.pri (cmdPort c.op t.core) vc (.command t.id e.1 c.num) ++
          s.portPackets t c (.command t.id e.1 c.num)
      else []
    | none => []

/-- Invalidations since a state `b`: header words that an atomic has changed (R204), lines that another context's id has taken over
in an L1 (R311), and Castling's probes (R333). -/
def State.invalidations (b s : State) : List Packet :=
  ((b.atoms.filter fun p => !(s.atoms.any fun q => q.id == p.id)).flatMap fun p => (p.items.filter b.headerCas).map fun it =>
    s.packetTo (s.request p.ctx 0 (p.core / 8) .inv 8 .none) it.key) ++
  ((b.l1.filter fun l => s.l1.any fun k => k.core == l.core && k.line == l.line && k.ctx != l.ctx).map fun l =>
    s.packetTo (s.request l.ctx 0 (l.core / 8) .inv 8 .none) (l.line * 128)) ++
  s.parts.flatMap fun p => (p.2.moved.filter fun k => !(b.part p.1).moved.contains k).map fun k =>
    let key := partKey p.1 (k * 128)
    let old := (homeOf (portsOf p.2.mports) (k * 128)).2.1
    let port := EnginePort.num .context (s.portAt key / 32)
    onWay (wayTo (portDie port) [old]) { firmwarePacket port port .inv with mport := old }

/-- Management since a state `b`: the steps of Castling and of the ladder, which the firmware sends the ports of the cores concerned;
and the transfers of the areas that contexts are saved to and restored from. DESIGN CHOICE (log entry 115): the front-end and context-engine ports of the
west die carry all of it. -/
def State.management (b s : State) : List Packet :=
  ((s.parts.filter fun p => p.2.state != (b.part p.1).state).flatMap fun p =>
    ((List.range 64).filter fun i => (p.2.cports ||| p.2.scports).getLsbD i).map fun i => firmwarePacket (EnginePort.num .frontEnd 0) i .mgmt) ++
  ((s.ctxs.filter fun c => c.2.ladder != (b.ctx c.1).ladder).flatMap fun c =>
    (distinct ((s.tasks.filter fun t => t.ctx == c.1).map fun t => t.core / 8)).map fun i => firmwarePacket (EnginePort.num .context 0) i .mgmt) ++
  (s.ctxs.filter fun c => c.2.saveState != (b.ctx c.1).saveState && (c.2.saveState == 3 || c.2.saveState == 5)).flatMap fun c =>
    (List.range (c.2.savesize * 512)).filterMap fun i =>
      match s.stage2 c.1 (c.2.savegpa + 128 * i) with
      | .ok (e, pa) => some (s.packetTo (s.request c.1 0 (EnginePort.num .context 0) .bulk 128 .none) (pteKey c.2.part e pa))
      | .error _ => none

/-- A register access of the host or of the hypervisor, from the host link to the front end of the west die (log entry 115). -/
def registerPacket : Packet := firmwarePacket (EnginePort.num .external 0) (EnginePort.num .frontEnd 0) .mgmt

/-- The packets of a step from `b` to `s` join those that wait at their ports. -/
def State.inject (b s : State) : State :=
  s.waitAt (s.accessTraffic b.nextId ++ b.commandTraffic s ++ b.invalidations s ++ b.management s)

end Sys2Proof.Machine
end

