-- ==== Sys2Proof/Machine/Device.lean ====
section
/-!
DEFINITION. The device: register reads and writes (spec 00, R11), reset, firmware images and attestation (spec 11, R370 to
R372), errors (spec 11, R367, R368), power (spec 01, R30, R31), and the traps of
units that cannot be fetched or decoded (spec 02, R34, R60).
-/
namespace Sys2Proof.Machine

/-! ### Registers read (R307, R323, R359) -/

/-- A field of a register at its place. -/
def fieldAt (v lo : Nat) : Nat := v * 2 ^ lo
/-- A bit of a register at its place. -/
def flagAt (b : Bool) (lo : Nat) : Nat := if b then 2 ^ lo else 0

/-- A word of a partition's registers as it reads (R307). -/
def Part.word (p : Part) (off : Nat) : W64 :=
  match off with
  | 0x00 => p.cports
  | 0x08 => p.mports
  | 0x10 => p.scports
  | 0x18 => p.smports
  | 0x20 => BitVec.ofNat 64 (fieldAt p.cgrace 16)
  | 0x28 => BitVec.ofNat 64 (p.state + fieldAt p.refuse 8 + flagAt p.done 12)
  | 0x30 => BitVec.ofNat 64 p.cap
  | 0x38 => BitVec.ofNat 64 (p.tpbase + fieldAt p.tpsize 32)
  | 0x40 => BitVec.ofNat 64 (p.allot + flagAt p.allotErr 16)
  | 0x48 => p.isolcnt
  | 0x50 => BitVec.ofNat 64 p.hdrp
  | _ => 0

/-- A word of a function's configuration block as it reads (R323, R359): WO fields as zero. -/
def Ctx.cfgWord (c : Ctx) (v off : Nat) : W64 :=
  match off with
  | 0x00 => BitVec.ofNat 64 (c.part + flagAt c.en 4 + fieldAt (ctxId v) 8 + fieldAt c.classMask.toNat 32)
  | 0x08 => BitVec.ofNat 64 (c.qweight + fieldAt c.vqmax 16)
  | 0x10 => BitVec.ofNat 64 (c.grace + fieldAt c.kill 16 + fieldAt c.slice 32)
  | 0x18 => BitVec.ofNat 64 (flagAt c.s2en 0 + c.s2root)
  | 0x20 => BitVec.ofNat 64 c.fmask.toNat
  | 0x28 => c.maskCnt
  | 0x30 => c.ltab
  | 0x38 => BitVec.ofNat 64 (c.ltcount + fieldAt c.domten 16)
  | 0x40 => BitVec.ofNat 64 c.savegpa
  | 0x48 => BitVec.ofNat 64 c.savesize
  | 0x50 => BitVec.ofNat 64 (fieldAt c.saveState 8 + flagAt c.pinned 11)
  | 0x58 => c.timeadj
  | 0x60 => BitVec.ofNat 64 (flagAt c.dirtyEn 0 + c.dirtyBase)
  | 0x68 => BitVec.ofNat 64 c.dirtyPages
  | 0x70 => BitVec.ofNat 64 (flagAt c.s2all 1 + fieldAt c.s2log 8 + c.s2gpa + flagAt c.s2busy 63)
  | 0x80 => c.hvval
  | 0x88 => BitVec.ofNat 64 (flagAt c.pauseIncl 0)
  | 0x90 | 0x98 | 0xA0 | 0xA8 | 0xB0 | 0xB8 | 0xC0 | 0xC8 => c.digest.extractLsb' (8 * (off - 0x90)) 64
  | _ => 0

/-- A service class as it reads (R312). -/
def SClass.word (k : SClass) : W64 := BitVec.ofNat 64 (k.ways.toNat + fieldAt k.weight 16)

/-- Eight bytes of the mailbox from an offset, as they read (R372). -/
def eightBytes (f : Nat → Byte) (i : Nat) : W64 := BitVec.ofNat 64 (numLE ((List.range 8).map fun j => f (i + j)))

/-- The package's own registers as they read (R318, R339, R358, R368, R370, R372): WO fields as zero. -/
def State.devWord (s : State) (off : Nat) : W64 :=
  let d := s.dev
  match off with
  | 0x110000 => identWord
  | 0x112000 => BitVec.ofNat 64 (d.wreq + fieldAt d.wbulk 4 + fieldAt d.wupd 8 + fieldAt 9600 12)
  | 0x113000 => BitVec.ofNat 64 (flagAt d.wen 0 + fieldAt d.wvf 1 + fieldAt d.wclass 8)
  | 0x113008 => BitVec.ofNat 64 d.wgpa
  | 0x113010 => BitVec.ofNat 64 (fieldAt d.wsize 16)
  | 0x114028 => BitVec.ofNat 64 (flagAt d.ready 0 + flagAt d.err 1)
  | 0x115000 => BitVec.ofNat 64 d.evbase
  | 0x115008 => BitVec.ofNat 64 d.evlog
  | 0x115010 => BitVec.ofNat 64 d.evtail
  | 0x115018 => BitVec.ofNat 64 d.evhead
  | 0x116000 => d.cecnt
  | 0x116008 => d.uecnt
  | 0x116010 => BitVec.ofNat 64 (d.ueaddr % 2 ^ 48 + fieldAt d.uewhere 48)
  | _ =>
    if 0x114000 ≤ off ∧ off < 0x114020 then eightBytes (Table.get 0 d.nonce) (off - 0x114000)
    else if 0x114100 ≤ off ∧ off < 0x114300 then eightBytes (Table.get 0 d.report) (off - 0x114100)
    else if 0x114300 ≤ off ∧ off < 0x114500 then eightBytes Config.deviceCert (off - 0x114300)
    else 0

/-- An aligned 8-byte word of the physical function's BAR0 as it reads. -/
def State.pfWord (s : State) (off : Nat) : W64 :=
  if 0x100000 ≤ off ∧ off < 0x101000 then (s.part ((off - 0x100000) / 0x100)).word (off % 0x100)
  else if 0x111000 ≤ off ∧ off < 0x111100 then (Table.get .reset s.classes ((off - 0x111000) / 8)).word
  else if 0x120000 ≤ off ∧ off < 0x126000 then
    let v := (off - 0x120000) / 0x100
    (s.ctx v).cfgWord v (off % 0x100)
  else s.devWord off

/-- An aligned 8-byte word of a function's BAR0 as it reads (R324): the two WO registers as zero. -/
def Ctx.vfWord (c : Ctx) (off : Nat) : W64 :=
  match off with
  | 0x08 => c.vqtab
  | 0x10 => BitVec.ofNat 64 c.vqcount
  | 0x18 => BitVec.ofNat 64 c.s1root
  | _ => 0

/-- What a read of a register gives at a level (R11): the level that owns it and those above may read it. -/
def State.readRegister (s : State) (bar : Option Nat) (off pl : Nat) : Option W64 :=
  match bar with
  | none => if pl < 2 then none else some (s.pfWord off)
  | some vf => if pl < 1 ∨ 96 ≤ vf then none else some ((s.ctx vf).vfWord off)

/-! ### Attestation (R372) -/

/-- What a report's configuration digest covers: the partition registers and, for a function, its block. -/
def State.configWords (s : State) (vf : Option Nat) : List W64 :=
  ((List.range 16).flatMap fun p => (List.range 11).map fun i => (s.part p).word (8 * i)) ++
  (match vf with
    | some v => (List.range 26).map fun i => (s.ctx v).cfgWord v (8 * i)
    | none => [])

/-- Bytes 0 to 223 of a report. -/
def State.reportBody (s : State) (vf : Option Nat) : List Byte :=
  bytesLE identWord.toNat 8 ++ bytesLE s.fwrel.toNat 8 ++ ((List.range 32).map fun i => Table.get 0 s.dev.nonce i) ++
  sha512 (if s.dev.image = [] then Config.factoryImage else s.dev.image) ++
  sha512 ((s.configWords vf).flatMap fun w => bytesLE w.toNat 8) ++
  bytesLE (vf.getD 0xFFFF) 2 ++ List.replicate 14 0 ++ ((List.range 32).map Config.devicePublicKey)

/-- A report made: its body and the signature of it. -/
def State.attest (s : State) (vf : Option Nat) : State :=
  let body := s.reportBody vf
  let bytes := body ++ (List.range 64).map (Config.signature (sha512 body))
  { s with dev := { s.dev with report := putBytes [] 0 bytes, ready := true, err := false } }

/-- A command of the mailbox refused (R372). -/
def State.attestRefused (s : State) : State := { s with dev := { s.dev with ready := false, err := true } }

/-- ATTEST_DEVICE_REPORT (R372). -/
def execAttestDeviceReport (s : State) : Host.Outcome State Fault Refusal := .next (s.attest none)

/-- CMD 2 for a function; there are 96 (R372, R323). -/
def State.attestVf (s : State) (vf : Nat) : State := if vf < 96 then s.attest (some vf) else s.attestRefused

/-- ATTEST_VF_REPORT (R372). -/
def execAttestVfReport (vf : Nat) (s : State) : Host.Outcome State Fault Refusal := .next (s.attestVf vf)

/-! ### Reset and firmware (R332, R371) -/

/-- The memory that a reset of the device does not reach: that of the host and of other packages. -/
def Mem.outside (m : Mem) : Mem :=
  let far := fun (k : Nat) => decide (16 * spaceSize ≤ k)
  ⟨m.bytes.filter fun c => far c.1, m.tags.filter fun c => far c.1, m.marks.filter fun c => far (c.1 * 128)⟩

/-- The device reset (R371, R332): an accepted image runs from here on. What lies outside the device stays, and so do
the clocks and which blocks have power (R30, R364; log entry 86). -/
def State.resetDevice (s : State) : State :=
  { State.reset with
    mem := s.mem.outside
    dev := { Dev.reset with
      image := s.dev.nextImage.getD s.dev.image
      gated := s.dev.gated
      woke := s.dev.woke
      freq := s.dev.freq
      cxl := s.dev.cxl }
    inputs := s.inputs
    nowNs := s.nowNs
    cycles := s.cycles
    tick := s.tick
    nextId := s.nextId }

/-- DEVICE_RESET (R371). -/
def execDeviceReset (s : State) : Host.Outcome State Fault Refusal := .next s.resetDevice

/-- Whether an image begins with the header of R371 and has the body the header names. -/
def imageHeader (img : List Byte) : Bool :=
  decide (192 ≤ img.length) && decide (numLE (img.take 4) = 0x57465347) && decide (192 + numLE ((img.drop 16).take 8) = img.length) &&
  decide ((img.getD 88 0).toNat ≤ 3) && ((img.drop 89).take 39).all fun b => b == 0

/-- What the boot ROM checks of an image (R371): the key's digest in a fused slot that is not revoked, the signature under it, the
rollback number, the body's digest; and its release is one of the 3.x series (R1; log entry 7). -/
def imageVerifies (img : List Byte) : Bool :=
  let key := Config.signingKey img
  ((List.range 4).any fun k => !Config.revoked k && Config.fusedKey k == sha512 key) &&
  Config.ed25519Verifies key (sha512 (img.take 128)) ((img.drop 128).take 64) &&
  decide (Config.minRollback ≤ numLE ((img.drop 12).take 4)) && sha512 (img.drop 192) == (img.drop 24).take 64 &&
  decide (numLE ((img.drop 4).take 8) / 2 ^ 32 % 2 ^ 16 = 3)

/-- FIRMWARE_IMAGE_LOAD (R371): an accepted image runs from the next reset, a refused one changes nothing. -/
def execFirmwareImageLoad (img : List Byte) (s : State) : Host.Outcome State Fault Refusal :=
  .next (if imageHeader img && imageVerifies img then { s with dev := { s.dev with nextImage := some img } } else s)

/-! ### Registers written (R11) -/

/-- A write of a partition's registers (R307). -/
def State.writePart (s : State) (p off : Nat) (v : W64) : State :=
  let x := s.part p
  match off with
  | 0x10 => if x.state = 0 then s.setPart p { x with scports := v } else s
  | 0x18 => if x.state = 0 then s.setPart p { x with smports := v } else s
  | 0x20 =>
    let s := s.setPart p { x with cgrace := if bits v 31 16 = 0 then x.cgrace else bits v 31 16 }
    if bitAt v 0 then s.goCastling p else s
  | 0x28 => if bitAt v 12 then s.setPart p { x with done := false } else s
  | 0x38 => s.setPart p { x with tpbase := bits v 31 0, tpsize := bits v 63 32 }
  | 0x40 => (s.setPart p { x with allotErr := x.allotErr && !bitAt v 16 }).writeAllot p (bits v 15 0)
  | 0x48 => if v = 0 then s else s.setPart p { x with isolcnt := 0 }
  | 0x50 =>
    let s : State := if x.hdrp = bits v 1 0 then s else { s with hdrs := s.hdrs.filter fun h =>
      !(x.cports.getLsbD (h.core / 8) && !(s.tasks.any fun t => t.core == h.core)) }
    s.setHdrp p (bits v 1 0)
  | _ => s

/-- The words of a function's block that only store what is written (R323, R359). -/
def Ctx.store (c : Ctx) (off : Nat) (v : W64) : Ctx :=
  match off with
  | 0x08 => { c with qweight := if bits v 7 0 = 0 then c.qweight else bits v 7 0, vqmax := bits v 31 16 }
  | 0x10 =>
    let g := if bits v 15 0 = 0 then c.grace else bits v 15 0
    { c with grace := g, kill := if bits v 31 16 < g then c.kill else bits v 31 16, slice := bits v 47 32 }
  | 0x18 => { c with s2en := bitAt v 0, s2root := bits v 47 12 * 4096 }
  | 0x20 => { c with fmask := v.setWidth 4 }
  | 0x28 => if v = 0 then c else { c with maskCnt := 0 }
  | 0x30 => { c with ltab := v &&& 0x01FFFFFFFFFFFFFF }
  | 0x38 => { c with ltcount := bits v 15 0, domten := bits v 31 16 }
  | 0x40 => { c with savegpa := bits v 47 16 * 65536, pinned := false, probeAt := 0 }
  | 0x48 => { c with savesize := bits v 31 0, pinned := false, probeAt := 0 }
  | 0x58 => { c with timeadj := v }
  | 0x60 => { c with dirtyEn := bitAt v 0, dirtyBase := bits v 47 12 * 4096 }
  | 0x68 => { c with dirtyPages := bits v 31 0 }
  | 0x80 => { c with hvval := v }
  | 0x88 => { c with pauseIncl := bitAt v 0 }
  | 0x90 | 0x98 | 0xA0 | 0xA8 | 0xB0 | 0xB8 | 0xC0 | 0xC8 =>
    let sh := 8 * (off - 0x90)
    { c with digest := (c.digest &&& ~~~(((BitVec.allOnes 64).setWidth 512) <<< sh)) ||| (v.setWidth 512 <<< sh) }
  | _ => c

/-- A write of a function's configuration block (R323, R359): PART is ignored while EN is 1, and a rising EN enables the
function (R360). -/
def State.writeCfg (s : State) (vf off : Nat) (v : W64) : State :=
  let c := s.ctx vf
  match off with
  | 0x00 =>
    let c' : Ctx := { c with part := if c.en then c.part else bits v 3 0, classMask := v.extractLsb' 32 32 }
    let s := s.setCtx vf c'
    if bitAt v 4 then (if c.en then s else s.enable vf)
    else if c.en then (s.setCtx vf { c' with en := false }).destroy vf else s
  | 0x50 =>
    match bits v 2 0 with
    | 1 => s.preempt vf
    | 2 => s.restoreCmd vf
    | 3 => s.killCtx vf 16
    | 4 => s.continueCmd vf
    | _ => s
  | 0x70 =>
    let s := s.setCtx vf { c with s2all := bitAt v 1, s2log := bits v 13 8, s2gpa := bits v 47 16 * 65536 }
    if bitAt v 0 then s.s2Inv vf else s
  | 0x78 =>
    let r := bits v 31 0
    let s := s.setCtx vf { c with ref := r }
    match bits v 35 32 with
    | 1 => s.retry vf r
    | 2 => s.convert vf r
    | 3 => s.hcallAnswer vf r
    | _ => s
  | _ => s.setCtx vf (c.store off v)

/-- A field that ignores a write of 0 (R318). -/
def nonZero (new old : Nat) : Nat := if new = 0 then old else new

/-- The package's own registers (R312, R318, R339, R358, R368, R372). -/
def State.writeDev (s : State) (off : Nat) (v : W64) : State :=
  let d := s.dev
  match off with
  | 0x112000 => { s with dev := { d with
      wreq := nonZero (bits v 3 0) d.wreq, wbulk := nonZero (bits v 7 4) d.wbulk, wupd := nonZero (bits v 11 8) d.wupd } }
  | 0x113000 => { s with dev := { d with
      wen := bitAt v 0, wvf := if bits v 7 1 < 96 then bits v 7 1 else d.wvf, wclass := bits v 12 8 } }
  | 0x113008 => { s with dev := { d with wgpa := bits v 47 16 * 65536 } }
  | 0x113010 => { s with dev := { d with wsize := bits v 35 16 } }
  | 0x114000 | 0x114008 | 0x114010 | 0x114018 =>
    { s with dev := { d with nonce := putBytes d.nonce (off - 0x114000) (bytesLE v.toNat 8) } }
  | 0x114020 =>
    let s : State := { s with dev := { d with rvf := bits v 14 8 } }
    match bits v 1 0 with
    | 0 => s
    | 1 => s.attest none
    | 2 => s.attestVf (bits v 14 8)
    | _ => s.attestRefused
  | 0x115000 => { s with dev := { d with evbase := bits v 47 6 * 64 } }
  | 0x115008 => { s with dev := { d with evlog := bits v 3 0 } }
  | 0x115018 => { s with dev := { d with evhead := bits v 31 0 } }
  | 0x116000 => if v = 0 then s else { s with dev := { d with cecnt := 0 } }
  | 0x116008 => if v = 0 then s else { s with dev := { d with uecnt := 0 } }
  | _ => s

/-- A service class written (R312). -/
def State.writeClass (s : State) (k : Nat) (v : W64) : State :=
  { s with classes := Table.put .reset s.classes k ⟨v.extractLsb' 0 16, bits v 23 16⟩ }

/-- An 8-byte write in the physical function's BAR0, which belongs to PL2. -/
def State.writePf (s : State) (off : Nat) (v : W64) : State :=
  if 0x100000 ≤ off ∧ off < 0x101000 then s.writePart ((off - 0x100000) / 0x100) (off % 0x100) v
  else if 0x111000 ≤ off ∧ off < 0x111100 then s.writeClass ((off - 0x111000) / 8) v
  else if 0x120000 ≤ off ∧ off < 0x126000 then s.writeCfg ((off - 0x120000) / 0x100) (off % 0x100) v
  else s.writeDev off v

/-- The place in the model where PL2 writes a function's SCOPECTL (R190; log entry 19). -/
def scopectlAt : Nat := 0x8000 + 8 * 0x20

/-- The queues that the other functions declare; the package holds 65,536 (R328; log entry 66). -/
def State.declared (s : State) (vf : Nat) : Nat := (s.ctxs.filter fun c => c.1 != vf).foldl (fun n c => n + c.2.vqcount) 0

/-- An 8-byte write in a function's BAR0, which belongs to the guest kernel (R324). -/
def State.writeVf (s : State) (vf off : Nat) (v : W64) (pl : Nat) : State :=
  let c := s.ctx vf
  if off = scopectlAt then s.setCtx vf (c.writeScope pl v)
  else
    match off with
    | 0x00 => s.ring vf (bits v 15 0) true
    | 0x08 => s.setCtx vf { c with vqtab := v &&& 0x01FFFFFFFFFFFFFF }
    | 0x10 => if c.vqmax < bits v 15 0 ∨ 65536 < s.declared vf + bits v 15 0 then s else s.setCtx vf { c with vqcount := bits v 15 0 }
    | 0x18 => s.setCtx vf { c with s1root := bits v 47 12 * 4096 }
    | 0x20 => if bitAt v 0 then s.dropTlb vf fun _ => true else s
    | _ => s

/-- A register of a BAR written at a level (R11). -/
def State.writeRegister (s : State) (bar : Option Nat) (off : Nat) (v : W64) (pl : Nat) : State :=
  match bar with
  | none => if pl < 2 then s else s.writePf off v
  | some vf => if pl < 1 ∨ 96 ≤ vf then s else s.writeVf vf off v pl

/-- REGISTER_WRITE (R11): fields that are not writable at the level keep their values, and a WO field that starts something
starts it. The access comes as a packet of the management channel (R316). -/
def execRegisterWrite (bar : Option Nat) (off : Nat) (v : W64) (pl : Nat) (s : State) : Host.Outcome State Fault Refusal :=
  .next ((s.waitAt [registerPacket]).writeRegister bar off v pl)

/-! ### Errors (R367, R368) -/

/-- An uncorrectable error reported: an event of type 5, counted, its row kept. -/
def State.reportError (s : State) (vf row : Nat) (addr : Option Nat) : State :=
  let d := s.dev
  let s : State := { s with dev := { d with uecnt := d.uecnt + 1, uewhere := row } }
  s.postEvent ⟨5, vf, 0, BitVec.ofNat 64 (addr.getD 0), BitVec.ofNat 64 row, []⟩

/-- The same for an error in HBM, whose address UEADDR keeps (R368). -/
def State.reportHbm (s : State) (vf row addr : Nat) : State :=
  let s := s.reportError vf row (some addr)
  { s with dev := { s.dev with ueaddr := addr } }

/-- Every word of a 128-byte line POISON with origin 2. -/
def Mem.poisonLine (m : Mem) (line : Nat) : Mem :=
  (List.range 16).foldl (fun m i => (m.write (line * 128 + 8 * i) (bytesLE 2 8)).setTag (line * 128 + 8 * i) .poison) m

/-- Whether a device line lies on a tagged page: one whose tags are taken, or one that a function maps so (R29, R308). -/
def State.taggedLine (s : State) (line : Nat) : Bool :=
  let k := line * 128
  decide (k % spaceSize / 65536 ∈ (s.part (k / spaceSize)).tagPages) || s.mapsTagged (k / spaceSize) (k % spaceSize)

/-- A line that has met an error: its words POISON where it holds tags, else marked. -/
def State.spoilt (s : State) (m : Mem) (line : Nat) : Mem :=
  if s.taggedLine line then m.poisonLine line else m.setMark (line * 128) true

/-- The context of a task, 0 when there is none. -/
def State.ctxOf (s : State) (task : Nat) : Nat := ((s.task? task).map fun t => t.ctx).getD 0

/-- The context of a warp. -/
def State.ctxOfWarp (s : State) (warp : Nat) : Nat := ((s.warp? warp).map fun w => s.ctxOf w.task).getD 0

/-- An error in a register (row 1). -/
def State.spoilReg (s : State) : ErrLoc → State
  | .vreg w l r =>
    match s.warp? w with
    | some x => if l < x.width ∧ r < x.nregs then (s.setWarp (x.putV l r (poisonWord 1))).reportError (s.ctxOfWarp w) 1 none else s
    | none => s
  | .sreg w r =>
    match s.warp? w with
    | some x => if r < 64 then (s.setWarp (x.setS (BitVec.ofNat 8 r) (poisonWord 1))).reportError (s.ctxOfWarp w) 1 none else s
    | none => s
  | .breg t r =>
    match s.task? t with
    | some x =>
      if r < x.bregs then (s.setTask { x with breg := Table.put .nil x.breg r (poisonWord 1) }).reportError x.ctx 1 none else s
    | none => s
  | _ => s

/-- An error in a line of a core's L1: a clean one is dropped (row 2), a dirty one is POISON (row 3). -/
def State.spoilL1 (s : State) (core line : Nat) : State :=
  match s.l1.find? fun l => l.core == core && l.line == line with
  | none => s
  | some l =>
    if !l.isDirty then
      ({ s with l1 := s.l1.filter fun x => !(x.core == core && x.line == line) } : State).reportError l.ctx 2 none
    else
      let tagged := s.taggedLine line
      ({ s with l1 := s.l1.map fun x =>
          if x.core == core && x.line == line then
            { x with data := s.spoilt x.data line, dirty := if tagged then BitVec.allOnes 128 else x.dirty, remark := if tagged then x.remark else some true }
          else x } : State).reportError l.ctx 3 (some (line * 128 % spaceSize))

/-- UNCORRECTABLE_ERROR (R367): contained as the row of its place gives. An error met in a translation or an instruction line lies
in the cache, which discards it and fetches anew, or in the entry or line itself, freely. One in firmware or crossbar state resets the
device, is noted in the CXL error log, and its event waits until there is a ring. -/
def execUncorrectableError (loc : ErrLoc) (s : State) : Host.Outcome State Fault Refusal :=
  .next <|
    match loc with
    | .vreg _ _ _ | .sreg _ _ | .breg _ _ => s.spoilReg loc
    | .memory k =>
      if isDeviceKey k then
        ({ s with mem := s.spoilt s.mem (k / 128) } : State).reportHbm 0 (if s.taggedLine (k / 128) then 3 else 4) (k % spaceSize)
      else s
    | .cacheLine core line => s.spoilL1 core line
    | .l2Line line =>
      let id := Table.get 0 s.l2 line
      if id = 0 then s else ({ s with l2 := Table.put 0 s.l2 line 0 } : State).reportError (id - 1) 2 none
    | .scratch t o =>
      match s.task? t with
      | some x => if 8 * o < x.scratchSize then (s.setTask (x.spoison (8 * o))).reportError x.ctx 5 none else s
      | none => s
    | .acc t i =>
      match s.task? t with
      | some x =>
        if (x.slots.any fun y => y.index == i) then
          (s.setTask { x with slots := x.slots.map fun y => if y.index = i then { y with poison := true } else y }).reportError x.ctx 5 none
        else s
      | none => s
    | .translation i st2 =>
      match s.tlb[i]? with
      | some e =>
        let f := s.choose 2
        if f.1 = 0 then ({ f.2 with tlb := s.tlb.eraseIdx i } : State).reportError e.ctx 2 none
        else ({ f.2 with tlb := s.tlb.set i { e with bad := if st2 then 2 else 1 } } : State).reportError e.ctx 6 none
      | none => s
    | .instrLine core line =>
      match s.icache.find? fun l => l.core == core && l.line == line with
      | some x =>
        let f := s.choose 2
        if f.1 = 0 then ({ f.2 with icache := s.icache.filter fun l => !(l.core == core && l.line == line) } : State).reportError x.ctx 2 none
        else
          ({ f.2 with icache := s.icache.map fun l => if l.core = core ∧ l.line = line then { l with poisoned := true } else l } : State).reportError
            x.ctx 7 none
      | none => s
    | .state v => (s.killCtx v 18).reportError v 8 none
    | .firmware =>
      let s := s.resetDevice
      ({ s with dev := { s.dev with cxl := s.dev.cxl ++ [9] } } : State).reportError 0 9 none

/-- CORRECTED_ERROR (R367, R368): counted, and no effect on any program. -/
def execCorrectedError (s : State) : Host.Outcome State Fault Refusal :=
  .next { s with dev := { s.dev with cecnt := s.dev.cecnt + 1 } }

/-- PATROL_SCRUB (R367): what the scrubber corrects has no effect on any program. -/
def execPatrolScrub (s : State) : Host.Outcome State Fault Refusal := .next s

/-! ### Power (R30, R31) -/

/-- BLOCK_WAKE (R30): the count of the block's clock begins anew (R352). -/
def execBlockWake (b : Nat) (s : State) : Host.Outcome State Fault Refusal :=
  .next <|
    if s.dev.gated.contains b then
      { s with dev := { s.dev with gated := s.dev.gated.filter fun x => x != b, woke := Table.put 0 s.dev.woke b s.cycles } }
    else s

/-- BLOCK_GATING (R30): blocks 0 to 511 are the cores, which power down their arrays only while no task is resident; a block
that gates has written its dirty lines back. -/
def execBlockGating (b : Nat) (s : State) : Host.Outcome State Fault Refusal :=
  .next <|
    if (s.tasks.any fun t => t.core == b) || s.dev.gated.contains b then s
    else
      let s := s.l1WriteBack fun l => l.core == b
      { s with dev := { s.dev with gated := s.dev.gated ++ [b] } }

/-- FREQUENCY_CHANGE (R31): the block runs on at another frequency. -/
def execFrequencyChange (b f : Nat) (s : State) : Host.Outcome State Fault Refusal :=
  .next { s with dev := { s.dev with freq := Table.put 0 s.dev.freq b f } }

/-! ### Units that do not execute (R34, R60, R64) -/

/-- ENCODING_NOT_INSTRUCTION (R60): ILLEGAL with KIND 0 for the whole unit (R344, R347). -/
def execEncodingNotInstruction (s : State) : Host.Outcome State Fault Refusal :=
  s.onUnit fun u => s.raise u (mkTrap codeIllegal 0 u.pa.mask 0)

/-- UNIT_FETCH_FAULT (R34): MEM_FAULT with FETCH and the address of the word. -/
def execUnitFetchFault (addr : W64) (kind : Nat) (s : State) : Host.Outcome State Fault Refusal :=
  s.onUnit fun u => s.raise u ⟨codeMemFault, kind, false, false, true, 0, u.pa.mask, addr⟩

end Sys2Proof.Machine
end

