-- ==== Sys2Proof/Machine/Ready.lean ====
section
/-!
DEFINITION. When a unit can issue: the fetch and decoding of its words (spec 02, R34, R60, R64; spec 11, R353), the registers
it waits for (spec 08, R261), the choice of a split (R262), the events that the device brings about itself, and the
passing of time (spec 11, R352, R357, R364; spec 10, R320).
-/
namespace Sys2Proof.Machine

/-! ### Fetch (R34, R353) -/

/-- The word at an address of a line's bytes. -/
def wordIn (bs : List Byte) (o : Nat) : W32 :=
  wordOfBytes (bs.getD o 0) (bs.getD (o + 1) 0) (bs.getD (o + 2) 0) (bs.getD (o + 3) 0)

/-- The earlier values of an aligned word that a fetch may still return: those replaced since the last ICINV of its context
that covers the line (R353). -/
def State.oldWords (s : State) (ctx line key : Nat) : List W64 :=
  let covers := fun (x : Nat × Option Nat × Nat) => x.1 == ctx && (x.2.1.isNone || x.2.1 == some line)
  let last := ((s.icinvs.filter covers).map fun x => x.2.2).foldl Nat.max 0
  (s.past.filter fun x => x.key == key && decide (last < x.at_)).map fun x => x.word

/-- The eight bytes of a word as a fetch finds it: as it stands, or as it stood before, freely (R353). -/
def State.fetchedWord (s : State) (ctx line key : Nat) (now : List Byte) : State × List Byte :=
  match s.oldWords ctx line key with
  | [] => (s, now)
  | ws =>
    let c := s.choose (ws.length + 1)
    (c.2, match ws[c.1]? with | some x => bytesLE x.toNat 8 | none => now)

/-- An instruction line read: each word as its home and the dirty bytes of the core's own L1 give it, or as it stood before
(R353); it is poisoned when one of its words is (R367). -/
def State.readILine (s : State) (core ctx line key : Nat) : State × ILine :=
  let k := key / 128 * 128
  let m := match s.l1Find core ctx (key / 128) with
    | some l => l.flush s.mem
    | none => s.mem
  let bs := (List.range 128).map fun i => m.byte (k + i)
  let r := if s.past = [] then (s, bs)
    else (List.range 16).foldl (fun (r : State × List Byte) i =>
      let f := r.1.fetchedWord ctx line (k + 8 * i) ((bs.drop (8 * i)).take 8)
      (f.1, r.2 ++ f.2)) (s, [])
  (r.1, ⟨core, ctx, line, r.2, m.marked k || (List.range 16).any fun i => m.tag (k + 8 * i) == .poison⟩)

/-- The instruction line that a core fetches a word through: the one it holds, which it may have dropped and read again
where what it would read differs (R353). -/
def State.fetchLine (s : State) (core ctx line key : Nat) : State × ILine :=
  let mine := fun (l : ILine) => l.core == core && l.ctx == ctx && l.line == line
  let f := s.readILine core ctx line key
  match s.icache.find? mine with
  | none => ({ f.1 with icache := f.1.icache ++ [f.2] }, f.2)
  | some l =>
    let o := key % 128
    if l.poisoned || wordIn l.bytes o == wordIn f.2.bytes o then (s, l)
    else
      let c := f.1.choose 2
      if c.1 = 1 then ({ c.2 with icache := (c.2.icache.filter fun x => !mine x) ++ [f.2] }, f.2) else (c.2, l)

/-- One word of a unit fetched at a level: translated code from the image cache, all other from memory (R78). -/
def State.fetchWord (s : State) (t : Task) (pl : Nat) (va : W64) : Except XFault (State × W32) :=
  match s.imageAt t.ctx va.toNat with
  | some (e, a) => let r := s.fetchImage t.core t.ctx (va.toNat / 128) e a; .ok (r.1, wordIn r.2.bytes (va.toNat % 128))
  | none =>
  match s.translate t.ctx pl .fetch va with
  | .error e => .error e
  | .ok (tr, key) =>
    let r := (s.touch t.ctx va tr).fetchLine t.core t.ctx (va.toNat / 128) key
    if r.2.poisoned then .error (.stage1 7) else .ok (r.1, wordIn r.2.bytes (key % 128))

/-- What fetching and decoding a unit comes to: a unit with the address behind it, a fetch that faults at a word, or a
word that is rejected. -/
inductive Fetched where
  | unit (d : Decoded) (next : W64)
  | fault (e : XFault) (addr : W64)
  | reject (e : DecErr)
  deriving DecidableEq, Repr

/-- The words of a unit from an address on, each fetched once those before it have passed (R64); a unit has at most four. -/
def State.fetchUnit (s : State) (t : Task) (pl : Nat) (st : UnitDec) (va : W64) : Nat → State × Fetched
  | 0 => (s, .reject .truncated)
  | n + 1 =>
    match s.fetchWord t pl va with
    | .error e => (s, .fault e va)
    | .ok (s, w) =>
      match st.feed (s.ctx t.ctx).fmaskOn w with
      | .done d => (s, .unit d (va + 4))
      | .reject e => (s, .reject e)
      | .more st => s.fetchUnit t pl st (va + 4) n

/-- The unit in execution of a decoded unit. -/
def curOf (d : Decoded) (warp split : Nat) (start next : W64) : Cur :=
  ⟨warp, split, start, next, d.arith.map fun p => (p.rm, p.sat, p.ftz, p.notrap),
    d.place.map fun p => (p.scope.toNat, p.pol.toNat), false⟩

/-! ### Operands (R261) -/

/-- The lane registers that an instruction reads or writes. -/
def Instr.laneRegs : Instr → List Reg
  | .nop | .join | .yield | .exit | .bar _ | .serb | .sere | .ret _ | .txend | .syncw | .vote _ _ _ _ | .smov _ _ _
  | .salu _ _ _ _ _ | .scmp _ _ _ _ _ _ | .bwr _ _ _ | .lanesel _ _ _ | .nset _ _ _ | .fence _ _ _ _ | .waitc _ _ _ _ _
  | .waitp _ _ _ | .txabort _ _ | .acpy _ _ _ _ _ _ | .amcast _ _ _ _ _ | .agath _ _ _ _ _ _ | .ascat _ _ _ _ _ _
  | .hcpy _ _ _ _ _ _ | .acoll _ _ _ _ _ _ _ _ | .tlbind _ _ _ | .tlwait _ _ _ | .tlread _ _ _ | .tlsig _ _ _
  | .acancel _ _ _ | .sxpd _ _ _ _ _ _ | .spack _ _ _ _ _ _ | .tdesc _ _ _ _ _ _ | .talloc _ _ | .tfree _ _ | .gangset _ _
  | .drain _ _ _ _ _ | .drainT _ _ _ _ _ _ | .drainAdd _ _ _ _ _ | .accld _ _ _ | .bra _ _ | .call _ _ _ | .interval _ _ _
  | .splitw _ _ _ | .fusew _ _ _ | .width _ _ | .legacyEnter _ | .legacyLeave _ | .barc _ _ _ | .launchp _ _ _ _ _
  | .shape _ _ _ | .specq _ _ | .trap _ _ | .bru _ _ | .sysrd _ _ _ | .syswr _ _ _ | .time _ _ | .clock _ _ | .icinv _ _
  | .icinvAll _ | .vqpush _ _ _ | .rett _ | .hcall _ _ | .perf _ _ _ | .fenceg _ | .fences _ | .waitall _ | .fusewTimeout _
  | .splitTurnExpiry _ | .warpDue _ | .taskPlace _ | .taskEnd _ | .loadComplete _ _ | .storePerformed _ | .atomicComplete _
  | .engineCommandStart _ _ | .engineCommandComplete _ _ _ | .engineCommandFail _ _ _ _ | .tileOpAccept _
  | .tileOpComplete _ | .trowelUpdate _ | .launchResolutionComplete _ | .launchComplete _ | .doorbell _ _ | .s1inv _
  | .queueEntryAccept _ _ | .queueMap _ _ | .packetSend _ | .packetAdmit _ | .rateRecovery | .hbmRequestServe _
  | .allotWrite _ _ | .castlingGo _ | .castlingSweepComplete _ | .castlingCgraceExpiry _ | .castlingScrub _
  | .castlingCommit _ | .vfEnable _ | .saveAreaProbe _ | .cmdStopSave _ | .cmdRestore _ | .cmdKill _ | .cmdContinue _
  | .sliceExpiry _ | .graceExpiry _ | .killExpiry _ | .saveComplete _ | .restoreComplete _ | .s2Invalidate _
  | .s2InvalidateComplete _ | .hvActionRetry _ _ | .hvActionConvert _ _ | .hvActionHcall _ _ | .eventRingPost
  | .hostWindowAccess .. | .fabricMemoryAccess .. | .fabricLaunchPacket _ _ _ _ | .vfFlr _ | .deviceReset
  | .firmwareImageLoad _ | .attestDeviceReport | .attestVfReport _ | .uncorrectableError _ | .correctedError | .patrolScrub
  | .blockWake _ | .frequencyChange _ _ | .swienekTranslate _ _ | .registerWrite _ _ _ _ | .encodingNotInstruction
  | .unitFetchFault _ _ | .cleanLineRefetch _ _ | .blockGating _ | .workingSetStaged _ | .fabricCollectiveTraffic _ => []
  | .mov d a | .neg d a | .addi d a _ | .tagof d a | .shflx d a _ | .not d a | .abs d a | .movt d a | .ballot32 d a
  | .retag _ d a _ | .cvt _ d a _ | .hashv _ d a | .iaddi _ d a _ | .andi _ d a _ | .ori _ d a _ | .xori _ d a _
  | .shi _ _ d a _ | .popc _ d a | .clz _ d a | .bfx _ _ d a _ _ | .bfi _ d a _ _ | .brev _ d a | .isat _ _ _ d a
  | .fsqrt _ _ d a | .frcp _ _ d a | .frsq _ _ d a | .fclass _ _ d a | .fexp2 _ _ d a | .flog2 _ _ d a | .fsin _ _ d a
  | .fcos _ _ d a | .fcvt _ _ _ d a | .i2f _ _ _ d a | .f2i _ _ _ d a | .frnd _ _ _ d a | .pcvt _ _ _ d a | .rdx _ _ d a
  | .scan _ _ _ d a | .segrdx _ _ d a _ | .matchv _ d a | .bcast _ d a _ | .ldf _ d a _ | .stf _ d a _ | .hdrld _ d a
  | .cvtq8 _ d a | .sqrt64 _ d a | .bcastw _ d a => [d, a]
  | .add d a b | .sub d a b | .mul d a b | .min d a b | .max d a b | .iadd d a b | .isub d a b | .and d a b | .or d a b
  | .xor d a b | .shl d a b | .shr d a b | .sar d a b | .iadd32 d a b | .isub32 d a b | .imul32 d a b | .shfl32 d a b
  | .tageq d a b | .sel _ d a b _ | .div _ d a b | .rem _ d a b | .imul _ d a b | .imulh _ _ d a b | .idiv _ _ d a b
  | .irem _ _ d a b | .imin _ _ d a b | .imax _ _ d a b | .rot _ _ d a b | .lea _ d a b _ | .iaddc _ d a b _
  | .fadd _ _ d a b | .fsub _ _ d a b | .fmul _ _ d a b | .fdiv _ _ d a b | .fmin _ _ d a b | .fmax _ _ d a b
  | .padd _ _ d a b | .pmul _ _ d a b | .pmax _ _ d a b | .nalloc _ d a b | .cas _ _ d a b _ | .ldx _ _ d a b _
  | .allocw _ d a b => [d, a, b]
  | .movi d _ | .laneid d | .movk _ _ d _ | .movh _ _ d _ | .smovToLanes _ d _ | .txbegin _ d _ | .txstat _ d => [d]
  | .retl a | .chktag _ a _ _ | .testtag _ _ a _ _ | .smovFromLane _ _ a _ | .brx _ a | .callx _ _ a | .gcmark _ a => [a]
  | .fma _ d a b c | .imad _ d a b c | .ffma _ _ d a b c | .pfma _ _ d a b c | .pdot _ _ d a b c | .fmad _ d a b c => [d, a, b, c]
  | .cmp _ _ _ a b | .eqv _ _ a b | .icmp _ _ _ _ a b | .fcmp _ _ _ _ a b | .atom _ _ _ a b _ => [a, b]
  | .qpack _ k d a => regRun d k.regs ++ [a]
  | .qunpk _ k d a => d :: regRun a k.regs
  | .shfl _ _ imm d a b => if imm then [d, a] else [d, a, b]
  | .brd _ toV d _ => if toV then [d] else []
  | .ld _ _ d base _ | .st _ _ d base _ | .ldinv _ _ d base _ | .lds _ _ d base _ | .sts _ _ d base _ | .ldref _ d base _
  | .ldbar _ d base _ | .ldg32 _ d base _ | .stg32 _ d base _ => d :: baseV base
  | .pref _ _ base _ | .cctl _ _ base _ => baseV base
  | .mmaz _ ad bd _ a b | .mma _ ad bd _ a b | .mmag _ ad bd _ a b => operandV ad a ++ operandV bd b
  | .accrd _ d _ _ => groupRegs d
  | .spawn _ _ d _ b | .spawn1 _ d _ b => [d, b]
  | .mma16 _ d a b => regRun d 8 ++ regRun a 2 ++ regRun b 2
  | .mma32 _ d a b => regRun d 32 ++ regRun a 8 ++ regRun b 8
  | .xpand _ d a => regRun d 4 ++ regRun a 2

/-- Whether an instruction reads its lane registers in every lane of the warp. -/
def readsAllLanes : Instr → Bool
  | .smovFromLane .. | .mmaz .. | .mma .. | .mmag .. => true
  | _ => false

/-- The registers to which the lanes of a RETL return results (R114). -/
def Warp.returnRegs (w : Warp) (m : LaneMask) : Instr → List Reg
  | .retl _ => (lanesOf m).filterMap fun l => (Table.get [] w.recs l).head?.bind fun r => if r.dfile = 1 then some r.dreg else none
  | _ => []

/-- Whether a unit of some lanes waits for a load or an atomic in flight that still has to write one of its registers. -/
def State.awaits (s : State) (w : Warp) (m : LaneMask) (i : Instr) : Bool :=
  let lanes := if readsAllLanes i then lowMask w.width else m
  let hit := fun (warp lane reg : Nat) =>
    warp == w.id && lanes.getLsbD lane && ((Instr.laneRegs i ++ w.returnRegs m i).any fun r => regIndex w.nregs r == some reg)
  (s.loads.any fun p => p.dests.any fun d => hit d.warp d.lane d.reg) ||
  (s.atoms.any fun p => p.items.any fun d => hit d.warp d.lane d.reg)

/-! ### The choice of a split (R262) -/

/-- The sum of a split's counters for paths 0 to 3. -/
def Split.load (sp : Split) : Nat := sp.count 0 + sp.count 1 + sp.count 2 + sp.count 3

/-- The split chosen among those able to issue, in rising order of number. -/
def chooseSplit : List Split → Option Split
  | [] => none
  | c :: cs =>
    match (c :: cs).find? fun sp => decide (64 ≤ sp.skipped) with
    | some sp => some sp
    | none => some (cs.foldl (fun m sp => if sp.load < m.load then sp else m) c)

/-- The running split, the units of its turn and the passed count of a warp or of one of its halves (R274). -/
def Warp.half? (w : Warp) (upper : Bool) : Turn := if upper then w.up else ⟨w.run, w.turn, w.passed⟩

/-- The same written. -/
def Warp.setHalf (w : Warp) (upper : Bool) (x : Turn) : Warp :=
  if upper then { w with up := x } else { w with run := x.run, turn := x.turn, passed := x.passed }

/-- A split chosen: its turn begins, and the others that could issue have been skipped once more. -/
def Warp.chosen (w : Warp) (upper : Bool) (able : List Nat) (n : Nat) : Warp :=
  let w := w.setHalf upper { w.half? upper with run := n, turn := 0 }
  { w with
    splits := w.splits.map fun sp =>
      if sp.num = n then { sp with skipped := 0 } else if able.contains sp.num then { sp with skipped := sp.skipped + 1 } else sp }

/-- A split with its rotation as it runs: sub-paths that wait yield to one that can run (R266). -/
def Split.settled (sp : Split) : Split := { sp with paths := settlePaths sp.paths }

/-- After 64 units of a turn a fresh choice among the splits of a half that can issue (R262, R274). -/
def Warp.expireTurn (w : Warp) (upper : Bool) : Warp :=
  if (w.half? upper).turn < 64 then w
  else
    let able := (w.half upper).filter fun sp => w.able.contains sp.num
    match chooseSplit able with
    | some sp => w.chosen upper (able.map fun x => x.num) sp.num
    | none => w

/-- What the end of a step finds of the splits of a warp, those that can issue (R262): the turn of a running split that cannot is over. -/
def Warp.markAble (w : Warp) (able : List Nat) : Warp :=
  let endIf := fun (w : Warp) (upper : Bool) =>
    let h := w.half? upper
    if h.turn < 64 ∧ able.contains h.run = false then w.setHalf upper { h with turn := 64 } else w
  let w := endIf { w with able := able } false
  if w.legacy then endIf w true else w

/-- SPLIT_TURN_EXPIRY (R262): after 64 units a fresh choice among the splits that can issue. -/
def execSplitTurnExpiry (wid : Nat) (s : State) : Host.Outcome State Fault Refusal :=
  .next <|
    match s.warp? wid with
    | none => s
    | some w =>
      let w' := if w.legacy then (w.expireTurn false).expireTurn true else w.expireTurn false
      if w' = w then s else s.setWarp w'

/-! ### What a warp needs to issue (R261, R269, R305, R323, R337) -/

/-- Whether a warp may issue but for the ladder: not stopped or staging, its context on its cores, its partition enabled, its core
awake and not kept by a frozen context (R363). -/
def State.mayRun (s : State) (w : Warp) : Bool :=
  match s.task? w.task with
  | none => false
  | some t =>
    let c := s.ctx t.ctx
    w.stopped.isNone && w.staged && c.en && (c.saveState == 1 || c.saveState == 2) && (s.part c.part).enabled &&
    !s.dev.gated.contains t.core && !s.frozenCore t.core

/-- Whether a warp may issue: it runs, and nothing has halted it (R337). -/
def State.mayIssue (s : State) (w : Warp) : Bool :=
  s.mayRun w && !w.held && !(match s.task? w.task with | some t => (s.ctx t.ctx).halted | none => true)

/-- Whether a split of a warp may issue: a halt waits for the unit that an answer has released before it (R348). -/
def State.maySplit (s : State) (w : Warp) (sp : Split) : Bool := s.mayIssue w || (s.mayRun w && w.owed.contains sp.num)

/-- The lanes of a sub-path whose transactions are doomed, with their code words. -/
def Warp.doomedLanes (w : Warp) (m : LaneMask) : List (Nat × W64) :=
  (lanesOf m).filterMap fun l => (w.tx? l).bind fun x => x.doom.map fun c => (l, c)

/-- The units issued are counted, and the turn goes on (R262, R357). -/
def Warp.issued (w : Warp) (upper : Bool) (n : Nat) : Warp :=
  ({ w with owed := w.owed.filter fun x => x != n }.bump 0 1).setHalf upper { w.half? upper with run := n, turn := (w.half? upper).turn + 1 }

/-! ### What the device brings about itself -/

/-- Accesses that may complete: those whose packets are back, a load with the mark its response carried, stores and atomics that
nothing holds up (R181, R193, R316, R319), and lines that an L1 may take afresh (R183). -/
def State.dueAccesses (s : State) : List Instr :=
  ((s.loads.filter fun p => !s.travels (.access p.id)).map fun p => .loadComplete p.id (s.marks.contains p.id)) ++
  ((s.stores.filter fun p => !s.behind p.id && !s.travels (.access p.id)).map fun p => .storePerformed p.id) ++
  ((s.atoms.filter fun p => !s.behind p.id && !s.travels (.access p.id)).map fun p => .atomicComplete p.id) ++
  (s.l1.map fun l => .cleanLineRefetch l.core l.line)

/-- Whether a collective of a task waits for another participant. -/
def State.collWaits (s : State) (t : Task) (c : EngCmd) : Bool :=
  match c.op with
  | .acoll dom _ ty _ _ n gid seq => (match s.collState t dom ty n gid seq with | .wait => true | .fail _ | .ready _ _ _ => false)
  | .tlsig after => c.started && after.any s.pending
  | _ => false

/-- Commands that may start or complete (R18, R195, R240, R246, R249, R363). -/
def State.dueCommands (s : State) : List Instr :=
  s.tasks.flatMap fun t => t.eng.flatMap fun e =>
    (match (if s.startsOn t then t.nextCmd e.1 else none) with
      | some c => if s.collWaits t c then [] else [.engineCommandStart t.id e.1]
      | none => []) ++
    (e.2.cmds.filter fun c => c.started && !c.done && !s.collWaits t c && !s.travels (.command t.id e.1 c.num) &&
        (match c.op with | .resolution _ | .completion _ => false | _ => true)).map fun c => .engineCommandComplete t.id e.1 c.num

/-- Tile operations that may be accepted, applied or completed (R143, R150, R161). -/
def State.dueTiles (s : State) : List Instr :=
  s.tiles.flatMap fun x =>
    let adds := match x.act with | .drainAdd _ => true | _ => false
    (if s.canAccept x then [.tileOpAccept x.id] else []) ++
    (if s.applies x && adds && !x.updated && !s.drainBehind x && !s.travels (.access x.id) then [.trowelUpdate x.id] else []) ++
    (if s.applies x && (x.updated || !adds) && !s.drainBehind x && !s.travels (.access x.id) then [.tileOpComplete x.id] else [])

/-- Tasks and launches that may be placed or may end (R188, R251, R258, R278), and warps that wait for staging or have waited
too long (R269, R273). -/
def State.dueWork (s : State) : List Instr :=
  ((List.range 16).filter fun p => (s.part p).enabled && !(s.pendingLaunches p).isEmpty).map (fun p => .taskPlace p) ++
  (s.tasks.filter fun t => (!t.ended || t.spec == .committed || t.spec == .squashed) && s.taskDone t).map (fun t => .taskEnd t.id) ++
  (s.launches.filter fun l => l.shaped && l.t.isSome && !l.notified).map (fun l => .launchResolutionComplete l.id) ++
  (s.launches.filter s.launchOver).map (fun l => .launchComplete l.id) ++
  (s.warps.filter fun w => !w.staged).map (fun w => .workingSetStaged w.id) ++
  (s.warps.filter fun w => match w.fusing with | some (_, _, _, t) => decide (t + 1024 ≤ s.cycles) | none => false).map fun w =>
    .fusewTimeout w.id

/-- Queues to be mapped or read (R326, R328). -/
def State.dueQueues (s : State) : List Instr :=
  (s.ctxs.flatMap fun c =>
    (c.2.queues.filter fun q => q.2.rung && q.2.tier == 2 && c.2.active && !q.2.error).map fun q => .queueEntryAccept c.1 q.1) ++
  s.turnFunctions.flatMap fun v => (s.turnQueues v).map fun n => .queueMap v n

/-- Packets that a requester port may admit, outputs with packets and ports with requests (R315, R317, R320). -/
def State.dueNetwork (s : State) : List Instr :=
  (s.sources.filterMap fun n => (s.nextAdmit n.1).map Instr.packetAdmit) ++
  ((s.nets.filter fun n => !n.2.queue.isEmpty).map fun n => .packetSend n.1) ++
  ((s.hbm.filter fun h => !h.2.waiting.isEmpty).map fun h => .hbmRequestServe h.1)

/-- Steps of a Castling (R332). -/
def State.dueCastling (s : State) : List Instr :=
  s.parts.flatMap fun p =>
    match p.2.state with
    | 1 => [.castlingGo p.1]
    | 2 => [.castlingSweepComplete p.1]
    | 3 => (if p.2.since + p.2.cgrace * 1000 ≤ s.nowNs then [.castlingCgraceExpiry p.1] else []) ++
        (if (s.tasks.any fun t => (coresOf (p.2.cports &&& ~~~p.2.scports)).contains t.core) then [] else [.castlingScrub p.1])
    | 4 => [.castlingScrub p.1]
    | 5 => [.castlingCommit p.1]
    | _ => []

/-- Steps in the life of a context: the probe of its save area, the ladder's timers, the end of a save, restore or
invalidation (R337, R359 to R362). -/
def State.dueContexts (s : State) : List Instr :=
  s.ctxs.flatMap fun x =>
    let v := x.1
    let c := x.2
    let soft := match c.ladder with | some (_, k) => k == 0 | none => false
    (if c.en && !c.pinned && !c.probing then [.saveAreaProbe v] else []) ++
    (if c.saveState == 1 && c.slice != 0 && c.ladder.isNone && decide (c.since + c.slice * 1000 ≤ s.nowNs) then [.sliceExpiry v] else []) ++
    (match c.ladder with
      | some (t, k) => (if k = 0 ∧ t + c.grace * 1000 ≤ s.nowNs then [.graceExpiry v] else []) ++
          (if t + c.kill * 1000 ≤ s.nowNs then [.killExpiry v] else [])
      | none => []) ++
    (if c.saveState == 2 && (s.ctxTasks v).all fun t => s.saveable soft t then [.saveComplete v] else []) ++
    (if c.saveState == 5 then [.restoreComplete v] else []) ++
    (if c.s2busy && !s.holdsS2 v c then [.s2InvalidateComplete v] else [])

/-- Events to post, and gated cores on which a task waits (R30, R358). -/
def State.dueDevice (s : State) : List Instr :=
  let d := s.dev
  (if !d.evwait.isEmpty && decide (6 ≤ d.evlog) && decide ((d.evtail + 2 ^ 32 - d.evhead) % 2 ^ 32 < 2 ^ d.evlog) then [.eventRingPost]
    else []) ++
  ((d.gated.filter fun b => s.tasks.any fun t => t.core == b).map fun b => .blockWake b)

/-- The events that the device may bring about now. -/
def State.due (s : State) : List Instr :=
  s.dueAccesses ++ s.dueCommands ++ s.dueTiles ++ s.dueWork ++ s.dueQueues ++ s.dueNetwork ++ s.dueCastling ++ s.dueContexts ++ s.dueDevice

/-- Whether an instruction is an event that something outside the machine may bring about: one that is no instruction of a
program and does not act on a unit in execution. -/
def fromOutside (i : Instr) : Bool :=
  match i with
  | .encodingNotInstruction | .unitFetchFault _ _ => false
  | _ => (encode i).isEmpty

/-! ### Time -/

/-- Controllers recovered at each 4 µs that has passed (R320). -/
def State.recover (s : State) : Nat → State
  | 0 => s
  | n + 1 => (State.recover { s with rates := Table.mapVals .fresh (fun _ r => { r with rate := Nat.min 1024 (r.rate + 16) }) s.rates } n)

/-- Whether the cycles of a warp count as resident: its context is enabled and running on its cores, or stopping (R357, R359). -/
def State.counts (s : State) (w : Warp) : Bool :=
  match s.task? w.task with
  | none => false
  | some t => let c := s.ctx t.ctx; c.en && (c.saveState == 1 || c.saveState == 2) && (s.part c.part).enabled

/-- Time passes over one step: the reference counter, the arithmetic clock, the cycle counters of resident warps, the buckets
of the network. The reference counter moves at least once in 65,536 steps (R183; log entry 101). -/
def State.elapse (s : State) : State :=
  let ns := Config.nsPerStep s.tick + (if s.tick % 65536 = 0 then 1 else 0)
  let cy := Config.cyclesPerStep s.tick
  let s : State := { s with
    nowNs := s.nowNs + ns
    cycles := s.cycles + cy
    warps := s.warps.map fun w => if s.counts w then w.bump 1 cy else w
    tick := s.tick + 1 }
  let s := if s.rates = [] then s else s.recover (s.nowNs / 4000 - (s.nowNs - ns) / 4000)
  s.fillBuckets ns (Config.packetsPerStep s.tick)

end Sys2Proof.Machine
end

