-- ==== Sys2Proof/Machine/Retired.lean ====
section
/-!
DEFINITION. The retired instructions (spec 02, R61, R62; spec 11, R365). Firmware performs the unit of the defining level
in one step; the program sees only its result. It sees the operands of active lanes only (R365).
-/
namespace Sys2Proof.Machine

/-! ### Level 1 and 2, short -/

/-- The low half of a register. -/
def U.lo32 (u : U) (l : Nat) (r : Reg) : W32 := (u.pay l r).setWidth 32

/-- IADD32, ISUB32 and IMUL32 (R61). -/
def State.int32 (s : State) (op : Nat) (d a b : Reg) (f : W32 → W32 → W32) : Host.Outcome State Fault Refusal :=
  s.intShort op d [a, b] fun u l => intBits ((f (u.lo32 l a) (u.lo32 l b)).signExtend 64)

/-- IADD32 (R61). -/
def execIadd32 (d a b : Reg) (s : State) : Host.Outcome State Fault Refusal := s.int32 0x30 d a b (· + ·)
/-- ISUB32 (R61). -/
def execIsub32 (d a b : Reg) (s : State) : Host.Outcome State Fault Refusal := s.int32 0x31 d a b (· - ·)
/-- IMUL32 (R61). -/
def execImul32 (d a b : Reg) (s : State) : Host.Outcome State Fault Refusal := s.int32 0x32 d a b (· * ·)

/-- MOVT (R61). -/
def execMovt (d a : Reg) (s : State) : Host.Outcome State Fault Refusal :=
  s.intShort 0x33 d [a] fun u l => ⟨.bits, u.pay l a⟩

/-- SYNCW (R61): parks until every split of the warp is at one; it passes where a JOIN does (R287). -/
def execSyncw (s : State) : Host.Outcome State Fault Refusal :=
  s.onUnit fun u =>
    if u.pa.ser.isSome || u.active.any fun l => decide (0 < u.w.depth l) then u.skip s
    else
      let w := (u.w.setHead u.c.split { u.pa with pc := u.c.start, wait := .syncw }).handOver u.c.split
      (s.setWarp { w.endTurn u.sp.upper with interval := none }).recheck u.w.id

/-- BALLOT32 (R61): of the active lanes of the caller's 32-lane group. -/
def execBallot32 (d a : Reg) (s : State) : Host.Outcome State Fault Refusal :=
  s.onUnit fun u => s.lanes u (shortInfo 0x35 d) [d, a] [a] u.active fun l =>
    wordOut d ⟨.bits, BitVec.ofNat 64 ((u.active.filter fun m => m / 32 == l / 32 && u.w.getV m a == boolWord true).foldl
      (fun n m => n + 2 ^ (m % 32)) 0)⟩

/-- SHFL32 (R61). -/
def execShfl32 (d a b : Reg) (s : State) : Host.Outcome State Fault Refusal :=
  s.onUnit fun u => s.shuffle u (shortInfo 0x36 d) d a [b] u.active fun l => l / 32 * 32 + (u.pay l b).toNat % 32

/-- TAGEQ (R61). -/
def execTageq (d a b : Reg) (s : State) : Host.Outcome State Fault Refusal :=
  s.onUnit fun u => s.lanes u (shortInfo 0x37 d) [d, a, b] [a, b] u.active fun l =>
    wordOut d (boolWord (decide ((u.w.getV l a).tag = (u.w.getV l b).tag)))

/-! ### Arithmetic, long -/

/-- FMAD (R61): two roundings. -/
def execFmad (g : Guard) (d a b c : Reg) (s : State) : Host.Outcome State Fault Refusal :=
  s.floatOp 0xE0 g d [a, b, c] fun u l =>
    let p := roundFmt .f32 .rn false false ((fmtValue .f32 false (u.pay l a)).mul (fmtValue .f32 false (u.pay l b)))
    fmtWord .f32 (roundFmt .f32 .rn false false ((decodeF .f32 p).add .rn (fmtValue .f32 false (u.pay l c))))

/-- SQRT64 (R61): rounded with rz. -/
def execSqrt64 (g : Guard) (d a : Reg) (s : State) : Host.Outcome State Fault Refusal :=
  s.floatOp 0xEC g d [a] fun u l => fmtWord .f64 (roundFmt .f64 .rz false false (fmtValue .f64 false (u.pay l a)).sqrt)

/-- Free words, one for each acting lane and register of a run (R61: the spec gives the instruction and not the layout of
its operands). -/
def State.freeRun (s : State) (u : U) (op : Nat) (g : Guard) (d : Reg) (n : Nat) (srcs : List Reg) (w : W64 → Word) : State :=
  State.lanes { s with tick := s.tick + 1 } u (longInfo op d 1 0 0) (regRun d n ++ srcs) srcs (u.acting g) fun l =>
    .ok ((regRun d n).mapIdx fun i r => .v r (w (BitVec.ofNat 64 (Config.pickAt s.tick (l * 32 + i)))))

/-- A free order of the n × n elements of a register operand: the element that stands at each place of it. The spec states no
layout (R61; log entry 12). -/
def mmaLayout (op operand n : Nat) : List Nat := orderOf (Config.mmaPlaces op operand) (List.range (n * n))

/-- The values of an operand of a 32-lane group, by element: those of lanes that do not act are free (R365). -/
def U.mmaOperand (u : U) (s : State) (op operand : Nat) (fmt : FFmt) (n : Nat) (r : Reg) (regs : Nat) (acting : List Nat)
    (group : Nat) : Array FVal :=
  let at_ := fun (p : Nat) =>
    let l := 32 * group + p / (4 * regs)
    let q := p % (4 * regs)
    let x : W64 := if acting.contains l then u.pay l (r + BitVec.ofNat 8 (q / 4)) else BitVec.ofNat 64 (Config.pickAt s.tick (operand * 65536 + l * 16 + q / 4))
    fmtValue fmt false (element fmt.spec x (q % 4))
  ((mmaLayout op operand n).mapIdx fun p e => (e, at_ p)).foldl (fun (a : Array FVal) x => a.setIfInBounds x.1 x.2)
    (List.replicate (n * n) (FVal.zero false)).toArray

/-- A sum of products into F32, in a free order and with a free choice, at each step, of the roundings to F32 with rn: the spec
states none (R61; log entry 12). -/
def mmaSum (order rounds : Nat) (ps : List FVal) : Nat :=
  let f32 := fun (r : Bool) (x : FVal) => if r then decodeF .f32 (roundFmt .f32 .rn false false x) else x
  let r := (orderOf order ps).foldl (fun (acc : FVal × Nat) p =>
    (f32 (acc.2 % 4 / 2 == 1) (acc.1.add .rn (f32 (acc.2 % 2 == 1) p)), acc.2 / 4)) (.zero false, rounds)
  roundFmt .f32 .rn false false r.1

/-- MMA16 and MMA32 (R61): the product of two n × n matrices, held four elements to a register across the 32 lanes of a group,
into F32 registers, one element to each. -/
def State.mma (s : State) (u : U) (op : Nat) (g : Guard) (fmt : FFmt) (n : Nat) (d a b : Reg) : State :=
  let acting := u.acting g
  let da := n * n / 32
  let ra := da / 4
  let srcs := regRun a ra ++ regRun b ra
  let groups := (List.range 4).map fun q =>
    (u.mmaOperand s op 0 fmt n a ra acting q, u.mmaOperand s op 1 fmt n b ra acting q)
  State.lanes { s with tick := s.tick + 1 } u (longInfo op d 1 0 0) (regRun d da ++ srcs) srcs acting fun l =>
    let x := groups.getD (l / 32) (#[], #[])
    .ok ((regRun d da).mapIdx fun i r =>
      let e := (mmaLayout op 2 n).getD (l % 32 * da + i) 0
      let ps := (List.range n).map fun k => (x.1.getD (e / n * n + k) (.zero false)).mul (x.2.getD (k * n + e % n) (.zero false))
      .v r ⟨.f32, BitVec.ofNat 64 (mmaSum (Config.pickAt s.tick (2 * e)) (Config.pickAt s.tick (2 * e + 1)) ps)⟩)

/-- MMA16 (R61): 16 × 16 × 16, F16. DESIGN CHOICE (log entry 110): groups of 8 registers for D and 2 for A and B, with any first register. -/
def execMma16 (g : Guard) (d a b : Reg) (s : State) : Host.Outcome State Fault Refusal :=
  s.onUnit fun u => s.mma u 0xE1 g .f16 16 d a b

/-- MMA32 (R61): 32 × 32 × 32, BF16. DESIGN CHOICE (log entry 110): groups of 32 registers for D and 8 for A and B, with any first
register. -/
def execMma32 (g : Guard) (d a b : Reg) (s : State) : Host.Outcome State Fault Refusal :=
  s.onUnit fun u => s.mma u 0xE2 g .bf16 32 d a b

/-- CVTQ8 (R61): the retired format is not described; the block is free. -/
def execCvtq8 (g : Guard) (d a : Reg) (s : State) : Host.Outcome State Fault Refusal :=
  s.onUnit fun u => s.freeRun u 0xEB g d 1 [a] fun x => ⟨.bits, x⟩

/-- XPAND (R61): the sixteen values of a GX6 block, as F16, four to a register. DESIGN CHOICE (log entry 110): its groups begin at any
register. -/
def execXpand (g : Guard) (d a : Reg) (s : State) : Host.Outcome State Fault Refusal :=
  s.onUnit fun u =>
    let src := regRun a 2
    s.lanes u (longInfo 0xE3 d 1 0 0) (regRun d 4 ++ src) src (u.acting g) fun l =>
      let block := (u.pay l a).toNat + (u.pay l (pairHi a)).toNat * 2 ^ 64
      .ok ((regRun d 4).mapIdx fun i r => .v r (packWord .f16 4 fun j => roundFmt .f16 .rn false false (gxValue .gx6 block (4 * i + j))))

/-! ### Memory -/

/-- LDG32 (R61): as LD.z32. -/
def execLdg32 (g : Guard) (d : Reg) (base : MBase) (imm : BitVec 24) (s : State) : Host.Outcome State Fault Refusal :=
  s.onUnit fun u => s.memLanes u (longInfo 0xED d 1 0 0) g (d :: baseV base) (baseV base) (baseS base) [0] 0
    (fun s l => u.loadLane s .z4 l (u.w.baseAddr base imm l))
    (fun s hint oks => u.finishLanes s 0 hint d oks) (touches := LaneMem.touches)

/-- STG32 (R61): payload[31:0]. -/
def execStg32 (g : Guard) (d : Reg) (base : MBase) (imm : BitVec 24) (s : State) : Host.Outcome State Fault Refusal :=
  s.onUnit fun u => s.memLanes u (longInfo 0xEE d 0 0 0) g (d :: baseV base) (d :: baseV base) (baseS base) [3] 1
    (fun s l => u.storeLane s .i4 (u.w.getV l d) (u.w.baseAddr base imm l))
    (fun s hint oks => u.finishLanes s 3 hint d oks)
    (fun s oks => u.specRoom s (laneItems oks)) LaneMem.touches

/-- LDBAR (R61): a reference load and its read barrier (R221, R222). -/
def execLdbar (g : Guard) (d : Reg) (base : MBase) (imm : BitVec 24) (s : State) : Host.Outcome State Fault Refusal :=
  s.onUnit fun u => s.memLanes u (longInfo 0xE5 d 1 0 0) g (d :: baseV base) (baseV base) (baseS base) [0] 0
    (fun s l => u.ldrefLane s l (u.w.baseAddr base imm l))
    (fun s hint oks => u.finishLanes s 0 hint d oks) (touches := LaneMem.touches)

/-- One lane of GCMARK: bit 0 of GCSTATE (R88) of the header that REF A names. -/
def U.gcmarkLane (u : U) (s : State) (l : Nat) (x : Word) : LaneRes LaneMem :=
  if x.tag ≠ .ref then .error (refCheck x)
  else
    match u.readHeader s l x.pay, s.reach u .write x.pay 8 with
    | .error e, _ => .error e
    | _, .error e => .error e
    | .ok (h, t), .ok tw =>
      if isHeader h.tag then .ok ⟨none, [t, tw], [⟨tw.key, 8, h.pay ||| 0x10000000000, some h.tag, false⟩]⟩
      else .error (memFault 8 x.pay false)

/-- GCMARK (R61). -/
def execGcmark (g : Guard) (a : Reg) (s : State) : Host.Outcome State Fault Refusal :=
  s.onUnit fun u => s.memLanes u (longInfo 0xE6 0 0 0 0) g [a] [a] [] [3] 4
    (fun s l => u.gcmarkLane s l (u.w.getV l a))
    (fun s hint oks => u.finishLanes s 3 hint a oks)
    (fun s oks => u.specRoom s (laneItems oks)) LaneMem.touches

/-- ALLOCW (R61): one allocation with the operands of the lowest acting lane outside transactions; every acting lane
receives its REF. -/
def execAllocw (g : Guard) (d a b : Reg) (s : State) : Host.Outcome State Fault Refusal :=
  s.onUnit fun u =>
    let acting := u.acting g
    let l0 := (acting.find? fun l => (u.w.openTx l).isNone).getD (acting.headD 0)
    let plan := allocPlan u.w.nlim.toNat u.w.nbase.toNat
      (if (u.w.openTx l0).isNone && decide (acting ≠ []) then [(l0, u.w.getV l0 a, u.w.getV l0 b)] else [])
    s.memLanes u (longInfo 0xE4 d 1 0 0) g [d, a, b] [a, b] [] [3] 1
      (fun s l =>
        match u.allocLane s plan.1 l0 (u.w.getV l0 a) (u.w.getV l0 b) with
        | .error e => .error e
        | .ok m => .ok (if l = l0 then m else { m with touches := [], items := [] }))
      (fun s hint oks => u.finishAlloc s u.w plan.2 hint (fun _ => d) oks)
      (fun s oks => u.specRoom s (laneItems oks)) LaneMem.touches

/-! ### Fences, waits, spawns, broadcast -/

/-- FENCEG (R61). -/
def execFenceg (g : Guard) (s : State) : Host.Outcome State Fault Refusal := s.onUnit fun u => s.fenceBy u g 15 15 4
/-- FENCES (R61). -/
def execFences (g : Guard) (s : State) : Host.Outcome State Fault Refusal := s.onUnit fun u => s.fenceBy u g 15 15 6
/-- WAITALL (R61). -/
def execWaitall (g : Guard) (s : State) : Host.Outcome State Fault Refusal := s.onUnit fun u => s.waitcBy u g 0 0 0 0
/-- SPAWN1 (R61): one child for the executing split. -/
def execSpawn1 (g : Guard) (d a b : Reg) (s : State) : Host.Outcome State Fault Refusal :=
  s.onUnit fun u => s.named u [d, b] (s.spawnBy u g true d a b)

/-- BCASTW (R61): A of the split's lowest active lane, in every lane whose guard is true (R62). DESIGN CHOICE (log entry 116): the word
that it copies is the only one of A that it reads, so no other POISON word of A raises POISON_READ. -/
def execBcastw (g : Guard) (d a : Reg) (s : State) : Host.Outcome State Fault Refusal :=
  s.onUnit fun u =>
    let acting := u.acting g
    let x := u.w.getV (lowestLane u.pa.mask) a
    s.lanes u (longInfo 0xEF d 1 0 0) [d, a] [] acting fun _ =>
      if x.tag = .poison then .error (.fault (poisonFault 0 a)) else wordOut d x

end Sys2Proof.Machine
end

