-- ==== Sys2Proof/Machine/ScalarBlock.lean ====
section
/-!
DEFINITION. The scalar and block-register instructions (spec 02, R54; spec 04, R131, R132).
-/
namespace Sys2Proof.Machine

/-- SMOV sD, sA (R131). -/
def execSmov (g : Guard) (d a : Reg) (s : State) : Host.Outcome State Fault Refusal :=
  s.onUnit fun u => s.once u g [a] (u.done s (u.w.setS d (u.w.getS a)))

/-- SMOV sD, vA, lane (R131): NIL when that hardware lane does not participate; only its word is read. -/
def execSmovFromLane (g : Guard) (d a : Reg) (lane : Byte) (s : State) : Host.Outcome State Fault Refusal :=
  s.onUnit fun u => s.named u [a] <| s.once u g [] <|
    let l := lane.toNat % u.w.width
    let x := u.laneWord (u.acting g) a l
    if x.tag = .poison then s.raise u (mkTrap codePoisonRead 0 (laneBit l) (a.setWidth 64))
    else u.done s (u.w.setS d x)

/-- A word written to a lane register of every acting lane. -/
def U.spread (u : U) (g : Guard) (d : Reg) (x : Word) : Warp := (u.acting g).foldl (fun w l => w.setV l d x) u.w

/-- SMOV vD, sA (R131). -/
def execSmovToLanes (g : Guard) (d a : Reg) (s : State) : Host.Outcome State Fault Refusal :=
  s.onUnit fun u => s.named u [d] <| s.once u g [a] (u.done s (u.spread g d (u.w.getS a)))

/-- The result of SALU (R131). -/
def saluResult (op : SaluOp) (sat : Bool) (x y : W64) : W64 :=
  match op with
  | .add => wrapSat sat (x.toInt + y.toInt)
  | .sub => wrapSat sat (x.toInt - y.toInt)
  | .mul => wrapSat sat (x.toInt * y.toInt)
  | .and => x &&& y
  | .or => x ||| y
  | .xor => x ^^^ y
  | .shl => x <<< shiftAmount y
  | .shr => x >>> shiftAmount y

/-- SALU (R131). -/
def execSalu (g : Guard) (op : SaluOp) (d a b : Reg) (s : State) : Host.Outcome State Fault Refusal :=
  s.onUnit fun u => s.once u g [a, b]
    (u.done s (u.w.setS d (intBits (saluResult op u.sat (u.w.getS a).pay (u.w.getS b).pay))))

/-- SCMP (R131): the condition to p[D] of each participating lane. -/
def execScmp (g : Guard) (sg : Sgn) (cc : Cond) (d a b : Reg) (s : State) : Host.Outcome State Fault Refusal :=
  s.onUnit fun u => s.once u g [a, b]
    (u.done s ((u.acting g).foldl (fun w l => w.setP l d (intCond sg cc (u.w.getS a).pay (u.w.getS b).pay)) u.w))

/-! ### Block registers (R132) -/

/-- Whether some warp owns a block register. -/
def Task.owned (t : Task) (b : Reg) : Bool := t.owners.any fun x => x.1 == b.toNat
/-- Whether a warp is among the owners of a block register. -/
def Task.owns (t : Task) (b : Reg) (w : Nat) : Bool := t.owners.contains (b.toNat, w)

/-- The values a reader may read (R132): the owner reads the last value written; any other warp also one that held
at the last block barrier or was written since. -/
def Task.bregValues (t : Task) (w : Nat) (b : Reg) : List Word :=
  let now := Table.get .nil t.breg b.toNat
  if t.owned b && !t.owns b w then now :: Table.get [] t.bpast b.toNat else [now]

/-- BRD (R131, R132): once per split; which of the allowed values is read is a free choice. -/
def execBrd (g : Guard) (toV : Bool) (d a : Reg) (s : State) : Host.Outcome State Fault Refusal :=
  s.onUnit fun u => s.named u (if toV then [d] else []) <| s.once u g [] <|
    let xs := u.t.bregValues u.w.id a
    let c := s.choose xs.length
    let x := xs.getD c.1 .nil
    if x.tag = .poison then s.raise u (mkTrap codePoisonRead 0 u.pa.mask (a.setWidth 64))
    else u.done c.2 (if toV then u.spread g d x else u.w.setS d x)

/-- BWR (R131, R132): BREG_CONFLICT where another warp owns the register; else the writer owns it. -/
def execBwr (g : Guard) (d a : Reg) (s : State) : Host.Outcome State Fault Refusal :=
  s.onUnit fun u => s.once u g [a] <|
    if u.t.owned d && !u.t.owns d u.w.id then s.raise u (mkTrap codeBregConflict 0 u.pa.mask (d.setWidth 64))
    else
      let past := Table.get .nil u.t.breg d.toNat :: Table.get [] u.t.bpast d.toNat
      let t : Task := { u.t with
        breg := Table.put .nil u.t.breg d.toNat (u.w.getS a)
        bpast := Table.put [] u.t.bpast d.toNat past
        owners := if u.t.owned d then u.t.owners else u.t.owners ++ [(d.toNat, u.w.id)] }
      u.skip (s.setTask t)

end Sys2Proof.Machine
end

