-- ==== Sys2Proof/Machine/Dispatch.lean ====
section
/-!
DEFINITION. One arm for each constructor of Instr: a direct call of its meaning.
-/
namespace Sys2Proof.Machine

/-- What an instruction or event does. -/
def exec (i : Instr) (s : State) : Host.Outcome State Fault Refusal :=
  match i with
  | .nop => Sys2Proof.Machine.execNop s
  | .mov d a => Sys2Proof.Machine.execMov d a s
  | .add d a b => Sys2Proof.Machine.execAdd d a b s
  | .sub d a b => Sys2Proof.Machine.execSub d a b s
  | .mul d a b => Sys2Proof.Machine.execMul d a b s
  | .min d a b => Sys2Proof.Machine.execMin d a b s
  | .max d a b => Sys2Proof.Machine.execMax d a b s
  | .neg d a => Sys2Proof.Machine.execNeg d a s
  | .iadd d a b => Sys2Proof.Machine.execIadd d a b s
  | .isub d a b => Sys2Proof.Machine.execIsub d a b s
  | .and d a b => Sys2Proof.Machine.execAnd d a b s
  | .or d a b => Sys2Proof.Machine.execOr d a b s
  | .xor d a b => Sys2Proof.Machine.execXor d a b s
  | .shl d a b => Sys2Proof.Machine.execShl d a b s
  | .shr d a b => Sys2Proof.Machine.execShr d a b s
  | .sar d a b => Sys2Proof.Machine.execSar d a b s
  | .movi d imm => Sys2Proof.Machine.execMovi d imm s
  | .addi d a imm => Sys2Proof.Machine.execAddi d a imm s
  | .tagof d a => Sys2Proof.Machine.execTagof d a s
  | .laneid d => Sys2Proof.Machine.execLaneid d s
  | .join => Sys2Proof.Machine.execJoin s
  | .yield => Sys2Proof.Machine.execYield s
  | .exit => Sys2Proof.Machine.execExit s
  | .bar n => Sys2Proof.Machine.execBar n s
  | .serb => Sys2Proof.Machine.execSerb s
  | .sere => Sys2Proof.Machine.execSere s
  | .ret a => Sys2Proof.Machine.execRet a s
  | .retl a => Sys2Proof.Machine.execRetl a s
  | .txend => Sys2Proof.Machine.execTxend s
  | .shflx d a m => Sys2Proof.Machine.execShflx d a m s
  | .not d a => Sys2Proof.Machine.execNot d a s
  | .abs d a => Sys2Proof.Machine.execAbs d a s
  | .iadd32 d a b => Sys2Proof.Machine.execIadd32 d a b s
  | .isub32 d a b => Sys2Proof.Machine.execIsub32 d a b s
  | .imul32 d a b => Sys2Proof.Machine.execImul32 d a b s
  | .movt d a => Sys2Proof.Machine.execMovt d a s
  | .syncw => Sys2Proof.Machine.execSyncw s
  | .ballot32 d a => Sys2Proof.Machine.execBallot32 d a s
  | .shfl32 d a b => Sys2Proof.Machine.execShfl32 d a b s
  | .tageq d a b => Sys2Proof.Machine.execTageq d a b s
  | .movk g k d imm => Sys2Proof.Machine.execMovk g k d imm s
  | .movh g k d imm => Sys2Proof.Machine.execMovh g k d imm s
  | .retag g d a t => Sys2Proof.Machine.execRetag g d a t s
  | .chktag g a t m => Sys2Proof.Machine.execChktag g a t m s
  | .testtag g d a t m => Sys2Proof.Machine.execTesttag g d a t m s
  | .sel g d a b c => Sys2Proof.Machine.execSel g d a b c s
  | .fma g d a b c => Sys2Proof.Machine.execFma g d a b c s
  | .div g d a b => Sys2Proof.Machine.execDiv g d a b s
  | .rem g d a b => Sys2Proof.Machine.execRem g d a b s
  | .cmp g cc d a b => Sys2Proof.Machine.execCmp g cc d a b s
  | .eqv g d a b => Sys2Proof.Machine.execEqv g d a b s
  | .cvt g d a t => Sys2Proof.Machine.execCvt g d a t s
  | .hashv g d a => Sys2Proof.Machine.execHashv g d a s
  | .imul g d a b => Sys2Proof.Machine.execImul g d a b s
  | .imulh g sg d a b => Sys2Proof.Machine.execImulh g sg d a b s
  | .imad g d a b c => Sys2Proof.Machine.execImad g d a b c s
  | .idiv g sg d a b => Sys2Proof.Machine.execIdiv g sg d a b s
  | .irem g sg d a b => Sys2Proof.Machine.execIrem g sg d a b s
  | .imin g sg d a b => Sys2Proof.Machine.execImin g sg d a b s
  | .imax g sg d a b => Sys2Proof.Machine.execImax g sg d a b s
  | .icmp g sg cc d a b => Sys2Proof.Machine.execIcmp g sg cc d a b s
  | .iaddi g d a imm => Sys2Proof.Machine.execIaddi g d a imm s
  | .andi g d a imm => Sys2Proof.Machine.execAndi g d a imm s
  | .ori g d a imm => Sys2Proof.Machine.execOri g d a imm s
  | .xori g d a imm => Sys2Proof.Machine.execXori g d a imm s
  | .shi g k d a n => Sys2Proof.Machine.execShi g k d a n s
  | .rot g k d a b => Sys2Proof.Machine.execRot g k d a b s
  | .popc g d a => Sys2Proof.Machine.execPopc g d a s
  | .clz g d a => Sys2Proof.Machine.execClz g d a s
  | .bfx g sx d a pos len => Sys2Proof.Machine.execBfx g sx d a pos len s
  | .bfi g d a pos len => Sys2Proof.Machine.execBfi g d a pos len s
  | .lea g d a b sh => Sys2Proof.Machine.execLea g d a b sh s
  | .iaddc g d a b c => Sys2Proof.Machine.execIaddc g d a b c s
  | .brev g d a => Sys2Proof.Machine.execBrev g d a s
  | .isat g w u d a => Sys2Proof.Machine.execIsat g w u d a s
  | .fadd g f d a b => Sys2Proof.Machine.execFadd g f d a b s
  | .fsub g f d a b => Sys2Proof.Machine.execFsub g f d a b s
  | .fmul g f d a b => Sys2Proof.Machine.execFmul g f d a b s
  | .ffma g f d a b c => Sys2Proof.Machine.execFfma g f d a b c s
  | .fdiv g f d a b => Sys2Proof.Machine.execFdiv g f d a b s
  | .fsqrt g f d a => Sys2Proof.Machine.execFsqrt g f d a s
  | .frcp g f d a => Sys2Proof.Machine.execFrcp g f d a s
  | .frsq g f d a => Sys2Proof.Machine.execFrsq g f d a s
  | .fmin g f d a b => Sys2Proof.Machine.execFmin g f d a b s
  | .fmax g f d a b => Sys2Proof.Machine.execFmax g f d a b s
  | .fcmp g f cc d a b => Sys2Proof.Machine.execFcmp g f cc d a b s
  | .fclass g f d a => Sys2Proof.Machine.execFclass g f d a s
  | .fexp2 g f d a => Sys2Proof.Machine.execFexp2 g f d a s
  | .flog2 g f d a => Sys2Proof.Machine.execFlog2 g f d a s
  | .fsin g f d a => Sys2Proof.Machine.execFsin g f d a s
  | .fcos g f d a => Sys2Proof.Machine.execFcos g f d a s
  | .fcvt g f src d a => Sys2Proof.Machine.execFcvt g f src d a s
  | .i2f g f u d a => Sys2Proof.Machine.execI2f g f u d a s
  | .f2i g f u d a => Sys2Proof.Machine.execF2i g f u d a s
  | .frnd g f m d a => Sys2Proof.Machine.execFrnd g f m d a s
  | .padd g k d a b => Sys2Proof.Machine.execPadd g k d a b s
  | .pmul g k d a b => Sys2Proof.Machine.execPmul g k d a b s
  | .pfma g k d a b c => Sys2Proof.Machine.execPfma g k d a b c s
  | .pdot g bf d a b c => Sys2Proof.Machine.execPdot g bf d a b c s
  | .pmax g k d a b => Sys2Proof.Machine.execPmax g k d a b s
  | .pcvt g src dst d a => Sys2Proof.Machine.execPcvt g src dst d a s
  | .qpack g k d a => Sys2Proof.Machine.execQpack g k d a s
  | .qunpk g k d a => Sys2Proof.Machine.execQunpk g k d a s
  | .shfl g k imm d a b => Sys2Proof.Machine.execShfl g k imm d a b s
  | .vote g k d a => Sys2Proof.Machine.execVote g k d a s
  | .rdx g op d a => Sys2Proof.Machine.execRdx g op d a s
  | .scan g op excl d a => Sys2Proof.Machine.execScan g op excl d a s
  | .segrdx g op d a c => Sys2Proof.Machine.execSegrdx g op d a c s
  | .matchv g d a => Sys2Proof.Machine.execMatchv g d a s
  | .bcast g d a lane => Sys2Proof.Machine.execBcast g d a lane s
  | .smov g d a => Sys2Proof.Machine.execSmov g d a s
  | .smovFromLane g d a lane => Sys2Proof.Machine.execSmovFromLane g d a lane s
  | .smovToLanes g d a => Sys2Proof.Machine.execSmovToLanes g d a s
  | .salu g op d a b => Sys2Proof.Machine.execSalu g op d a b s
  | .scmp g sg cc d a b => Sys2Proof.Machine.execScmp g sg cc d a b s
  | .brd g toV d a => Sys2Proof.Machine.execBrd g toV d a s
  | .bwr g d a => Sys2Proof.Machine.execBwr g d a s
  | .lanesel g d a => Sys2Proof.Machine.execLanesel g d a s
  | .ld g ty d base imm => Sys2Proof.Machine.execLd g ty d base imm s
  | .st g ty d base imm => Sys2Proof.Machine.execSt g ty d base imm s
  | .ldinv g ty d base imm => Sys2Proof.Machine.execLdinv g ty d base imm s
  | .lds g ty d base imm => Sys2Proof.Machine.execLds g ty d base imm s
  | .sts g ty d base imm => Sys2Proof.Machine.execSts g ty d base imm s
  | .ldref g d base imm => Sys2Proof.Machine.execLdref g d base imm s
  | .ldf g d a idx => Sys2Proof.Machine.execLdf g d a idx s
  | .stf g d a idx => Sys2Proof.Machine.execStf g d a idx s
  | .hdrld g d a => Sys2Proof.Machine.execHdrld g d a s
  | .nalloc g d a b => Sys2Proof.Machine.execNalloc g d a b s
  | .nset g a b => Sys2Proof.Machine.execNset g a b s
  | .atom g op sz a b imm => Sys2Proof.Machine.execAtom g op sz a b imm s
  | .cas g sz d a b imm => Sys2Proof.Machine.execCas g sz d a b imm s
  | .fence g pred succ scope => Sys2Proof.Machine.execFence g pred succ scope s
  | .waitc g ld st cp tile => Sys2Proof.Machine.execWaitc g ld st cp tile s
  | .waitp g a path => Sys2Proof.Machine.execWaitp g a path s
  | .pref g l2 base imm => Sys2Proof.Machine.execPref g l2 base imm s
  | .cctl g op base imm => Sys2Proof.Machine.execCctl g op base imm s
  | .txbegin g d off => Sys2Proof.Machine.execTxbegin g d off s
  | .txabort g code => Sys2Proof.Machine.execTxabort g code s
  | .txstat g d => Sys2Proof.Machine.execTxstat g d s
  | .ldx g ty d a b sh => Sys2Proof.Machine.execLdx g ty d a b sh s
  | .acpy g dir d a b c => Sys2Proof.Machine.execAcpy g dir d a b c s
  | .amcast g d a b c => Sys2Proof.Machine.execAmcast g d a b c s
  | .agath g esz d a b c => Sys2Proof.Machine.execAgath g esz d a b c s
  | .ascat g esz d a b c => Sys2Proof.Machine.execAscat g esz d a b c s
  | .hcpy g dir d a b c => Sys2Proof.Machine.execHcpy g dir d a b c s
  | .acoll g dom op ty d a b c => Sys2Proof.Machine.execAcoll g dom op ty d a b c s
  | .tlbind g d a => Sys2Proof.Machine.execTlbind g d a s
  | .tlwait g d a => Sys2Proof.Machine.execTlwait g d a s
  | .tlread g d a => Sys2Proof.Machine.execTlread g d a s
  | .tlsig g d a => Sys2Proof.Machine.execTlsig g d a s
  | .acancel g d a => Sys2Proof.Machine.execAcancel g d a s
  | .sxpd g f d a b c => Sys2Proof.Machine.execSxpd g f d a b c s
  | .spack g f d a b c => Sys2Proof.Machine.execSpack g f d a b c s
  | .tdesc g k rot d a b => Sys2Proof.Machine.execTdesc g k rot d a b s
  | .talloc g d => Sys2Proof.Machine.execTalloc g d s
  | .tfree g a => Sys2Proof.Machine.execTfree g a s
  | .mmaz g ad bd d a b => Sys2Proof.Machine.execMmaz g ad bd d a b s
  | .mma g ad bd d a b => Sys2Proof.Machine.execMma g ad bd d a b s
  | .mmag g ad bd d a b => Sys2Proof.Machine.execMmag g ad bd d a b s
  | .gangset g a => Sys2Proof.Machine.execGangset g a s
  | .drain g f mem d a => Sys2Proof.Machine.execDrain g f mem d a s
  | .drainT g f mem d a b => Sys2Proof.Machine.execDrainT g f mem d a b s
  | .drainAdd g f mem d a => Sys2Proof.Machine.execDrainAdd g f mem d a s
  | .accld g d a => Sys2Proof.Machine.execAccld g d a s
  | .accrd g d a blk => Sys2Proof.Machine.execAccrd g d a blk s
  | .bra g off => Sys2Proof.Machine.execBra g off s
  | .brx g a => Sys2Proof.Machine.execBrx g a s
  | .call g d off => Sys2Proof.Machine.execCall g d off s
  | .callx g d a => Sys2Proof.Machine.execCallx g d a s
  | .interval g d m => Sys2Proof.Machine.execInterval g d m s
  | .splitw g w d => Sys2Proof.Machine.execSplitw g w d s
  | .fusew g w d => Sys2Proof.Machine.execFusew g w d s
  | .width g d => Sys2Proof.Machine.execWidth g d s
  | .legacyEnter g => Sys2Proof.Machine.execLegacyEnter g s
  | .legacyLeave g => Sys2Proof.Machine.execLegacyLeave g s
  | .barc g n a => Sys2Proof.Machine.execBarc g n a s
  | .spawn g uni d a b => Sys2Proof.Machine.execSpawn g uni d a b s
  | .launchp g d a b c => Sys2Proof.Machine.execLaunchp g d a b c s
  | .shape g a b => Sys2Proof.Machine.execShape g a b s
  | .specq g d => Sys2Proof.Machine.execSpecq g d s
  | .trap g code => Sys2Proof.Machine.execTrap g code s
  | .bru g off => Sys2Proof.Machine.execBru g off s
  | .sysrd g d num => Sys2Proof.Machine.execSysrd g d num s
  | .syswr g a num => Sys2Proof.Machine.execSyswr g a num s
  | .time g d => Sys2Proof.Machine.execTime g d s
  | .clock g d => Sys2Proof.Machine.execClock g d s
  | .icinv g a => Sys2Proof.Machine.execIcinv g a s
  | .icinvAll g => Sys2Proof.Machine.execIcinvAll g s
  | .vqpush g a b => Sys2Proof.Machine.execVqpush g a b s
  | .rett g => Sys2Proof.Machine.execRett g s
  | .hcall g n => Sys2Proof.Machine.execHcall g n s
  | .perf g d n => Sys2Proof.Machine.execPerf g d n s
  | .fmad g d a b c => Sys2Proof.Machine.execFmad g d a b c s
  | .mma16 g d a b => Sys2Proof.Machine.execMma16 g d a b s
  | .mma32 g d a b => Sys2Proof.Machine.execMma32 g d a b s
  | .xpand g d a => Sys2Proof.Machine.execXpand g d a s
  | .allocw g d a b => Sys2Proof.Machine.execAllocw g d a b s
  | .ldbar g d base imm => Sys2Proof.Machine.execLdbar g d base imm s
  | .gcmark g a => Sys2Proof.Machine.execGcmark g a s
  | .fenceg g => Sys2Proof.Machine.execFenceg g s
  | .fences g => Sys2Proof.Machine.execFences g s
  | .spawn1 g d a b => Sys2Proof.Machine.execSpawn1 g d a b s
  | .waitall g => Sys2Proof.Machine.execWaitall g s
  | .cvtq8 g d a => Sys2Proof.Machine.execCvtq8 g d a s
  | .sqrt64 g d a => Sys2Proof.Machine.execSqrt64 g d a s
  | .ldg32 g d base imm => Sys2Proof.Machine.execLdg32 g d base imm s
  | .stg32 g d base imm => Sys2Proof.Machine.execStg32 g d base imm s
  | .bcastw g d a => Sys2Proof.Machine.execBcastw g d a s
  | .fusewTimeout w => Sys2Proof.Machine.execFusewTimeout w s
  | .taskPlace p => Sys2Proof.Machine.execTaskPlace p s
  | .taskEnd t => Sys2Proof.Machine.execTaskEnd t s
  | .loadComplete id marked => Sys2Proof.Machine.execLoadComplete id marked s
  | .storePerformed id => Sys2Proof.Machine.execStorePerformed id s
  | .atomicComplete id => Sys2Proof.Machine.execAtomicComplete id s
  | .engineCommandStart t e => Sys2Proof.Machine.execEngineCommandStart t e s
  | .engineCommandComplete t e n => Sys2Proof.Machine.execEngineCommandComplete t e n s
  | .tileOpAccept id => Sys2Proof.Machine.execTileOpAccept id s
  | .tileOpComplete id => Sys2Proof.Machine.execTileOpComplete id s
  | .trowelUpdate id => Sys2Proof.Machine.execTrowelUpdate id s
  | .launchResolutionComplete l => Sys2Proof.Machine.execLaunchResolutionComplete l s
  | .launchComplete l => Sys2Proof.Machine.execLaunchComplete l s
  | .queueEntryAccept vf n => Sys2Proof.Machine.execQueueEntryAccept vf n s
  | .queueMap vf n => Sys2Proof.Machine.execQueueMap vf n s
  | .packetSend o => Sys2Proof.Machine.execPacketSend o s
  | .hbmRequestServe m => Sys2Proof.Machine.execHbmRequestServe m s
  | .castlingSweepComplete p => Sys2Proof.Machine.execCastlingSweepComplete p s
  | .castlingCgraceExpiry p => Sys2Proof.Machine.execCastlingCgraceExpiry p s
  | .castlingScrub p => Sys2Proof.Machine.execCastlingScrub p s
  | .castlingCommit p => Sys2Proof.Machine.execCastlingCommit p s
  | .saveAreaProbe vf => Sys2Proof.Machine.execSaveAreaProbe vf s
  | .sliceExpiry vf => Sys2Proof.Machine.execSliceExpiry vf s
  | .graceExpiry vf => Sys2Proof.Machine.execGraceExpiry vf s
  | .killExpiry vf => Sys2Proof.Machine.execKillExpiry vf s
  | .saveComplete vf => Sys2Proof.Machine.execSaveComplete vf s
  | .restoreComplete vf => Sys2Proof.Machine.execRestoreComplete vf s
  | .s2InvalidateComplete vf => Sys2Proof.Machine.execS2InvalidateComplete vf s
  | .eventRingPost => Sys2Proof.Machine.execEventRingPost s
  | .blockWake b => Sys2Proof.Machine.execBlockWake b s
  | .encodingNotInstruction => Sys2Proof.Machine.execEncodingNotInstruction s
  | .unitFetchFault addr kind => Sys2Proof.Machine.execUnitFetchFault addr kind s
  | .workingSetStaged w => Sys2Proof.Machine.execWorkingSetStaged w s
  | .splitTurnExpiry w => Sys2Proof.Machine.execSplitTurnExpiry w s
  | .warpDue w => Sys2Proof.Machine.execWarpDue w s
  | .engineCommandFail t e n addr => Sys2Proof.Machine.execEngineCommandFail t e n addr s
  | .doorbell vf n => Sys2Proof.Machine.execDoorbell vf n s
  | .s1inv vf => Sys2Proof.Machine.execS1inv vf s
  | .packetAdmit pkt => Sys2Proof.Machine.execPacketAdmit pkt s
  | .rateRecovery => Sys2Proof.Machine.execRateRecovery s
  | .allotWrite p v => Sys2Proof.Machine.execAllotWrite p v s
  | .castlingGo p => Sys2Proof.Machine.execCastlingGo p s
  | .vfEnable vf => Sys2Proof.Machine.execVfEnable vf s
  | .cmdStopSave vf => Sys2Proof.Machine.execCmdStopSave vf s
  | .cmdRestore vf => Sys2Proof.Machine.execCmdRestore vf s
  | .cmdKill vf => Sys2Proof.Machine.execCmdKill vf s
  | .cmdContinue vf => Sys2Proof.Machine.execCmdContinue vf s
  | .s2Invalidate vf => Sys2Proof.Machine.execS2Invalidate vf s
  | .hvActionRetry vf ref => Sys2Proof.Machine.execHvActionRetry vf ref s
  | .hvActionConvert vf ref => Sys2Proof.Machine.execHvActionConvert vf ref s
  | .hvActionHcall vf ref => Sys2Proof.Machine.execHvActionHcall vf ref s
  | .hostWindowAccess off len wr => Sys2Proof.Machine.execHostWindowAccess off len wr s
  | .fabricMemoryAccess dom gpa len op => Sys2Proof.Machine.execFabricMemoryAccess dom gpa len op s
  | .fabricLaunchPacket dom desc pkg blocks => Sys2Proof.Machine.execFabricLaunchPacket dom desc pkg blocks s
  | .vfFlr vf => Sys2Proof.Machine.execVfFlr vf s
  | .deviceReset => Sys2Proof.Machine.execDeviceReset s
  | .firmwareImageLoad img => Sys2Proof.Machine.execFirmwareImageLoad img s
  | .attestDeviceReport => Sys2Proof.Machine.execAttestDeviceReport s
  | .attestVfReport vf => Sys2Proof.Machine.execAttestVfReport vf s
  | .uncorrectableError loc => Sys2Proof.Machine.execUncorrectableError loc s
  | .correctedError => Sys2Proof.Machine.execCorrectedError s
  | .patrolScrub => Sys2Proof.Machine.execPatrolScrub s
  | .frequencyChange b f => Sys2Proof.Machine.execFrequencyChange b f s
  | .swienekTranslate vf img => Sys2Proof.Machine.execSwienekTranslate vf img s
  | .registerWrite bar off v pl => Sys2Proof.Machine.execRegisterWrite bar off v pl s
  | .cleanLineRefetch core line => Sys2Proof.Machine.execCleanLineRefetch core line s
  | .blockGating b => Sys2Proof.Machine.execBlockGating b s
  | .fabricCollectiveTraffic msg => Sys2Proof.Machine.execFabricCollectiveTraffic msg s

end Sys2Proof.Machine
end

