-- ==== Sys2Proof/Machine/Issue.lean ====
section
/-!
DEFINITION. Issue: what a split does when it runs its next unit, the warp that each scheduler takes, and the choices open to
the machine in one step (spec 08, R261 to R263; spec 02, R33, R34, R60, R64).
-/
namespace Sys2Proof.Machine

/-- What one step comes to. -/
abbrev Result := Host.Outcome State Fault Refusal

/-- An outcome with its next state changed. -/
def afterNext (r : Result) (f : State → State) : Result :=
  match r with
  | .next s => .next (f s)
  | .fault e => .fault e
  | .refused e => .refused e

/-- Whether a unit was found to wait at its boundary: it has not issued (R261). -/
def waitsStill (r : Result) : Bool :=
  match r with
  | .next s => (match s.cur with | some c => c.stays | none => false)
  | .fault _ | .refused _ => false

/-! ### One unit (R33, R34, R64) -/

/-- The state in which a unit executes: its warp as it issues, and the unit in `cur`. -/
def State.atUnit (s : State) (w : Warp) (c : Cur) : State := { s.setWarp (w.issued (w.legacy && ((w.split? c.split).map fun sp => sp.upper).getD false) c.split) with cur := some c }

/-- A unit that executes: none when it waits. -/
def State.runUnit (s : State) (w : Warp) (c : Cur) (i : Instr) : Option Result :=
  let r := exec i (s.atUnit w c)
  if waitsStill r then none else some r

/-- A unit whose word cannot be fetched (R34): MEM_FAULT, or the wait on stage 2 (R331). -/
def State.fetchFails (s : State) (w : Warp) (c : Cur) (m : LaneMask) (e : XFault) (addr : W64) : Result :=
  let s := s.atUnit w c
  match e with
  | .wide => exec (.unitFetchFault addr 2) s
  | .stage1 k => exec (.unitFetchFault addr k) s
  | .stage2 _ | .tagPool _ => s.onUnit fun u => s.xfault u e addr m false true

/-- A unit whose word is rejected (R60, R63, R64): ORPHAN_PREFIX or ILLEGAL; a masked feature's decode is counted. -/
def State.rejected (s : State) (w : Warp) (c : Cur) (m : LaneMask) (ctx : Nat) (e : DecErr) : Result :=
  let s := s.atUnit w c
  if e.orphan then s.onUnit fun u => s.raise u (mkTrap codeOrphan 0 m 0)
  else
    let x := s.ctx ctx
    exec .encodingNotInstruction (if e = .masked then s.setCtx ctx { x with maskCnt := x.maskCnt + 1 } else s)

/-- What issuing a split's next unit comes to: none when it cannot issue. Lanes whose transactions are doomed abort at the
boundary before the unit (R200, R201, R235). -/
def State.issueSplit (s : State) (w : Warp) (sp : Split) : Option Result :=
  let sp := sp.settled
  let w := w.setSplit sp
  match sp.paths, s.task? w.task with
  | p :: _, some t =>
    if p.wait ≠ .run then none
    else
      let c : Cur := ⟨w.id, sp.num, p.pc, p.pc, none, none, false⟩
      match w.doomedLanes p.mask with
      | [] =>
        let f := s.fetchUnit t sp.pl .start p.pc 4
        match f.2 with
        | .unit d next => if f.1.awaits w p.mask d.instr then none else f.1.runUnit w (curOf d w.id sp.num p.pc next) d.instr
        | .fault e a => some (f.1.fetchFails w c p.mask e a)
        | .reject e => some (f.1.rejected w c p.mask t.ctx e)
      | ls => some (.next ((⟨w, sp, p, t, c⟩ : U).abort (s.setWarp w) w ls p.pc))
  | _, _ => none

/-! ### One warp (R262) -/

/-- Whether a warp may issue, if only the units that an answer has released. -/
def State.canIssue (s : State) (w : Warp) : Bool := s.mayIssue w || (s.mayRun w && !w.owed.isEmpty)

/-- What issuing the next unit of a warp, or of a half of one in legacy-width mode (R274), comes to: its running split's, until
its turn ends or it cannot issue, else that of a fresh choice among the splits that can. -/
def State.issueWarp (s : State) (w : Warp) (upper : Bool) : Option Result :=
  if s.canIssue w then
    let mine := (w.half upper).filter (s.maySplit w)
    let h := w.half? upper
    match (if h.turn < 64 then (mine.find? fun sp => sp.num == h.run).bind (s.issueSplit w) else none) with
    | some r => some r
    | none =>
      let able := mine.filter fun sp => (s.issueSplit w sp).isSome
      match chooseSplit able with
      | none => none
      | some sp =>
        let w := w.chosen upper (able.map fun x => x.num) sp.num
        (w.split? sp.num).bind (s.issueSplit w)
  else none

/-! ### The schedulers (R261) -/

/-- The scheduler of a warp: four to a core, of eight slots each (R16, R260). -/
def State.scheduler (s : State) (w : Warp) : Nat := ((s.task? w.task).map fun t => t.core).getD 0 * 4 + w.slot / 8

/-- A ready warp, or a ready half of one (R274), with what its unit comes to. -/
structure Ready where
  warp : Warp
  upper : Bool
  result : Result

/-- The oldest of some ready warps; `c` chooses between the halves of one, which share its age. -/
def oldest (c : Nat) (ws : List Ready) : Option Ready :=
  let xs := sortBy (fun x => x.warp.age) ws
  match xs with
  | x :: y :: _ => if x.warp.id = y.warp.id ∧ c % 2 = 1 then some y else some x
  | xs => xs.head?

/-- The warp a scheduler takes among its ready ones: the oldest of those passed over 64 times, else the oldest. -/
def pickWarp (c : Nat) (ws : List Ready) : Option Ready :=
  let due := ws.filter fun x => decide (64 ≤ (x.warp.half? x.upper).passed)
  oldest c (if due.isEmpty then ws else due)

/-- One half's passed count after a scheduler has taken `x` among the `ready` ones. -/
def Ready.mark (x : Ready) (ready : List Ready) (upper : Bool) (w : Warp) : Warp :=
  if w.id = x.warp.id ∧ upper = x.upper then w.setHalf upper { w.half? upper with passed := 0 }
  else if ready.any (fun y => y.warp.id == w.id && y.upper == upper) then w.pass upper else w

/-- The passed counts after a scheduler has taken a warp. -/
def State.passOver (s : State) (ready : List Ready) (x : Ready) : State :=
  { s with warps := s.warps.map fun w => x.mark ready true (x.mark ready false w) }

/-- The warps that may issue, in legacy-width mode by halves. -/
def State.readyWarps (s : State) : List Ready :=
  s.warps.flatMap fun w => (if w.legacy then [false, true] else [false]).filterMap fun up =>
    (s.issueWarp w up).map fun r => ⟨w, up, r⟩

/-- What the schedulers may issue: one result for each scheduler with a ready warp. -/
def State.issues (s : State) : List Result :=
  let ready := s.readyWarps
  (distinct (ready.map fun x => s.scheduler x.warp)).filterMap fun g =>
    let mine := ready.filter fun x => s.scheduler x.warp == g
    (pickWarp (Config.pickAt s.tick g) mine).map fun x => afterNext x.result fun s' => s'.passOver mine x

/-! ### One step -/

/-- The next event from outside, taken from those that wait. -/
def State.arrivals (s : State) : List Result :=
  match s.inputs with
  | [] => []
  | i :: is => let s : State := { s with inputs := is }; if fromOutside i then [exec i s] else [.next s]

/-- Everything the machine may do next (log entries 3, 5). -/
def State.options (s : State) : List Result := s.arrivals ++ (s.due.map fun i => exec i s) ++ s.issues

/-- Whether a store or atomic that has waited its time is held up by a DRAIN of its split (R181, R183). -/
def State.drainsDue (s : State) : Bool :=
  (s.stores.any fun p => s.storeDue p && s.behind p.id) || s.atoms.any fun p => s.atomDue p && s.behind p.id

/-- What the machine may do next: the tile operations that hold up a store whose time has come, else any option (R183). -/
def State.pressing (s : State) : List Result :=
  let first := if s.drainsDue then s.dueTiles.map fun i => exec i s else []
  if first.isEmpty then s.options else first

/-- One of the options, freely; none when there is none. -/
def State.act (s : State) : Result :=
  let t : State := { s with tick := s.tick + 1 }
  match t.pressing with
  | [] => .next t
  | [r] => r
  | r :: rs => ((r :: rs)[(s.choose (rs.length + 1)).1]?).getD r

/-- Whether a split of a warp whose working set is not staged could issue but for that (R269, R357). -/
def State.stagingWaits (s : State) (w : Warp) : Bool :=
  let w' : Warp := { w with staged := true }
  !w.staged && s.mayIssue w' && w'.splits.any fun sp => (s.issueSplit w' sp).isSome

/-- The cycles in which a ready split waited on operand staging (R357), for those of one step. -/
def State.countStaging (s : State) (cy : Nat) : State :=
  { s with warps := s.warps.map fun w => if s.stagingWaits w then w.bump 7 cy else w }

/-- What has waited its time becomes visible (R183): stores, atomics and clean lines, drains, and what stood behind them; then
commands. -/
def State.allVisible (s : State) : State :=
  let s := s.makeVisible
  let s := if s.tiles.any s.tileDue then s.drainVisible.makeVisible else s
  s.commandsVisible

/-- The splits of a warp that can issue their next unit. -/
def State.ableSplits (s : State) (w : Warp) : List Nat :=
  if s.canIssue w then ((w.splits.filter fun sp => s.maySplit w sp && (s.issueSplit w sp).isSome).map fun sp => sp.num) else []

/-- The end of a step: no unit is in execution, time passes, what has waited its time becomes visible, a change of HDRP takes
effect, what a mapping inside a tag pool disturbs is free, and the turns of splits that cannot issue are over (R183, R205, R262, R308). -/
def State.settleStep (s : State) : State :=
  let s : State := { s with cur := none }
  let s := if s.warps.all fun w => w.staged then s else s.countStaging (Config.cyclesPerStep s.tick)
  let s := s.elapse.allVisible.emptyHeaders.stirPools
  { s with warps := s.warps.map fun w => w.markAble (s.ableSplits w) }

/-! ### Placing a unit (log entry 20) -/

/-- The context, core, task and warp with which a unit is placed: virtual function 0 on partition 0, one warp of width 64 at
PL1 on core 0. -/
def hostCtx : Ctx := { Ctx.reset with en := true, saveState := 1, pinned := true, s2en := true }
/-- Partition 0 with core port 0 and memory port 0. -/
def hostPart : Part := { Part.reset with cports := 1, mports := 1, matrix := 1, cap := capOf 1 }

/-- A descriptor of one block of one warp. -/
def hostDesc : KDesc where
  code := 0x10000
  htab := 0
  level := 3
  flags := 0
  notifyTl := 0
  scratch := 0
  blockRegs := 64
  accTiles := 16
  cohort := 0
  loader := 0
  compute := 0
  storer := 0
  roles := [⟨1, 64, 256, true, 0⟩]
  gx := 1
  gy := 1
  gz := 1
  arg := 0
  rlog := 0
  rlogCap := 0

/-- The launch of that block, placed. -/
def hostLaunch : Launch := ⟨0, 0, 0, 0, hostDesc, .fabric, ⟨.bits, 0⟩, 1, 1, 1, false, 0, 0, none, 0, 0, 0, true, true⟩
/-- Its block as it is placed. -/
def hostPlacing : Placing := ⟨hostLaunch, 0, 0, 0, none, 0, none⟩
/-- The page in which the unit lies, executable, readable and writable at every level. -/
def hostPage : Trans := ⟨0x10000, 0x10000, .device, true, true, true, true, true, true, true, true⟩

/-- The machine with one warp about to execute the words at 0x10000. -/
def State.place (s : State) (bs : List Byte) : State :=
  { s with
    cur := none
    mem := s.mem.write 0x10000 bs
    icache := []
    tlb := [⟨0, 1, hostPage, 0⟩]
    loads := []
    stores := []
    atoms := []
    tiles := []
    inputs := []
    launches := [hostLaunch]
    tasks := [startTask hostPlacing 1 0 (List.range 16) 1]
    warps := [startWarp hostPlacing 0 0 ⟨1, 64, 256, true, 0⟩ 2 1 0 3 2 (List.range 256)]
    ctxs := [(0, hostCtx)]
    parts := [(0, { hostPart with tagPages := [1] })]
    sources := []
    nets := []
    marks := []
    hbm := []
    dev := { s.dev with evwait := [], gated := [], images := [] }
    nextId := s.nextId + 4 }

end Sys2Proof.Machine
end

