-- ==== Sys2Proof/Machine/Step.lean ====
section
/-!
DEFINITION. One step of the machine, and the placing of an instruction where the next step fetches it.
-/
namespace Sys2Proof.Machine

/-- One step: an event from outside, an event of the device, or a unit that some scheduler issues, freely; then what it sends joins
the traffic of the network, and time passes. -/
def step (s : State) : Host.Outcome State Fault Refusal := afterNext s.act fun t => (s.inject t).settleStep

/-- The machine about to execute the instruction whose bits are `w` (log entry 20). -/
def State.withFetchWord (s : State) (nbits w : Nat) : State :=
  s.place (wordBytes (BitVec.ofNat 32 (w % 2 ^ nbits)) ++ wordBytes (BitVec.ofNat 32 (w % 2 ^ nbits / 2 ^ 32)))

end Sys2Proof.Machine
end

