-- ==== Sys2Proof/Safety.lean ====
section
/-!
DEFINITION. What counts as a safe run: every step answers a next state, no unit is left in execution between steps, and the
memory keeps its canonical form.
-/
namespace Sys2Proof.Safety

open Sys2Proof.Machine

/-- A state between steps: no unit is in execution and the memory is in canonical form. -/
structure Settled (s : State) : Prop where
  cur : s.cur = none
  mem : s.mem.wf = true

/-- The state after some steps, when none of them stops. -/
def run : Nat → State → Option State
  | 0, s => some s
  | n + 1, s =>
    match step s with
    | .next t => run n t
    | .fault _ | .refused _ => none

/-- A run of some steps that does not stop and ends in a settled state. -/
def SafeFor (n : Nat) (s : State) : Prop := ∃ t, run n s = some t ∧ Settled t

end Sys2Proof.Safety
end

