-- ==== Sys2Proof/Certificates/Slice0/Obligations.lean ====
section
/-!
DEFINITION. The statements about the GX-960 for the provers. The helpers in namespace Sys2Proof.Slice0 say in the rules' own
terms what an instruction writes and when it completes; each obligation holds the model's `exec` or `step` against them.
-/
namespace Sys2Proof.Slice0

open Sys2Proof Sys2Proof.Machine

/-! ### Common terms -/

/-- Every register of a list is one that the role of the executing warp reaches (R106). -/
def Reaches (u : U) (rs : List Reg) : Prop := ∀ r ∈ rs, (regIndex u.w.nregs r).isSome = true

/-- No lane of a list holds POISON in one of some lane registers (R91). -/
def Clean (u : U) (ls : List Nat) (rs : List Reg) : Prop := ∀ l ∈ ls, ∀ r ∈ rs, (u.w.getV l r).tag ≠ .poison

/-- None of some scalar registers holds POISON (R91). -/
def CleanS (u : U) (rs : List Reg) : Prop := ∀ r ∈ rs, (u.w.getS r).tag ≠ .poison

/-- The unit has no placement prefix, or one whose scope the context allows (R191). -/
def ScopeOk (s : State) (u : U) : Prop := ∀ p, u.c.place = some p → p.1 ≤ (s.ctx u.t.ctx).scopeLimit

/-- The hint of an access: SCOPE of the prefix, else the instruction's default (R216). -/
def hintOf (u : U) (dflt : Nat) : Nat := match u.c.place with | some p => p.1 | none => dflt

/-- The turn of a warp, or of the half that a split stands in, over (R262, R274). -/
def turnOver (w : Warp) (upper : Bool) : Warp := if upper then { w with up := { w.up with turn := 64 } } else { w with turn := 64 }

/-- An instruction whose effect is the registers it writes in each acting lane: its guard, the lane registers it names, those
it reads (in the order D, A, B, C), and what a lane that completes writes; none for a lane that traps. -/
structure LaneForm where
  guard : Guard
  named : List Reg
  srcs : List Reg
  out : U → Nat → Option (List LaneWrite)

/-- The warp after the writes `ws` of the acting lanes, in ascending lane order. -/
def LaneForm.after (f : LaneForm) (u : U) (ws : Nat → List LaneWrite) : Warp :=
  (u.acting f.guard).foldl (fun w l => w.writes l (ws l)) u.w

/-- What a form reads is in order: the names reach, no source is POISON, and no acting lane traps. -/
structure LaneForm.Ready (f : LaneForm) (u : U) (ws : Nat → List LaneWrite) : Prop where
  reach : Reaches u f.named
  clean : Clean u (u.acting f.guard) f.srcs
  lanes : ∀ l ∈ u.acting f.guard, f.out u l = some (ws l)

/-- Every well-formed instruction of a family completes: each acting lane writes what the form says, the unit's lanes go on
behind it, and nothing else changes. -/
def Completes (form : Instr → Option LaneForm) : Prop :=
  ∀ (s : State) (u : U) (i : Instr) (f : LaneForm) (ws : Nat → List LaneWrite),
    s.unit? = some u → i.wf = true → form i = some f → f.Ready u ws →
    exec i s = .next (u.done s (f.after u ws))

/-- One lane register written. -/
def vout (d : Reg) (x : Word) : Option (List LaneWrite) := some [.v d x]
/-- One predicate written. -/
def pout (d : Reg) (b : Bool) : Option (List LaneWrite) := some [.p d b]

/-! ### Typed integer instructions (R122) -/

/-- An exact integer taken to the nearest 64-bit signed one. -/
def clamp64 (x : Int) : W64 := BitVec.ofInt 64 (max (-(2 ^ 63)) (min x (2 ^ 63 - 1)))
/-- Payload bits [5:0] as a number. -/
def low6 (y : W64) : Nat := y.toNat % 64

/-- One source, its payload; whether SAT is set comes first. -/
def int1 (g : Guard) (d a : Reg) (f : Bool → W64 → W64) : LaneForm :=
  ⟨g, [d, a], [a], fun u l => vout d (intBits (f u.sat (u.w.getV l a).pay))⟩
/-- Two sources. -/
def int2 (g : Guard) (d a b : Reg) (f : Bool → W64 → W64 → W64) : LaneForm :=
  ⟨g, [d, a, b], [a, b], fun u l => vout d (intBits (f u.sat (u.w.getV l a).pay (u.w.getV l b).pay))⟩
/-- Three sources. -/
def int3 (g : Guard) (d a b c : Reg) (f : Bool → W64 → W64 → W64 → W64) : LaneForm :=
  ⟨g, [d, a, b, c], [a, b, c], fun u l =>
    vout d (intBits (f u.sat (u.w.getV l a).pay (u.w.getV l b).pay (u.w.getV l c).pay))⟩
/-- A bitwise instruction: BOOL of the low bit when both sources are BOOL, else INT. -/
def bit2 (d a b : Reg) (f : W64 → W64 → W64) : LaneForm :=
  ⟨.always, [d, a, b], [a, b], fun u l =>
    let x := u.w.getV l a
    let y := u.w.getV l b
    let z := f x.pay y.pay
    vout d (if x.tag = .bool ∧ y.tag = .bool then boolWord (z.getLsbD 0) else intBits z)⟩
/-- A division: no result for a divisor of 0. -/
def divide (g : Guard) (d a b : Reg) (f : Bool → W64 → W64 → W64) : LaneForm :=
  ⟨g, [d, a, b], [a, b], fun u l =>
    let y := (u.w.getV l b).pay
    if y = 0 then none else vout d (intBits (f u.sat (u.w.getV l a).pay y))⟩

/-- A condition on two payloads (R50, R122). -/
def icond (sg : Sgn) (c : Cond) (x y : W64) : Bool :=
  let lt := match sg with | .s => x.slt y | .u => x.ult y
  match c with
  | .eq | .or => x == y || decide (c = .or)
  | .ne => x != y
  | .lt => lt
  | .le => lt || x == y
  | .gt => !(lt || x == y)
  | .ge => !lt
  | .uo => false

/-- Bits [pos + len − 1 : pos] set. -/
def fieldMask (pos len : Nat) : W64 := (BitVec.allOnes 64 >>> (64 - len)) <<< pos

/-- The typed integer instructions (R122). -/
def integerForm : Instr → Option LaneForm
  | .iadd d a b => some <| int2 .always d a b fun sat x y => if sat then clamp64 (x.toInt + y.toInt) else x + y
  | .isub d a b => some <| int2 .always d a b fun sat x y => if sat then clamp64 (x.toInt - y.toInt) else x - y
  | .and d a b => some <| bit2 d a b fun x y => x &&& y
  | .or d a b => some <| bit2 d a b fun x y => x ||| y
  | .xor d a b => some <| bit2 d a b fun x y => x ^^^ y
  | .shl d a b => some <| int2 .always d a b fun _ x y => x <<< low6 y
  | .shr d a b => some <| int2 .always d a b fun _ x y => x >>> low6 y
  | .sar d a b => some <| int2 .always d a b fun _ x y => x.sshiftRight (low6 y)
  | .not d a => some ⟨.always, [d, a], [a], fun u l =>
      let x := u.w.getV l a
      vout d (if x.tag = .bool then boolWord (!x.pay.getLsbD 0) else intBits (~~~x.pay))⟩
  | .imul g d a b => some <| int2 g d a b fun sat x y => if sat then clamp64 (x.toInt * y.toInt) else x * y
  | .imulh g sg d a b => some <| int2 g d a b fun _ x y => match sg with
      | .s => (x.signExtend 128 * y.signExtend 128).extractLsb' 64 64
      | .u => (x.zeroExtend 128 * y.zeroExtend 128).extractLsb' 64 64
  | .imad g d a b c => some <| int3 g d a b c fun sat x y z =>
      if sat then clamp64 (x.toInt * y.toInt + z.toInt) else x * y + z
  | .idiv g sg d a b => some <| divide g d a b fun sat x y => match sg with
      | .s => if sat then clamp64 (x.toInt.tdiv y.toInt) else x.sdiv y
      | .u => x / y
  | .irem g sg d a b => some <| divide g d a b fun _ x y => match sg with
      | .s => x.srem y
      | .u => x % y
  | .imin g sg d a b => some <| int2 g d a b fun _ x y => if icond sg .le x y then x else y
  | .imax g sg d a b => some <| int2 g d a b fun _ x y => if icond sg .le x y then y else x
  | .icmp g sg cc d a b => some ⟨g, [a, b], [a, b], fun u l => pout d (icond sg cc (u.w.getV l a).pay (u.w.getV l b).pay)⟩
  | .iaddi g d a imm => some <| int1 g d a fun sat x =>
      if sat then clamp64 (x.toInt + imm.toInt) else x + imm.signExtend 64
  | .andi g d a imm => some <| int1 g d a fun _ x => x &&& imm.signExtend 64
  | .ori g d a imm => some <| int1 g d a fun _ x => x ||| imm.signExtend 64
  | .xori g d a imm => some <| int1 g d a fun _ x => x ^^^ imm.signExtend 64
  | .shi g k d a n => some <| int1 g d a fun _ x => match k with
      | .l => x <<< n.toNat
      | .r => x >>> n.toNat
      | .a => x.sshiftRight n.toNat
  | .rot g k d a b => some <| int2 g d a b fun _ x y => match k with
      | .l => x.rotateLeft (low6 y)
      | .r => x.rotateRight (low6 y)
  | .popc g d a => some <| int1 g d a fun _ x => BitVec.ofNat 64 ((List.range 64).countP fun i => x.getLsbD i)
  | .clz g d a => some <| int1 g d a fun _ x => BitVec.ofNat 64 (if x = 0 then 64 else 63 - x.toNat.log2)
  | .bfx g sx d a pos len => some <| int1 g d a fun _ x =>
      let f := x.extractLsb' pos.toNat len.toNat
      if sx then f.signExtend 64 else f.zeroExtend 64
  | .bfi g d a pos len => some ⟨g, [d, a], [d, a], fun u l =>
      let m := fieldMask pos.toNat len.toNat
      vout d (intBits (((u.w.getV l d).pay &&& ~~~m) ||| (((u.w.getV l a).pay <<< pos.toNat) &&& m)))⟩
  | .lea g d a b sh => some <| int2 g d a b fun sat x y =>
      if sat then clamp64 (x.toInt + y.toInt * 2 ^ sh.toNat) else x + (y <<< sh.toNat)
  | .iaddc g d a b c => some ⟨g, [d, a, b], [a, b], fun u l =>
      let x := (u.w.getV l a).pay
      let y := (u.w.getV l b).pay
      let cin : W64 := if u.w.getP l c then 1 else 0
      some [.v d (intBits (x + y + cin)), .p c (decide (2 ^ 64 ≤ x.toNat + y.toNat + cin.toNat))]⟩
  | .brev g d a => some <| int1 g d a fun _ x => x.reverse
  | .isat g w un d a => some <| int1 g d a fun _ x =>
      let n : Nat := match w with | .b8 => 8 | .b16 => 16 | .b32 => 32
      BitVec.ofInt 64 (if un then max 0 (min x.toInt (2 ^ n - 1)) else max (-(2 ^ (n - 1))) (min x.toInt (2 ^ (n - 1) - 1)))
  | _ => none

/-! ### Tag and move instructions (R119) -/

/-- The pass test of CHKTAG (R119). -/
def tagPasses (x t : Tag) (m : Byte) : Bool := x = t || (x.code.toNat / 16 < 8 && m.getLsbD (x.code.toNat / 16))

/-- The tag and move instructions (R119). -/
def moveForm : Instr → Option LaneForm
  | .mov d a => some ⟨.always, [d, a], [a], fun u l => vout d (u.w.getV l a)⟩
  | .movi d imm => some ⟨.always, [d], [], fun _ _ => vout d (intBits (imm.signExtend 64))⟩
  | .tagof d a => some ⟨.always, [d, a], [], fun u l => vout d (natWord (u.w.getV l a).tag.code.toNat)⟩
  | .laneid d => some ⟨.always, [d], [], fun u l => vout d (natWord (if u.w.legacy then l % 32 else l))⟩
  | .movk g k d imm => some ⟨g, [d], [], fun _ _ => vout d (match k with
      | .int => ⟨.int, imm.signExtend 64⟩
      | .f32 => ⟨.f32, imm.zeroExtend 64⟩
      | .bits => ⟨.bits, imm.zeroExtend 64⟩
      | .sym => ⟨.sym, imm.zeroExtend 64⟩)⟩
  | .movh g k d imm => some ⟨g, [d], [d], fun u l =>
      let x := u.w.getV l d
      let t := match k with
        | .keep => if x.tag = .int ∨ x.tag = .f64 ∨ x.tag = .bits then x.tag else .bits
        | .int => .int
        | .f64 => .f64
        | .bits => .bits
      vout d ⟨t, imm ++ x.pay.extractLsb' 0 32⟩⟩
  | .retag g d a t => some ⟨g, [d, a], [a], fun u l =>
      let x := u.w.getV l a
      if u.sp.pl = 0 ∧ t ∈ [Tag.ref, .tile, .hdr, .hdrc, .fwd, .poison] then none
      else if t ∈ [Tag.ref, .fwd] ∧ (2 ^ 57 ≤ x.pay.toNat ∨ x.pay.toNat % 8 ≠ 0) then none
      else vout d (if t = .poison then ⟨.poison, 0⟩ else mkWord t x.pay)⟩
  | .chktag g a t m => some ⟨g, [a], [], fun u l => if tagPasses (u.w.getV l a).tag t m then some [] else none⟩
  | .testtag g d a t m => some ⟨g, [a], [], fun u l => pout d (tagPasses (u.w.getV l a).tag t m)⟩
  | .sel g d a b c => some ⟨g, [d, a, b], [], fun u l =>
      let x := if u.w.getP l c then u.w.getV l a else u.w.getV l b
      if x.tag = .poison then none else vout d x⟩
  | .eqv g d a b => some ⟨g, [a, b], [a, b], fun u l =>
      let x := u.w.getV l a
      let y := u.w.getV l b
      pout d (x.tag = y.tag && x.pay &&& tagUsed x.tag = y.pay &&& tagUsed y.tag)⟩
  | _ => none

/-! ### Generic instructions (R107, R108, R116 to R118, R120, R121) -/

/-- The format in which a pair with a float computes (R107): the common one, or F64 beside INT or F32. -/
def pairFmt : Tag → Tag → Option FFmt
  | .f64, .f64 | .f64, .int | .int, .f64 | .f64, .f32 | .f32, .f64 => some .f64
  | .f32, .f32 => some .f32
  | .f16, .f16 => some .f16
  | .bf16, .bf16 => some .bf16
  | _, _ => none

/-- An exact integer as an INT (R105): out of range, the nearest under SAT, wrapped under NOTRAP, else OVERFLOW. -/
def intResult (u : U) (x : Int) : Option Word :=
  if -(2 ^ 63) ≤ x ∧ x < 2 ^ 63 ∨ (u.sat = false ∧ u.notrap = true) then some ⟨.int, BitVec.ofInt 64 x⟩
  else if u.sat = true then some ⟨.int, clamp64 x⟩
  else none

/-- A generic instruction on two words: by integers, or by exact values rounded once. -/
def genWord (u : U) (x y : Word) (fi : Int → Int → Option Int) (ff : FVal → FVal → FVal) : Option Word :=
  if x.tag = .int ∧ y.tag = .int then (fi x.pay.toInt y.pay.toInt).bind (intResult u)
  else (pairFmt x.tag y.tag).map fun f => u.round f (ff (tagValue u.ftz x) (tagValue u.ftz y))

/-- A generic instruction of two registers. -/
def gen2 (g : Guard) (d a b : Reg) (fi : Int → Int → Option Int) (ff : RMode → FVal → FVal → FVal) : LaneForm :=
  ⟨g, [d, a, b], [a, b], fun u l =>
    (genWord u (u.w.getV l a) (u.w.getV l b) fi (ff u.rm)).map fun x => [.v d x]⟩

/-- NEG and ABS. -/
def gen1 (d a : Reg) (fi : Int → Int) (ff : FVal → FVal) : LaneForm :=
  ⟨.always, [d, a], [a], fun u l =>
    let x := u.w.getV l a
    (if x.tag = .int then intResult u (fi x.pay.toInt)
     else x.tag.ffmt.map fun f => u.round f (ff (tagValue u.ftz x))).map fun y => [.v d y]⟩

/-- The generic instructions. -/
def genericForm : Instr → Option LaneForm
  | .add d a b => some <| gen2 .always d a b (fun x y => some (x + y)) fun r x y => x.add r y
  | .sub d a b => some <| gen2 .always d a b (fun x y => some (x - y)) fun r x y => x.add r y.neg
  | .mul d a b => some <| gen2 .always d a b (fun x y => some (x * y)) fun _ x y => x.mul y
  | .min d a b => some <| gen2 .always d a b (fun x y => some (min x y)) fun _ x y => x.min y
  | .max d a b => some <| gen2 .always d a b (fun x y => some (max x y)) fun _ x y => x.max y
  | .neg d a => some <| gen1 d a (fun x => -x) FVal.neg
  | .abs d a => some <| gen1 d a (fun x => (x.natAbs : Int)) FVal.abs
  | .addi d a imm => some ⟨.always, [d, a], [a], fun u l =>
      (genWord u (u.w.getV l a) ⟨.int, imm.signExtend 64⟩ (fun x y => some (x + y)) fun x y => x.add u.rm y).map fun x => [.v d x]⟩
  | .fma g d a b c => some ⟨g, [d, a, b, c], [a, b, c], fun u l =>
      let x := u.w.getV l a
      let y := u.w.getV l b
      let z := u.w.getV l c
      let v := (tagValue u.ftz x).mul (tagValue u.ftz y)
      (if x.tag = .int ∧ y.tag = .int ∧ z.tag = .int then intResult u (x.pay.toInt * y.pay.toInt + z.pay.toInt)
       else (tripleKind x.tag y.tag z.tag).bind fun k => match k with
         | .int => none
         | .flt f => some (u.round f (v.add u.rm (tagValue u.ftz z)))).map fun r => [.v d r]⟩
  | .div g d a b => some <| gen2 g d a b (fun x y => if y = 0 then none else some (x.tdiv y)) fun _ x y => x.div y
  | .rem g d a b => some <| gen2 g d a b (fun x y => if y = 0 then none else some (x.tmod y)) fun _ x y => x.rem y
  | .cmp g cc d a b => some ⟨g, [a, b], [a, b], fun u l =>
      let x := u.w.getV l a
      let y := u.w.getV l b
      if x.tag = .int ∧ y.tag = .int ∨ (pairFmt x.tag y.tag).isSome = true then
        pout d (condHolds cc ((tagValue u.ftz x).cmp (tagValue u.ftz y)))
      else none⟩
  | .cvt g d a t => some ⟨g, [d, a], [a], fun u l =>
      match u.cvtLane (u.w.getV l a) t with | .ok x => vout d x | .error _ => none⟩
  | .hashv g d a => some ⟨g, [d, a], [a], fun u l => (hashKey u.ftz (u.w.getV l a)).map fun k => [.v d (intBits (hashMix k))]⟩
  | _ => none

/-! ### Typed float instructions (R123) -/

/-- The exact value of a source under FTZ (R97). -/
def fval (u : U) (f : FFmt) (l : Nat) (r : Reg) : FVal := readF f.spec u.ftz ((u.w.getV l r).pay.toNat % 2 ^ f.spec.width)
/-- A result rounded once under the unit's prefix, with the tag of its format (R96). -/
def rounded (u : U) (f : FFmt) (v : FVal) : Word := ⟨f.tag, BitVec.ofNat 64 (roundFmt f.spec u.rm u.sat u.ftz v)⟩

/-- One source. -/
def flt1 (g : Guard) (f : FFmt) (d a : Reg) (op : FVal → FVal) : LaneForm :=
  ⟨g, [d, a], [a], fun u l => vout d (rounded u f (op (fval u f l a)))⟩
/-- Two sources. -/
def flt2 (g : Guard) (f : FFmt) (d a b : Reg) (op : RMode → FVal → FVal → FVal) : LaneForm :=
  ⟨g, [d, a, b], [a, b], fun u l => vout d (rounded u f (op u.rm (fval u f l a) (fval u f l b)))⟩
/-- One source and an encoding as result. -/
def fltEnc (g : Guard) (f : FFmt) (d a : Reg) (op : FSpec → RMode → Bool → Bool → FVal → Nat) : LaneForm :=
  ⟨g, [d, a], [a], fun u l => vout d ⟨f.tag, BitVec.ofNat 64 (op f.spec u.rm u.sat u.ftz (fval u f l a))⟩⟩

/-- The typed float instructions (R123). -/
def floatForm : Instr → Option LaneForm
  | .fadd g f d a b => some <| flt2 g f d a b fun r x y => x.add r y
  | .fsub g f d a b => some <| flt2 g f d a b fun r x y => x.add r y.neg
  | .fmul g f d a b => some <| flt2 g f d a b fun _ x y => x.mul y
  | .ffma g f d a b c => some ⟨g, [d, a, b, c], [a, b, c], fun u l =>
      vout d (rounded u f (((fval u f l a).mul (fval u f l b)).add u.rm (fval u f l c)))⟩
  | .fdiv g f d a b => some <| flt2 g f d a b fun _ x y => x.div y
  | .fsqrt g f d a => some <| flt1 g f d a FVal.sqrt
  | .frcp g f d a => some <| flt1 g f d a (FVal.ofInt 1).div
  | .frsq g f d a => some <| flt1 g f d a FVal.rsqrt
  | .fmin g f d a b => some <| flt2 g f d a b fun _ x y => x.min y
  | .fmax g f d a b => some <| flt2 g f d a b fun _ x y => x.max y
  | .fcmp g f cc d a b => some ⟨g, [a, b], [a, b], fun u l => pout d (condHolds cc ((fval u f l a).cmp (fval u f l b)))⟩
  | .fclass g f d a => some ⟨g, [d, a], [a], fun u l =>
      vout d (natWord (2 ^ classBit f.spec ((u.w.getV l a).pay.toNat % 2 ^ f.spec.width)))⟩
  | .fexp2 g f d a => some <| fltEnc g f d a exp2F
  | .flog2 g f d a => some <| fltEnc g f d a log2F
  | .fsin g f d a => some <| fltEnc g f d a (trigF false)
  | .fcos g f d a => some <| fltEnc g f d a (trigF true)
  | .fcvt g f src d a => some ⟨g, [d, a], [a], fun u l =>
      vout d (rounded u f (readF src.spec u.ftz ((u.w.getV l a).pay.toNat % 2 ^ src.spec.width)))⟩
  | .i2f g f un d a => some ⟨g, [d, a], [a], fun u l =>
      let x := (u.w.getV l a).pay
      vout d (rounded u f (.ofInt (if un then (x.toNat : Int) else x.toInt)))⟩
  | .f2i g f un d a => some ⟨g, [d, a], [a], fun u l =>
      let r := if u.c.arith.isSome then u.rm else .rz
      let lo : Int := if un then 0 else -(2 ^ 63)
      let hi : Int := if un then 2 ^ 64 - 1 else 2 ^ 63 - 1
      vout d ⟨.int, match fval u f l a with
        | .nan => 0
        | .inf neg => BitVec.ofInt 64 (if neg then lo else hi)
        | .fin neg n e => BitVec.ofInt 64 (max lo (min (toInteger r neg n e) hi))⟩⟩
  | .frnd g f m d a => some <| flt1 g f d a (FVal.integral m)
  | _ => none

/-! ### Packed instructions (R99, R124, R125) -/

/-- Element j of a source, with w bits to an element (R99). -/
def pelem (u : U) (f : FSpec) (l : Nat) (r : Reg) (j : Nat) : FVal :=
  readF f u.ftz ((u.w.getV l r).pay.toNat >>> (f.width * j) % 2 ^ f.width)

/-- A packed result: each element rounded in its own format, tag BITS. -/
def packed (u : U) (f : FSpec) (n : Nat) (v : Nat → FVal) : Word :=
  packWord f n fun j => roundFmt f u.rm u.sat u.ftz (v j)

/-- A packed instruction. -/
def pack (g : Guard) (k : PkFmt) (d : Reg) (srcs : List Reg) (v : U → Nat → Nat → FVal) : LaneForm :=
  ⟨g, d :: srcs, srcs, fun u l => vout d (packed u k.spec (64 / k.spec.width) (v u l))⟩

/-- The packed instructions (R124, R125). -/
def packedForm : Instr → Option LaneForm
  | .padd g k d a b => some <| pack g k d [a, b] fun u l j => (pelem u k.spec l a j).add u.rm (pelem u k.spec l b j)
  | .pmul g k d a b => some <| pack g k d [a, b] fun u l j => (pelem u k.spec l a j).mul (pelem u k.spec l b j)
  | .pfma g k d a b c => some <| pack g k d [a, b, c] fun u l j =>
      ((pelem u k.spec l a j).mul (pelem u k.spec l b j)).add u.rm (pelem u k.spec l c j)
  | .pmax g k d a b => some <| pack g k d [a, b] fun u l j => (pelem u k.spec l a j).max (pelem u k.spec l b j)
  | .pdot g bf d a b c => some ⟨g, [d, a, b, c], [a, b, c], fun u l =>
      let f : FSpec := if bf then .bf16 else .f16
      let p := fun j => (pelem u f l a j).mul (pelem u f l b j)
      vout d (rounded u .f32 (((((fval u .f32 l c).add u.rm (p 0)).add u.rm (p 1)).add u.rm (p 2)).add u.rm (p 3)))⟩
  | .pcvt g src dst d a => some ⟨g, [d, a], [a], fun u l =>
      vout d (packed u dst.spec (min (64 / src.spec.width) (64 / dst.spec.width)) fun j => pelem u src.spec l a j)⟩
  | .qpack g k d a => some ⟨g, regRun d k.regs ++ [a], [a], fun u l =>
      let block := quantizeGX k ((List.range 16).map fun i =>
        let m := l / 16 * 16 + i
        if m ∈ u.acting g then decodeF .f32 ((u.w.getV m a).pay.toNat % 2 ^ 32) else .zero false)
      some ((regRun d k.regs).mapIdx fun i r => .v r ⟨.bits, BitVec.ofNat 64 (block / 2 ^ (64 * i))⟩)⟩
  | .qunpk g k d a => some ⟨g, d :: regRun a k.regs, regRun a k.regs, fun u l =>
      let block := (regRun a k.regs).foldr (fun r acc => (u.w.getV l r).pay.toNat + acc * 2 ^ 64) 0
      vout d ⟨.f32, BitVec.ofNat 64 (roundFmt .f32 .rn false u.ftz (gxValue k block (l % 16)))⟩⟩
  | _ => none

/-! ### Cross-lane instructions (R126 to R130) -/

/-- The lanes that lane numbers count (R127), the first hardware lane of a lane's group, and its number there. -/
def groupWidth (w : Warp) : Nat := if w.legacy then 32 else w.width
def groupBase (w : Warp) (l : Nat) : Nat := if w.legacy then l / 32 * 32 else 0
def groupLane (w : Warp) (l : Nat) : Nat := if w.legacy then l % 32 else l
/-- Whether two lanes exchange (R127). -/
def together (w : Warp) (l m : Nat) : Bool := groupBase w l == groupBase w m

/-- The word of a source lane: NIL where it does not participate (R126). -/
def fromLane (u : U) (g : Guard) (a : Reg) (m : Nat) : Word := if m ∈ u.acting g then u.w.getV m a else .nil

/-- The hardware lane that SHFL reads (R128); x is the operand. -/
def shuffled (w : Warp) (k : ShflK) (l x : Nat) : Nat :=
  let n := groupLane w l
  match k with
  | .idx => groupBase w l + x % groupWidth w % groupWidth w
  | .up => if n < x then l else groupBase w l + (n - x) % groupWidth w
  | .down => if groupWidth w ≤ n + x then l else groupBase w l + (n + x) % groupWidth w
  | .xor => groupBase w l + (n ^^^ (x % groupWidth w)) % groupWidth w

/-- The participating lanes of a lane's group. -/
def peers (u : U) (g : Guard) (l : Nat) : List Nat := (u.acting g).filter fun m => together u.w l m

/-- A reduction over the lanes `span` names (R130): none where the values found call for a lane trap, which the tags that any
participating lane folds decide for all. -/
def reduction (g : Guard) (op : RedOp) (d a : Reg) (span : U → List Nat → Nat → List Nat) : LaneForm :=
  ⟨g, [d, a], [a], fun u l =>
    let folded := fun (m : Nat) => span u (peers u g l) m
    let kind := fun (m : Nat) => foldKind op ((folded m).map fun n => (u.w.getV n a).tag)
    if (peers u g l).all fun m => (kind m).isSome then
      (kind l).bind fun k => (u.fold op k ((folded l).map fun m => u.w.getV m a)).map fun x => [.v d x]
    else none⟩

/-- The cross-lane instructions (R128 to R130). -/
def crossForm : Instr → Option LaneForm
  | .shfl g k imm d a b => some ⟨g, if imm then [d, a] else [d, a, b], if imm then [a] else [a, b], fun u l =>
      vout d (fromLane u g a (shuffled u.w k l (if imm then b.toNat else (u.w.getV l b).pay.toNat % groupWidth u.w)))⟩
  | .shflx d a m => some ⟨.always, [d, a], [a], fun u l => vout d (fromLane u .always a (shuffled u.w .xor l m.toNat))⟩
  | .bcast g d a lane => some ⟨g, [d, a], [a], fun u l =>
      vout d (fromLane u g a (groupBase u.w l + lane.toNat % groupWidth u.w))⟩
  | .matchv g d a => some ⟨g, [d, a], [a], fun u l =>
      vout d (natWord (groupLane u.w (((u.acting g).find? fun m =>
        together u.w l m && eqvWord (u.w.getV m a) (u.w.getV l a)).getD l)))⟩
  | .vote g k d a => match k with
      | .ballot => none
      | .all => some ⟨g, [], [], fun u l => pout d ((peers u g l).all fun m => u.w.getP m a)⟩
      | .any => some ⟨g, [], [], fun u l => pout d ((peers u g l).any fun m => u.w.getP m a)⟩
      | .uni => some ⟨g, [], [], fun u l =>
          pout d (((peers u g l).all fun m => u.w.getP m a) || ((peers u g l).all fun m => !u.w.getP m a))⟩
  | .rdx g op d a => some <| reduction g op d a fun _ ps _ => ps
  | .scan g op excl d a => some <| reduction g op d a fun _ ps l => ps.filter fun m => if excl then m < l else m ≤ l
  | .segrdx g op d a c => some <| reduction g op d a fun u ps l => segmentOf (fun m => u.w.getP m c) ps l
  | _ => none

/-! ### Retired instructions on lane registers (R61, R365) -/

/-- Payload[31:0] of a register. -/
def low32 (u : U) (l : Nat) (r : Reg) : W32 := (u.w.getV l r).pay.extractLsb' 0 32
/-- An instruction on the low halves. -/
def half2 (d a b : Reg) (f : W32 → W32 → W32) : LaneForm :=
  ⟨.always, [d, a, b], [a, b], fun u l => vout d ⟨.int, (f (low32 u l a) (low32 u l b)).signExtend 64⟩⟩

/-- The retired instructions that write lane registers with stated values (R61), and TXSTAT (R238). -/
def retiredForm : Instr → Option LaneForm
  | .iadd32 d a b => some <| half2 d a b (· + ·)
  | .isub32 d a b => some <| half2 d a b (· - ·)
  | .imul32 d a b => some <| half2 d a b (· * ·)
  | .movt d a => some ⟨.always, [d, a], [a], fun u l => vout d ⟨.bits, (u.w.getV l a).pay⟩⟩
  | .ballot32 d a => some ⟨.always, [d, a], [a], fun u l =>
      vout d ⟨.bits, BitVec.ofNat 64 (((u.acting .always).filter fun m => m / 32 == l / 32 && u.w.getV m a == boolWord true).foldl
        (fun n m => n + 2 ^ (m % 32)) 0)⟩⟩
  | .shfl32 d a b => some ⟨.always, [d, a, b], [a, b], fun u l =>
      vout d (fromLane u .always a (l / 32 * 32 + (u.w.getV l b).pay.toNat % 32))⟩
  | .tageq d a b => some ⟨.always, [d, a, b], [a, b], fun u l =>
      vout d (boolWord (decide ((u.w.getV l a).tag = (u.w.getV l b).tag)))⟩
  | .fmad g d a b c => some ⟨g, [d, a, b, c], [a, b, c], fun u l =>
      let v := fun (r : Reg) => decodeF .f32 ((u.w.getV l r).pay.toNat % 2 ^ 32)
      let p := decodeF .f32 (roundFmt .f32 .rn false false ((v a).mul (v b)))
      vout d ⟨.f32, BitVec.ofNat 64 (roundFmt .f32 .rn false false (p.add .rn (v c)))⟩⟩
  | .sqrt64 g d a => some ⟨g, [d, a], [a], fun u l =>
      vout d ⟨.f64, BitVec.ofNat 64 (roundFmt .f64 .rz false false (decodeF .f64 (u.w.getV l a).pay.toNat).sqrt)⟩⟩
  | .xpand g d a => some ⟨g, regRun d 4 ++ regRun a 2, regRun a 2, fun u l =>
      let block := (u.w.getV l a).pay.toNat + (u.w.getV l (a + 1)).pay.toNat * 2 ^ 64
      some ((regRun d 4).mapIdx fun i r => .v r
        (packWord .f16 4 fun j => roundFmt .f16 .rn false false (gxValue .gx6 block (4 * i + j))))⟩
  | .bcastw g d a => some ⟨g, [d, a], [], fun u _ =>
      let x := u.w.getV (lowestLane u.pa.mask) a
      if x.tag = .poison then none else vout d x⟩
  | .txstat g d => some ⟨g, [d], [], fun u l =>
      let depth := match u.w.openTx l with | some x => x.depth | none => 0
      vout d (natWord (depth + u.w.txLines.length * 256))⟩
  | _ => none

/-- Every instruction whose effect is the lane registers and predicates it writes. -/
def laneForm (i : Instr) : Option LaneForm :=
  (integerForm i).or ((moveForm i).or ((genericForm i).or ((floatForm i).or ((packedForm i).or ((crossForm i).or (retiredForm i))))))

/-- The lane registers a lane writes. -/
def written (ws : List LaneWrite) : List Reg := ws.filterMap fun x => match x with | .v r _ => some r | .p _ _ => none
/-- The predicates a lane writes. -/
def writtenP (ws : List LaneWrite) : List Reg := ws.filterMap fun x => match x with | .p r _ => some r | .v _ _ => none

end Sys2Proof.Slice0

open Sys2Proof Sys2Proof.Machine Sys2Proof.Slice0

/-! ## Results of the lane instructions -/

/-- R122: what each typed integer instruction writes, and that it completes for every operand but a divisor of 0. -/
def Sys2Proof.Slice0.IntegerResults : Prop := Completes integerForm

/-- R119: the tag and move instructions. -/
def Sys2Proof.Slice0.MoveResults : Prop := Completes moveForm

/-- R119, R122: what the typed integer, tag and move instructions write, and that they complete, but for a divisor of 0. -/
def Obligations.IntegerAndMoveResults : Prop := Sys2Proof.Slice0.IntegerResults ∧ Sys2Proof.Slice0.MoveResults

/-- R116 to R118, R120, R121: the generic instructions on handled operands, with the range rule of R105. -/
def Obligations.GenericResults : Prop := Completes genericForm

/-- R123: the typed float instructions; the exact result is rounded once under the unit's prefix. -/
def Sys2Proof.Slice0.FloatResults : Prop := Completes floatForm

/-- R124, R125: the packed instructions and the GX blocks. -/
def Sys2Proof.Slice0.PackedResults : Prop := Completes packedForm

/-- R123 to R125: what the typed float, packed and GX block instructions write, and that they complete. The values of FEXP2, FLOG2,
FSIN and FCOS are the model's correctly rounded ones (log entry 13), and QPACK quantizes without flushing (log entry 34). -/
def Obligations.FloatAndPackedResults : Prop := Sys2Proof.Slice0.FloatResults ∧ Sys2Proof.Slice0.PackedResults

/-- R126 to R130: shuffles, votes, MATCH and the reductions; a lane that does not participate reads as NIL. -/
def Sys2Proof.Slice0.CrossLaneResults : Prop := Completes crossForm

/-- R61, R238: the retired lane instructions with stated results, and TXSTAT. The 32-lane groups of R61 in wider warps are the
model's reading (log entry 12). -/
def Sys2Proof.Slice0.RetiredLaneResults : Prop := Completes retiredForm

/-- R61: MMA16, MMA32 and CVTQ8 complete with free products (log entry 12): whatever the values are, the destination registers of
each acting lane, and only they, are written, with the tag the rule gives. -/
def Sys2Proof.Slice0.RetiredFreeProducts : Prop :=
  ∀ (s : State) (u : U) (g : Guard) (d a b : Reg), s.unit? = some u →
    (Reaches u (regRun d 8 ++ (regRun a 2 ++ regRun b 2)) → Clean u (u.acting g) (regRun a 2 ++ regRun b 2) →
      ∃ x : Nat → Nat → W64, exec (.mma16 g d a b) s = .next (u.done { s with tick := s.tick + 1 }
        ((u.acting g).foldl (fun w l => w.writes l ((regRun d 8).mapIdx fun j r => .v r ⟨.f32, x l j &&& 0xFFFFFFFF⟩)) u.w))) ∧
    (Reaches u (regRun d 32 ++ (regRun a 8 ++ regRun b 8)) → Clean u (u.acting g) (regRun a 8 ++ regRun b 8) →
      ∃ x : Nat → Nat → W64, exec (.mma32 g d a b) s = .next (u.done { s with tick := s.tick + 1 }
        ((u.acting g).foldl (fun w l => w.writes l ((regRun d 32).mapIdx fun j r => .v r ⟨.f32, x l j &&& 0xFFFFFFFF⟩)) u.w))) ∧
    (Reaches u [d, a] → Clean u (u.acting g) [a] →
      ∃ x : Nat → W64, exec (.cvtq8 g d a) s = .next (u.done { s with tick := s.tick + 1 }
        ((u.acting g).foldl (fun w l => w.writes l [.v d ⟨.bits, x l⟩]) u.w)))

/-- R61, R126 to R130, R238: what the cross-lane, reduction and retired lane instructions write, and that they complete; the products
of MMA16, MMA32 and CVTQ8 are free (log entry 12). That a lane's result takes its format from the tags that the lane itself folds is the
model's reading (log entry 35), and the sizes of the register groups of MMA16, MMA32 and XPAND are its choice (log entry 110). -/
def Obligations.CrossLaneAndRetiredResults : Prop := Sys2Proof.Slice0.CrossLaneResults ∧ Sys2Proof.Slice0.RetiredLaneResults ∧ Sys2Proof.Slice0.RetiredFreeProducts

/-- The frame of the lane instructions (R37, R119, R122, R123): in a lane that does not act nothing changes; in one that acts only the
registers and predicates it writes; no scalar register, block register, accumulator, scratchpad or special register changes, no
other warp, and no byte of memory; the unit's lanes go on at the next unit. -/
def Obligations.LaneFrame : Prop :=
  ∀ (s : State) (u : U) (i : Instr) (f : LaneForm) (ws : Nat → List LaneWrite),
    s.unit? = some u → i.wf = true → laneForm i = some f → f.Ready u ws →
    ∃ (t : State) (w : Warp), exec i s = .next t ∧ t.warp? u.w.id = some w ∧
      (∀ l r, (l ∈ u.acting f.guard → r ∉ written (ws l)) → w.getV l r = u.w.getV l r) ∧
      (∀ l r, r.toNat < 8 → (l ∈ u.acting f.guard → r ∉ writtenP (ws l)) → w.getP l r = u.w.getP l r) ∧
      (∀ r, w.getS r = u.w.getS r) ∧ w.nbase = u.w.nbase ∧ w.nlim = u.w.nlim ∧ w.txs = u.w.txs ∧ w.recs = u.w.recs ∧
      w = { u.at u.w u.c.next with v := w.v, p := w.p } ∧
      (∀ x ∈ s.warps, x.id ≠ u.w.id → x ∈ t.warps) ∧
      (∀ k, t.mem.byte k = s.mem.byte k) ∧ t = { s with warps := t.warps }

/-! ## Instructions that act once for the split -/

namespace Sys2Proof.Slice0

/-- An instruction that acts once for the executing split (R131): its guard, the lane registers it names, the scalar registers
it reads, and the machine it leaves; none where the rules call for a trap or a wait instead. -/
structure OnceForm where
  guard : Guard
  named : List Reg
  srcs : List Reg
  out : State → U → Option State

/-- Every instruction of a family completes: with an acting lane, names that reach and no POISON source, it leaves the machine
the form says. -/
def CompletesOnce (form : Instr → Option OnceForm) : Prop :=
  ∀ (s t : State) (u : U) (i : Instr) (f : OnceForm),
    s.unit? = some u → i.wf = true → form i = some f → u.acting f.guard ≠ [] → Reaches u f.named → CleanS u f.srcs →
    f.out s u = some t → exec i s = .next t

/-- One scalar register written, and the unit done. -/
def sout (s : State) (u : U) (d : Reg) (x : Word) : Option State := some (u.done s (u.w.setS d x))
/-- The pair sD, sD+1 written with the low and the high half of a mask (R127). -/
def pairOut (s : State) (u : U) (d : Reg) (m : LaneMask) : Option State :=
  some (u.done s ((u.w.setS d ⟨.bits, m.extractLsb' 0 64⟩).setS (d + 1) ⟨.bits, m.extractLsb' 64 64⟩))
/-- One word written to a lane register of each acting lane. -/
def spread (s : State) (u : U) (g : Guard) (d : Reg) (x : Word) : Option State :=
  some (u.done s ((u.acting g).foldl (fun w l => w.setV l d x) u.w))

/-- The scalar instructions and the votes to and from scalar pairs (R129, R131). -/
def scalarForm : Instr → Option OnceForm
  | .smov g d a => some ⟨g, [], [a], fun s u => sout s u d (u.w.getS a)⟩
  | .smovFromLane g d a lane => some ⟨g, [a], [], fun s u =>
      let x := fromLane u g a (lane.toNat % u.w.width)
      if x.tag = .poison then none else sout s u d x⟩
  | .smovToLanes g d a => some ⟨g, [d], [a], fun s u => spread s u g d (u.w.getS a)⟩
  | .salu g op d a b => some ⟨g, [], [a, b], fun s u =>
      let x := (u.w.getS a).pay
      let y := (u.w.getS b).pay
      let arith := fun (z : Int) => if u.sat then clamp64 z else BitVec.ofInt 64 z
      sout s u d (intBits (match op with
        | .add => arith (x.toInt + y.toInt)
        | .sub => arith (x.toInt - y.toInt)
        | .mul => arith (x.toInt * y.toInt)
        | .and => x &&& y
        | .or => x ||| y
        | .xor => x ^^^ y
        | .shl => x <<< low6 y
        | .shr => x >>> low6 y))⟩
  | .scmp g sg cc d a b => some ⟨g, [], [a, b], fun s u =>
      some (u.done s ((u.acting g).foldl (fun w l => w.setP l d (icond sg cc (u.w.getS a).pay (u.w.getS b).pay)) u.w))⟩
  | .vote g .ballot d a => some ⟨g, [], [], fun s u => pairOut s u d (maskOf ((u.acting g).filter fun l => u.w.getP l a))⟩
  | .lanesel g d a => some ⟨g, [], [a, a + 1], fun s u =>
      let m := (u.w.getS (a + 1)).pay ++ (u.w.getS a).pay
      some (u.done s ((u.acting g).foldl (fun w l => w.setP l d (m.getLsbD l)) u.w))⟩
  | .time g d => some ⟨g, [], [], fun s u => sout s u d (intBits (s.guestTime u.t.ctx))⟩
  | .clock g d => some ⟨g, [], [], fun s u => sout s u d (natWord (s.cycles - Table.get 0 s.dev.woke u.t.core))⟩
  | .perf g d n => some ⟨g, [], [], fun s u => sout s u d (intBits (u.w.perf.getD n.toNat 0))⟩
  | _ => none

/-- The value of each special register and the lowest level that reads it (R349). -/
def specialReg (s : State) (u : U) : Nat → Option (Nat × W64)
  | 0x000 => some (0, BitVec.ofNat 64 u.sp.pl)
  | 0x001 => some (0, u.t.htab)
  | 0x002 => some (1, (s.ctx u.t.ctx).ttab)
  | 0x003 => some (1, u.sp.frame.epc)
  | 0x004 => some (1, u.sp.frame.cause)
  | 0x005 => some (1, u.sp.frame.fm0)
  | 0x006 => some (1, u.sp.frame.fm1)
  | 0x007 => some (1, u.sp.frame.tval)
  | 0x008 => some (1, u.sp.frame.estat)
  | 0x009 => some (1, u.sp.tscratch)
  | 0x010 => some (0, u.w.nbase)
  | 0x011 => some (0, u.w.nlim)
  | 0x020 => some (0, (s.ctx u.t.ctx).scopectl)
  | 0x021 => some (0, if (s.ctx u.t.ctx).pauseIncl then 1 else 0)
  | 0x030 => some (0, BitVec.ofNat 64 u.t.core)
  | 0x031 => some (1, BitVec.ofNat 64 (u.t.ctx + 1 + u.t.ctx * 2 ^ 8))
  | 0x032 => some (0, BitVec.ofNat 64 (u.t.serial.toNat + (((s.launch? u.t.launch).map fun l => l.serial.toNat).getD 0) * 2 ^ 32))
  | 0x040 => some (0, identWord)
  | 0x041 => some (0, s.fwrel)
  | 0x042 => some (0, Config.reserveBytes)
  | _ => none

/-- A table or nursery address written: [2:0] and [63:57] as zero. -/
def tableAddr (x : W64) : W64 := x &&& 0x01FFFFFFFFFFFFF8

/-- The frame with one field written from PL1 (R347, R349). -/
def frameWrite (f : TrapFrame) (x : W64) : Nat → Option TrapFrame
  | 0x003 => some { f with epc := x &&& ~~~3 }
  | 0x004 => some { f with cause := x &&& 0x00FF7FFF }
  | 0x005 => some { f with fm0 := x }
  | 0x006 => some { f with fm1 := x }
  | 0x007 => some { f with tval := x }
  | 0x008 => some { f with estat := (f.estat &&& ~~~0xF) ||| (x &&& 0xF) }
  | _ => none

/-- What a SYSWR of a register from PL1 leaves (R349, R351); none for a register no level writes. -/
def specialWrite (s : State) (u : U) (x : W64) : Nat → Option State
  | 0x001 => some (u.skip (s.onTask u.t.id fun t => { t with htab := tableAddr x }))
  | 0x002 => some (u.skip (s.setCtx u.t.ctx { s.ctx u.t.ctx with ttab := tableAddr x }))
  | 0x009 => some (u.done s (u.w.setSplit { u.sp with tscratch := x }))
  | 0x010 => some (u.done s { u.w with nbase := tableAddr x })
  | 0x011 => some (u.done s { u.w with nlim := tableAddr x })
  | 0x020 =>
      let c := s.ctx u.t.ctx
      let c' : Ctx := { c with scopeClamped := c.scopeClamped && !x.getLsbD 4 }
      some (u.skip (s.setCtx u.t.ctx (if u.sp.pl = 1 then c'
        else { c' with scopeLimit := if x.toNat % 8 = 7 then c.scopeLimit else x.toNat % 8, scopeClamp := x.getLsbD 3 })))
  | n => (frameWrite u.sp.frame x n).map fun f => u.done s (u.w.setSplit { u.sp with frame := f })

/-- SYSRD and SYSWR where the level allows them (R349, R351). -/
def systemForm : Instr → Option OnceForm
  | .sysrd g d n => some ⟨g, [], [], fun s u =>
      (specialReg s u n.toNat).bind fun r => if u.sp.pl < r.1 then none else sout s u d (intBits r.2)⟩
  | .syswr g a n => some ⟨g, [], [a], fun s u => if u.sp.pl = 0 then none else specialWrite s u (u.w.getS a).pay n.toNat⟩
  | _ => none

/-- The block-register instructions (R131, R132); a reader where another warp owns the register is not among them. -/
def blockRegForm : Instr → Option OnceForm
  | .brd g toV d a => some ⟨g, if toV then [d] else [], [], fun s u =>
      let x := Table.get .nil u.t.breg a.toNat
      if u.t.owned a && !u.t.owns a u.w.id || x.tag = .poison then none
      else if toV then spread s u g d x else sout s u d x⟩
  | .bwr g d a => some ⟨g, [], [a], fun s u =>
      if u.t.owned d && !u.t.owns d u.w.id then none
      else some (u.skip (s.setTask { u.t with
        breg := Table.put .nil u.t.breg d.toNat (u.w.getS a)
        bpast := Table.put [] u.t.bpast d.toNat (Table.get .nil u.t.breg d.toNat :: Table.get [] u.t.bpast d.toNat)
        owners := if u.t.owned d then u.t.owners else u.t.owners ++ [(d.toNat, u.w.id)] }))⟩
  | _ => none

end Sys2Proof.Slice0

/-- R129, R131, R352, R357: the scalar instructions, VOTE.ballot and LANESEL, and the counters act once for the executing split and
write what the rules give. That CLOCK counts one clock of the model, shared by all cores, since the core woke is the model's choice (log
entry 6). -/
def Obligations.ScalarResults : Prop := CompletesOnce scalarForm

/-- R349, R351: SYSRD reads each special register where the level allows, and SYSWR from PL1 up writes the writable bits of the
register it names, and nothing else. A SYSWR of SCOPECTL from PL1 changes CLAMPED alone, one from PL2 and PL3 LIMIT and CLAMP too. -/
def Sys2Proof.Slice0.SystemRegisterResults : Prop := CompletesOnce systemForm

/-- R349: below the level of its column, and for a register no level writes, SYSRD and SYSWR raise ILLEGAL with KIND 2. -/
def Sys2Proof.Slice0.SystemRegisterLevels : Prop :=
  ∀ (s : State) (u : U) (g : Guard) (r : Reg) (n : BitVec 12) (lv : Nat) (v : W64),
    s.unit? = some u → u.acting g ≠ [] → specialReg s u n.toNat = some (lv, v) →
    (u.sp.pl < lv → exec (.sysrd g r n) s = .next (s.raise u (mkTrap 16 2 u.pa.mask 0))) ∧
    (u.sp.pl = 0 ∨ n.toNat ∈ [0x000, 0x021, 0x030, 0x031, 0x032, 0x040, 0x041, 0x042] →
      exec (.syswr g r n) s = .next (s.raise u (mkTrap 16 2 u.pa.mask 0)))

/-- R349, R351: SYSRD and SYSWR of every special register at every level. Model's choices: log entries 19, 68. -/
def Obligations.SystemRegisters : Prop := Sys2Proof.Slice0.SystemRegisterResults ∧ Sys2Proof.Slice0.SystemRegisterLevels

/-- R131, R132: BWR makes the writer the owner, BRD reads the last value where no other warp owns the register. -/
def Sys2Proof.Slice0.BlockRegisterResults : Prop := CompletesOnce blockRegForm

/-- R132: BRD by a warp that does not own an owned register reads a value that held since the last barrier or the last written (the
choice is free); BWR by another warp raises BREG_CONFLICT and writes nothing. -/
def Sys2Proof.Slice0.SingleWriter : Prop :=
  ∀ (s : State) (u : U) (g : Guard) (d a : Reg), s.unit? = some u → u.acting g ≠ [] →
    (u.t.owned a = true → u.t.owns a u.w.id = false →
      (∀ x ∈ Table.get .nil u.t.breg a.toNat :: Table.get [] u.t.bpast a.toNat, x.tag ≠ .poison) →
      ∃ x ∈ Table.get .nil u.t.breg a.toNat :: Table.get [] u.t.bpast a.toNat, ∃ n,
        exec (.brd g false d a) s = .next (u.done { s with tick := s.tick + n } (u.w.setS d x))) ∧
    (u.t.owned a = true → u.t.owns a u.w.id = false → (regIndex u.w.nregs d).isSome = true →
      (∀ x ∈ Table.get .nil u.t.breg a.toNat :: Table.get [] u.t.bpast a.toNat, x.tag ≠ .poison) →
      ∃ x ∈ Table.get .nil u.t.breg a.toNat :: Table.get [] u.t.bpast a.toNat, ∃ n,
        exec (.brd g true d a) s = .next (u.done { s with tick := s.tick + n }
          ((u.acting g).foldl (fun w l => w.setV l d x) u.w))) ∧
    (u.t.owned d = true → u.t.owns d u.w.id = false → CleanS u [a] →
      exec (.bwr g d a) s = .next (s.raise u (mkTrap 22 0 u.pa.mask (d.setWidth 64))))

/-- R131, R132: BRD and BWR, with and without another owner. Model's choices: log entry 36. -/
def Obligations.BlockRegisters : Prop := Sys2Proof.Slice0.BlockRegisterResults ∧ Sys2Proof.Slice0.SingleWriter

/-! ## Memory -/

namespace Sys2Proof.Slice0

/-- A load, store or header instruction: the lane registers it names and reads, its scalar base, the default hint of its store
(R216), and what an acting lane comes to. -/
structure MemForm where
  guard : Guard
  dest : Reg
  named : List Reg
  srcs : List Reg
  scal : List Reg
  hint : Nat
  lane : State → U → Nat → LaneRes LaneMem

/-- The loads (R219, R221 to R224, R61). -/
def loadForm : Instr → Option MemForm
  | .ld g ty d base imm => some ⟨g, d, d :: baseV base, baseV base, baseS base, 0, fun s u l => u.loadLane s ty l (u.w.baseAddr base imm l)⟩
  | .ldx g ty d a b sh => some ⟨g, d, [d, a, b], [a, b], [], 0, fun s u l =>
      u.loadLane s ty l ((u.w.getV l a).pay + ((u.w.getV l b).pay <<< sh.toNat))⟩
  | .ldinv g ty d base imm => some ⟨g, d, d :: baseV base, baseV base, baseS base, 0, fun s u l => u.loadInvLane s ty l (u.w.baseAddr base imm l)⟩
  | .ldref g d base imm | .ldbar g d base imm => some ⟨g, d, d :: baseV base, baseV base, baseS base, 0, fun s u l =>
      u.ldrefLane s l (u.w.baseAddr base imm l)⟩
  | .ldf g d a idx => some ⟨g, d, [d, a], [a], [], 0, fun s u l => u.ldfLane s idx l (u.w.getV l a)⟩
  | .hdrld g d a => some ⟨g, d, [d, a], [a], [], 0, fun s u l => u.hdrldLane s l (u.w.getV l a)⟩
  | .ldg32 g d base imm => some ⟨g, d, d :: baseV base, baseV base, baseS base, 0, fun s u l => u.loadLane s .z4 l (u.w.baseAddr base imm l)⟩
  | _ => none

/-- The stores whose writes wait in flight (R218, R219, R61). -/
def storeForm : Instr → Option MemForm
  | .st g ty d base imm => some ⟨g, d, d :: baseV base, d :: baseV base, baseS base, 1, fun s u l =>
      u.storeLane s ty (u.w.getV l d) (u.w.baseAddr base imm l)⟩
  | .stg32 g d base imm => some ⟨g, d, d :: baseV base, d :: baseV base, baseS base, 1, fun s u l =>
      u.storeLane s .i4 (u.w.getV l d) (u.w.baseAddr base imm l)⟩
  | .gcmark g a => some ⟨g, a, [a], [a], [], 4, fun s u l => u.gcmarkLane s l (u.w.getV l a)⟩
  | _ => none

/-- No line that the core's L1 holds under another context is dirty: filling a line then writes nothing back (R311). -/
def NoForeignDirty (s : State) (u : U) : Prop := ∀ x ∈ s.l1, x.core = u.t.core → x.ctx ≠ u.t.ctx → x.isDirty = false

/-- What the issue of accesses on some paths asks of the split and its core: room in the paths' counters (R193) and in the requests that
the core may have outstanding (R18). -/
def Paced (s : State) (u : U) (paths : List Nat) : Prop := (∀ p ∈ paths, u.sp.count p < 4095) ∧ s.requests u.t.core < 2048

/-- The tag pool holds the tags of every page that some lanes touch (R308). -/
def PoolHolds (s : State) (u : U) (ts : List Touch) : Prop := s.overPool u.t.ctx (ts.map fun t => t.tr) = none

/-- The order of issue is open to a memory instruction: outside any transaction, with an acting lane, names that reach and no POISON. -/
structure MemForm.Named (f : MemForm) (s : State) (u : U) (path : Nat) : Prop where
  plain : u.w.txs = []
  room : Paced s u [path]
  some_ : u.acting f.guard ≠ []
  reach : Reaches u f.named
  clean : Clean u (u.acting f.guard) f.srcs
  cleanS : CleanS u f.scal

/-- What a memory instruction needs to complete in plain code: besides, every acting lane past its checks (R215) with the outcome `m`, and
room in the tag pool. -/
structure MemForm.Ready (f : MemForm) (s : State) (u : U) (path : Nat) (m : Nat → LaneMem) : Prop extends f.Named s u path where
  l1 : NoForeignDirty s u
  lanes : ∀ l ∈ u.acting f.guard, f.lane s u l = .ok (m l)
  pool : PoolHolds s u ((u.acting f.guard).flatMap fun l => (m l).touches)

/-- The registers that the loaded words will reach, with the generations of their warp-registers (R268). -/
def destsOf (s : State) (u : U) (d : Reg) (ls : List Nat) (x : Nat → Option Word) : List RegWrite :=
  ls.flatMap fun l => match x l, regIndex u.w.nregs d with
    | some w, some k => [⟨u.w.id, l, k, w, (s.regTag u.t.core u.w l k).1, (s.regTag u.t.core u.w l k).2⟩]
    | _, _ => []

/-- The accesses in flight of the executing split. -/
def mineAhead (u : U) : List Nat := u.sp.acc.map fun a => a.id

/-- The guest-physical pages that some lanes' accesses write (R369). -/
def pagesOf (m : Nat → LaneMem) (ls : List Nat) : List Nat :=
  distinct (ls.flatMap fun l => ((m l).touches.filter fun t => t.write).map fun t => t.tr.gpa / 65536)

/-- The atomics in flight, but for what they have read: that does not outlive another store to the place (R182). -/
def atomsBut (s : State) : List PendAtom := s.atoms.map fun p => { p with items := p.items.map fun x => { x with seen := none } }

/-- The stored bytes of an item. -/
def itemByte (it : StoreItem) (a : Nat) : Byte := it.data.extractLsb' (8 * (a - it.key)) 8
/-- Whether an item covers an address. -/
def covers (it : StoreItem) (a : Nat) : Prop := it.key ≤ a ∧ a < it.key + it.size
/-- A store item as ST makes one: 1, 2, 4 or 8 bytes in an aligned place, of an unpoisoned source. -/
def PlainItem (it : StoreItem) : Prop :=
  (it.size = 1 ∨ it.size = 2 ∨ it.size = 4 ∨ it.size = 8) ∧ it.key % it.size = 0 ∧ it.poison = false

/-- What the home of a line holds once the line has been written back: its dirty bytes with their tags, and every other byte as before. A
part of a word that is POISON at the home is dropped (R218). -/
def WrittenBack (s t : State) (x : L1Line) : Prop :=
  ∀ i < 128, let a := x.line * 128 + i
    (x.dirty.getLsbD i = false → t.mem.byte a = s.mem.byte a) ∧
    (x.dirty.getLsbD i = true →
      s.mem.tag a ≠ .poison ∨ x.data.tag a = .poison ∨ (∀ j < 8, x.dirty.getLsbD (i / 8 * 8 + j) = true) →
      t.mem.byte a = x.data.byte a ∧ t.mem.tag a = x.data.tag a)

/-- A line that only one entry of the L1s holds. -/
def OnlyCopy (s : State) (x : L1Line) : Prop := x ∈ s.l1 ∧ ∀ y ∈ s.l1, y.line = x.line → y = x

/-- The word that a load of a type writes where no poison is met (R217): tagged pages first. -/
def loadWordOf (m : Mem) (tagged : Bool) (k : Nat) (ty : MemTy) : Word :=
  let b := fun n => m.read k n
  match ty with
  | .w => if tagged then mkWord (m.tag k) (BitVec.ofNat 64 (m.read (k / 8 * 8) 8)) else ⟨.bits, BitVec.ofNat 64 (b 8)⟩
  | .i1 => ⟨.int, (BitVec.ofNat 8 (b 1)).signExtend 64⟩
  | .i2 => ⟨.int, (BitVec.ofNat 16 (b 2)).signExtend 64⟩
  | .i4 => ⟨.int, (BitVec.ofNat 32 (b 4)).signExtend 64⟩
  | .i8 => ⟨.int, BitVec.ofNat 64 (b 8)⟩
  | .z1 => ⟨.int, BitVec.ofNat 64 (b 1)⟩
  | .z2 => ⟨.int, BitVec.ofNat 64 (b 2)⟩
  | .z4 => ⟨.int, BitVec.ofNat 64 (b 4)⟩
  | .f2 => ⟨.f16, BitVec.ofNat 64 (b 2)⟩
  | .f4 => ⟨.f32, BitVec.ofNat 64 (b 4)⟩
  | .f8 => ⟨.f64, BitVec.ofNat 64 (b 8)⟩
  | .bf => ⟨.bf16, BitVec.ofNat 64 (b 2)⟩
  | .bits => ⟨.bits, BitVec.ofNat 64 (b 8)⟩

/-- The tag ST leaves in a word of a tagged page (R218). -/
def leftTag (ty : MemTy) (x : Word) : Tag :=
  match ty with
  | .w => x.tag
  | .i8 => .int
  | .f8 => .f64
  | _ => .bits

/-- A lane of LDS or STS that no DRAIN in flight of its split holds back. -/
def windowLane (s : State) (u : U) (ty : MemTy) (va : W64) (t : Task) (o : Nat) : Prop :=
  va.toNat % memBytes ty = 0 ∧ s.window u.t va (memBytes ty) = some (t, o) ∧ u.ownPad s va = false

/-- A tag that code at PL0 may not store (R85). -/
def guarded (t : Tag) : Prop := t = .hdr ∨ t = .hdrc ∨ t = .fwd

/-- The lane fault of an address that is not a multiple of the access size (R215). -/
def misaligned (va : W64) : LaneStop := .fault ⟨3, 20, 0, va, false, 0⟩

end Sys2Proof.Slice0

/-- R193, R217, R219, R221 to R224: a load completes as a unit at once: its values are sampled, one access of path 0 is in flight, and
its registers wait for LOAD_COMPLETE. No byte of memory, no store in flight, no task and no register changes. Model's choices: log entries 25, 104. -/
def Obligations.LoadsIssue : Prop :=
  ∀ (s : State) (u : U) (i : Instr) (f : MemForm) (m : Nat → LaneMem),
    s.unit? = some u → i.wf = true → loadForm i = some f → ScopeOk s u → f.Ready s u 0 m →
    ∃ (t : State) (p : List W64),
      exec i s = .next (u.done t { u.addAcc u.w s.nextId 0 with perf := p }) ∧
      t = { s with
        loads := s.loads ++ [⟨s.nextId, u.t.core, u.t.ctx, destsOf s u f.dest (u.acting f.guard) fun l => (m l).word, u.t.pri,
          u.sentLines s ((u.acting f.guard).flatMap fun l => (m l).touches)⟩]
        nextId := s.nextId + 1
        tick := t.tick
        l1 := t.l1
        l2 := t.l2
        hdrs := t.hdrs
        tlb := t.tlb
        parts := t.parts }

/-- R90, R217, R221: the word of a plain load. A POISON word of a tagged page is loaded with its origin, and a raw line marked poisoned
gives origin 3; a REF passes the read barrier, whose faults are the load's; every other word is as the table of R217 gives. A load that
must see an atomic or a DRAIN in flight of its split waits (log entry 25). -/
def Sys2Proof.Slice0.LoadValues : Prop :=
  ∀ (s : State) (u : U) (ty : MemTy) (l : Nat) (va : W64) (tr : Trans) (k : Nat),
    va.toNat % memBytes ty = 0 → s.translate u.t.ctx u.sp.pl .read va = .ok (tr, k) →
    let m := u.laneView s l k
    let x := loadWordOf m tr.tagged k ty
    let t : Touch := ⟨va, tr, k, memBytes ty, false, false, none⟩
    (u.ownAhead s k = true → u.loadLane s ty l va = .error .hold) ∧
    (u.ownAhead s k = false →
      (tr.tagged = true → m.tag k ≠ .poison → x.tag ≠ .ref → u.loadLane s ty l va = .ok ⟨some x, [t], []⟩) ∧
      (tr.tagged = true → m.tag k ≠ .poison → x.tag = .ref →
        (∀ y ts, u.barrier s l x = .ok (y, ts) → u.loadLane s ty l va = .ok ⟨some y, t :: ts, []⟩) ∧
        (∀ e, u.barrier s l x = .error e → u.loadLane s ty l va = .error e)) ∧
      (tr.tagged = true → m.tag k = .poison →
        u.loadLane s ty l va = .ok ⟨some ⟨.poison, BitVec.ofNat 64 (m.read (k / 8 * 8) 8) &&& 0xF⟩, [t], []⟩) ∧
      (tr.tagged = false → m.marked k = false → u.loadLane s ty l va = .ok ⟨some x, [t], []⟩) ∧
      (tr.tagged = false → m.marked k = true → u.loadLane s ty l va = .ok ⟨some ⟨.poison, 3⟩, [t], []⟩))

/-- R221: what the read barrier makes of a loaded REF, by the header it finds. -/
def Sys2Proof.Slice0.ReadBarrier : Prop :=
  ∀ (s : State) (u : U) (l : Nat) (o : W64) (h : Word) (t : Touch), u.readHeader s l o = .ok (h, t) →
    (h.tag = .hdr ∨ h.tag = .hdrc → u.barrier s l ⟨.ref, o⟩ = .ok (⟨.ref, o⟩, [t])) ∧
    (h.tag = .poison → u.barrier s l ⟨.ref, o⟩ = .ok (⟨.poison, 2⟩, [t])) ∧
    (h.tag ∉ [Tag.hdr, .hdrc, .poison, .fwd] → u.barrier s l ⟨.ref, o⟩ = .error (.fault ⟨5, 19, 8, o, false, 0⟩)) ∧
    (h.tag = .fwd → ∀ (h2 : Word) (t2 : Touch), u.readHeader s l h.pay = .ok (h2, t2) →
      (h2.tag = .hdr ∨ h2.tag = .hdrc → u.barrier s l ⟨.ref, o⟩ = .ok (⟨.ref, h.pay⟩, [t, t2])) ∧
      (h2.tag = .poison → u.barrier s l ⟨.ref, o⟩ = .ok (⟨.poison, 2⟩, [t, t2])) ∧
      (h2.tag = .fwd → u.barrier s l ⟨.ref, o⟩ = .error (.fault ⟨5, 19, 3, h.pay, false, 0⟩)) ∧
      (h2.tag ∉ [Tag.hdr, .hdrc, .poison, .fwd] → u.barrier s l ⟨.ref, o⟩ = .error (.fault ⟨5, 19, 8, h.pay, false, 0⟩)))

/-- R215, R223, R224: LDF, STF and HDRLD trap with TAG_CHECK on a base that is no REF; LDF and STF on an index outside 1 to SIZE − 1 of the
header they find; a POISON header makes LDF write POISON with origin 2 and STF drop its write; one that is no header raises MEM_FAULT with
KIND 8; HDRLD returns the header as it is stored. An STF at PL0 of a word that R85 guards raises TAG_PRIV before any lane trap. -/
def Sys2Proof.Slice0.FieldChecks : Prop :=
  ∀ (s : State) (u : U) (l : Nat) (idx : BitVec 24) (x y : Word),
    let deny := fun (r : LaneRes LaneMem) => if u.sp.pl = 0 ∧ y.tag ∈ [Tag.hdr, .hdrc, .fwd] then .error (.fault ⟨6, 21, 0, 0, false, 0⟩) else r
    (x.tag ≠ .ref →
      u.ldfLane s idx l x = .error (refCheck x) ∧ u.stfLane s idx l x y = deny (.error (refCheck x)) ∧
      u.hdrldLane s l x = .error (refCheck x)) ∧
    (x.tag = .ref → ∀ (h : Word) (t : Touch), u.readHeader s l x.pay = .ok (h, t) →
      u.hdrldLane s l x = .ok ⟨some h, [t], []⟩ ∧
      (h.tag = .poison →
        u.ldfLane s idx l x = .ok ⟨some ⟨.poison, 2⟩, [t], []⟩ ∧ u.stfLane s idx l x y = deny (.ok ⟨none, [t], []⟩)) ∧
      (h.tag ∉ [Tag.hdr, .hdrc, .poison, .fwd] →
        u.ldfLane s idx l x = .error (.fault ⟨5, 19, 8, x.pay, false, 0⟩) ∧
        u.stfLane s idx l x y = .error (.fault ⟨5, 19, 8, x.pay, false, 0⟩)) ∧
      (h.tag = .hdr → idx.toInt < 1 ∨ ((h.pay.extractLsb' 16 24).toNat : Int) - 1 < idx.toInt →
        u.ldfLane s idx l x = .error (refCheck x) ∧ u.stfLane s idx l x y = deny (.error (refCheck x))) ∧
      (h.tag = .hdrc → u.stfLane s idx l x y = deny (.error .hold)))

/-- An index that the header found admits (R223). -/
def Sys2Proof.Slice0.FieldOf (h : Word) (idx : BitVec 24) : Prop :=
  (h.tag = .hdr ∨ h.tag = .hdrc) ∧ 1 ≤ idx.toInt ∧ idx.toInt ≤ ((h.pay.extractLsb' 16 24).toNat : Int) - 1

/-- R206, R222, R223, R61: where LDF, STF, LDREF and GCMARK find what they ask for: the address of the field, the word loaded or stored
and the places touched. A header FWD sends LDF and STF once to the new copy, whose field is then read at its home. -/
def Sys2Proof.Slice0.FieldWords : Prop :=
  ∀ (s : State) (u : U) (l : Nat) (idx : BitVec 24) (x y h : Word) (t : Touch), x.tag = .ref → u.readHeader s l x.pay = .ok (h, t) →
    (FieldOf h idx →
      let va := x.pay + (idx.signExtend 64 <<< 3)
      (∀ r, u.loadLane s .w l va = .ok r → u.ldfLane s idx l x = .ok { r with touches := t :: r.touches }) ∧
      (∀ e, u.loadLane s .w l va = .error e → u.ldfLane s idx l x = .error e) ∧
      (h.tag = .hdr → u.sp.pl ≠ 0 ∨ ¬guarded y.tag → ∀ (tr : Trans) (k : Nat), va.toNat % 8 = 0 →
        s.translate u.t.ctx u.sp.pl .write va = .ok (tr, k) → u.ownAhead s k = false → s.ownStoreAhead u k = false →
        u.stfLane s idx l x y = .ok ⟨none, [t, ⟨va, tr, k, 8, true, false, none⟩],
          [⟨k, 8, y.pay, if tr.tagged = true then some y.tag else none, false⟩]⟩)) ∧
    (h.tag = .fwd → ∀ (h2 : Word) (t2 : Touch), u.readHeader s l h.pay = .ok (h2, t2) → FieldOf h2 idx →
      let va := h.pay + (idx.signExtend 64 <<< 3)
      ∀ (tr : Trans) (k : Nat), va.toNat % 8 = 0 → u.ownAhead s k = false →
        (s.translate u.t.ctx u.sp.pl .read va = .ok (tr, k) → tr.tagged = true →
          let w := loadWordOf (u.headerView s l k) true k .w
          w.tag ≠ .ref → u.ldfLane s idx l x = .ok ⟨some w, [t, t2, ⟨va, tr, k, 8, false, true, none⟩], []⟩) ∧
        (h2.tag = .hdr → u.sp.pl ≠ 0 ∨ ¬guarded y.tag → s.translate u.t.ctx u.sp.pl .write va = .ok (tr, k) →
          s.ownStoreAhead u k = false →
          u.stfLane s idx l x y = .ok ⟨none, [t, t2, ⟨va, tr, k, 8, true, false, none⟩],
            [⟨k, 8, y.pay, if tr.tagged = true then some y.tag else none, false⟩]⟩)) ∧
    (h.tag = .hdr ∨ h.tag = .hdrc → ∀ (tw : Touch), s.reach u .write x.pay 8 = .ok tw →
      u.gcmarkLane s l x = .ok ⟨none, [t, tw], [⟨tw.key, 8, h.pay ||| (1 <<< 40), some h.tag, false⟩]⟩)

/-- R222: LDREF gives NIL and POISON as they are, passes a REF through the read barrier and raises TAG_CHECK for any other word. -/
def Sys2Proof.Slice0.ReferenceLoads : Prop :=
  ∀ (s : State) (u : U) (l : Nat) (va : W64) (tr : Trans) (k : Nat),
    va.toNat % 8 = 0 → s.translate u.t.ctx u.sp.pl .read va = .ok (tr, k) → tr.tagged = true → u.ownAhead s k = false →
    let w := loadWordOf (u.laneView s l k) true k .w
    let t : Touch := ⟨va, tr, k, 8, false, false, none⟩
    (w.tag = .nil ∨ w.tag = .poison → u.ldrefLane s l va = .ok ⟨some w, [t], []⟩) ∧
    (w.tag = .ref → ∀ y ts, u.barrier s l w = .ok (y, ts) → u.ldrefLane s l va = .ok ⟨some y, t :: ts, []⟩) ∧
    (w.tag ∉ [Tag.nil, .poison, .ref] → u.ldrefLane s l va = .error (refCheck w))

/-- R61, R206, R215, R221 to R224: the read barrier, and the checks, addresses and words of LDREF, LDF, STF, HDRLD and GCMARK. Model's
choices: log entries 42, 70, 97. -/
def Obligations.ReferenceChecks : Prop :=
  Sys2Proof.Slice0.ReadBarrier ∧ Sys2Proof.Slice0.FieldChecks ∧ Sys2Proof.Slice0.FieldWords ∧ Sys2Proof.Slice0.ReferenceLoads

/-- R193: LOAD_COMPLETE writes each sampled word to its register, takes the load out of flight, and touches no byte of memory; a register
granted anew since is not written (R268). -/
def Sys2Proof.Slice0.LoadComplete : Prop :=
  ∀ (s : State) (id : Nat) (marked : Bool) (p : PendLoad), s.loads.find? (fun x => x.id == id) = some p →
    ∃ t, exec (.loadComplete id marked) s = .next t ∧ t.mem = s.mem ∧ t.l1 = s.l1 ∧ t.tasks = s.tasks ∧ t.stores = s.stores ∧
      t.loads = s.loads.filter (fun x => x.id != id) ∧
      (∀ n w, s.warp? n = some w → ∃ w2, t.warp? n = some w2 ∧ w2.p = w.p ∧ w2.s = w.s ∧
        w2.v = (p.dests.filter fun d => d.warp == n && Table.get 0 s.regGen d.row == d.gen).foldl
          (fun v d => Table.put .nil v (d.lane * 256 + d.reg) d.word) w.v)

/-- R90, R193, R217, R221: the words of plain loads, and their completion. Model's choices: log entries 25, 103. -/
def Obligations.LoadedValues : Prop := Sys2Proof.Slice0.LoadValues ∧ Sys2Proof.Slice0.LoadComplete

namespace Sys2Proof.Slice0

/-- What a store comes to at issue, from a state `s0` and with a hint: one access of path 3 with its items, in program order where no two
overlap and in any order where some do (R178); those of a speculative task stay with the task, and its lines fill open ways (R314). -/
def StoreIssued (s0 : State) (u : U) (items : List StoreItem) (pages : List Nat) (hint : Nat) (r : Host.Outcome State Fault Refusal) : Prop :=
  ∃ (t v : State) (p : List W64) (its : List StoreItem),
    its.Perm items ∧ (collide items = false → its = items) ∧ r = .next (u.done t { u.addAcc u.w s0.nextId 3 with perf := p }) ∧
    v.tasks = s0.tasks ∧ v.classes = s0.classes ∧
    t = { s0 with
      stores := s0.stores ++ [⟨s0.nextId, u.w.id, u.t.id, u.t.core, u.t.ctx, hint,
        if u.t.spec = .running then [] else its, if u.t.spec = .running then [] else pages, mineAhead u, s0.nowNs⟩]
      tasks := if u.t.spec = .running ∧ items ≠ [] then s0.tasks.map fun x => if x.id = u.t.id then
          { x with specStores := x.specStores ++ its, specPages := distinct (x.specPages ++ pages), ways := v.fillWays x its } else x
        else s0.tasks
      nextId := s0.nextId + 1
      tick := t.tick
      l1 := t.l1
      l2 := t.l2
      hdrs := t.hdrs
      tlb := t.tlb
      parts := t.parts }

/-- A context in which a wider scope has been clamped (R191). -/
def clampedCtx (s : State) (u : U) : State := s.setCtx u.t.ctx { s.ctx u.t.ctx with scopeClamped := true }

end Sys2Proof.Slice0

/-- R21, R191, R193, R208, R216, R218: ST, STG32 and GCMARK put one access of path 3 in flight with its hint and its items, those of a speculative
task with the task; a speculative task for whose lines the L2 sets have no room stalls. A hint wider than LIMIT is clamped to it, and CLAMPED set,
where CLAMP is 1. The order of items that overlap is a free choice (R178). No byte of memory and no register changes yet. Model's choices: log
entries 40, 70, 104. -/
def Obligations.StoresIssue : Prop :=
  ∀ (s : State) (u : U) (i : Instr) (f : MemForm) (m : Nat → LaneMem),
    s.unit? = some u → i.wf = true → storeForm i = some f →
    let items := (u.acting f.guard).flatMap fun l => (m l).items
    let pages := pagesOf m (u.acting f.guard)
    (ScopeOk s u → f.Ready s u 3 m →
      (u.specRoom s items = false → exec i s = .next (u.hold s)) ∧
      (u.specRoom s items = true → StoreIssued s u items pages (hintOf u f.hint) (exec i s))) ∧
    (∀ sc pol, u.c.place = some (sc, pol) → (s.ctx u.t.ctx).scopeLimit < sc → (s.ctx u.t.ctx).scopeClamp = true →
      f.Ready (clampedCtx s u) u 3 m → u.specRoom (clampedCtx s u) items = true →
      StoreIssued (clampedCtx s u) u items pages (s.ctx u.t.ctx).scopeLimit (exec i s))

/-- R85, R218: what a lane of ST stores, the tag it leaves on a tagged page, and TAG_PRIV for a header or FWD word stored at PL0. -/
def Sys2Proof.Slice0.StoreItems : Prop :=
  ∀ (s : State) (u : U) (ty : MemTy) (x : Word) (va : W64) (tr : Trans) (k : Nat),
    va.toNat % memBytes ty = 0 → s.translate u.t.ctx u.sp.pl .write va = .ok (tr, k) →
    (u.sp.pl = 0 → guarded x.tag → u.storeLane s ty x va = .error (.fault ⟨6, 21, 0, 0, false, 0⟩)) ∧
    (u.sp.pl ≠ 0 ∨ ¬guarded x.tag → u.storeLane s ty x va = .ok ⟨none, [⟨va, tr, k, memBytes ty, true, false, none⟩],
      [⟨k, memBytes ty, x.pay, if tr.tagged = true then some (leftTag ty x) else none, false⟩]⟩)

/-- R215: a lane's ALIGN, and the faults of its translation with their KINDs, in the order of the rule. -/
def Sys2Proof.Slice0.LaneAccess : Prop :=
  ∀ (s : State) (u : U) (k : AccKind) (va : W64) (size : Nat),
    (va.toNat % size ≠ 0 → s.reach u k va size = .error (misaligned va)) ∧
    (va.toNat % size = 0 →
      (2 ^ 57 ≤ va.toNat → s.reach u k va size = .error (.fault ⟨5, 19, 2, va, k == .write, 0⟩)) ∧
      (∀ n, s.translate u.t.ctx u.sp.pl k va = .error (.stage1 n) → s.reach u k va size = .error (.fault ⟨5, 19, n, va, k == .write, 0⟩)) ∧
      (∀ g, s.translate u.t.ctx u.sp.pl k va = .error (.stage2 g) → s.reach u k va size = .error (.stage2 g (if k = .write then 1 else 0) va)) ∧
      (∀ tr key, s.translate u.t.ctx u.sp.pl k va = .ok (tr, key) → s.reach u k va size = .ok ⟨va, tr, key, size, k == .write, false, none⟩)) ∧
    (∀ ty l e, s.reach u .read va (memBytes ty) = .error e → u.loadLane s ty l va = .error e) ∧
    (∀ ty x e, s.reach u .write va (memBytes ty) = .error e → u.storeLane s ty x va = .error e)

/-- R115, R191, R215: SCOPE_DENIED of a load or store whose hint exceeds LIMIT where it is not clamped; else the first kind that any lane
raises decides the trap, whose mask names the lanes that raise that kind and whose value is that of the lowest of them, and no lane takes
effect. -/
def Sys2Proof.Slice0.AccessTraps : Prop :=
  ∀ (s : State) (u : U) (i : Instr) (f : MemForm) (path : Nat),
    s.unit? = some u → i.wf = true → loadForm i = some f ∧ path = 0 ∨ storeForm i = some f ∧ path = 3 → f.Named s u path →
    (∀ sc pol, u.c.place = some (sc, pol) → (s.ctx u.t.ctx).scopeLimit < sc → (s.ctx u.t.ctx).scopeClamp = false →
      exec i s = .next (s.raise u (mkTrap 24 0 u.pa.mask (BitVec.ofNat 64 sc)))) ∧
    (ScopeOk s u → ∀ (l0 : Nat) (x0 : LaneFault), l0 ∈ u.acting f.guard → f.lane s u l0 = .error (.fault x0) →
      (∀ l ∈ u.acting f.guard, ∀ x, f.lane s u l = .error (.fault x) → x0.rank < x.rank ∨ x0.rank = x.rank ∧ l0 ≤ l) →
      exec i s = .next (s.raise u ⟨x0.code, x0.kind, false, x0.write, false, 0,
        maskOf ((u.acting f.guard).filter fun l => match f.lane s u l with | .error (.fault x) => x.rank == x0.rank | _ => false), x0.tval⟩))

/-- R218: a store performed: the bytes it covers take the data and every other byte stays; on a tagged page a whole word takes its
tag and a part leaves BITS; a part of a POISON word is dropped; the marks of raw lines stay. -/
def Sys2Proof.Slice0.StoredBytes : Prop :=
  ∀ (m : Mem) (it : StoreItem), m.wf = true → PlainItem it →
    (it.tag = none ∨ it.size = 8 ∨ m.tag it.key ≠ .poison →
      (∀ a, covers it a → (m.store it).byte a = itemByte it a) ∧
      (∀ a, ¬covers it a → (m.store it).byte a = m.byte a) ∧
      (∀ a, (m.store it).tag a = match it.tag with
        | none => m.tag a
        | some g => if a / 8 = it.key / 8 then (if it.size = 8 then g else .bits) else m.tag a)) ∧
    (it.tag ≠ none → it.size ≠ 8 → m.tag it.key = .poison → m.store it = m) ∧
    (∀ a, (m.store it).marked a = m.marked a) ∧ (m.store it).wf = true

/-- R85, R115, R191, R215, R218: what ST stores, the traps of loads and stores with a lane's address, and what a store performed leaves.
Model's choices: log entries 33, 43. -/
def Obligations.StoreContents : Prop :=
  Sys2Proof.Slice0.StoreItems ∧ Sys2Proof.Slice0.LaneAccess ∧ Sys2Proof.Slice0.AccessTraps ∧ Sys2Proof.Slice0.StoredBytes

/-- R193, R200: STORE_PERFORMED performs a store at its home when its hint is wider than BLOCK or its page is not device memory, and the
core's L1 holds no line of it: the home then holds the items' bytes, and every other byte is as it was. -/
def Sys2Proof.Slice0.StorePerformedAtHome : Prop :=
  ∀ (s : State) (id : Nat) (p : PendStore),
    s.stores.find? (fun x => x.id == id) = some p → s.behind id = false → (s.ctx p.ctx).dirtyEn = false →
    (∀ it ∈ p.items, 2 ≤ p.hint ∨ isDeviceKey it.key = false) →
    (∀ x ∈ s.l1, x.core = p.core → ∀ it ∈ p.items, x.line ≠ it.key / 128) →
    ∃ t, exec (.storePerformed id) s = .next t ∧ t.mem = p.items.foldl Mem.store s.mem ∧ t.l1 = s.l1 ∧
      t.stores = s.stores.filter (fun x => x.id != id) ∧ t.loads = s.loads ∧ t.tasks = s.tasks ∧
      (s.mem.wf = true → (∀ it ∈ p.items, PlainItem it) → ∀ a, (∀ it ∈ p.items, ¬covers it a) → t.mem.byte a = s.mem.byte a)

/-- R183, R193: STORE_PERFORMED with a hint of SPLIT or BLOCK on device memory performs a store in the core's L1, where the core's loads
read it; a home byte it does not cover keeps its value where the L1 holds no dirty line. The line may be written back at once (log
entry 21). -/
def Sys2Proof.Slice0.StorePerformedInL1 : Prop :=
  ∀ (s : State) (id : Nat) (p : PendStore) (it : StoreItem),
    s.stores.find? (fun x => x.id == id) = some p → s.behind id = false → (s.ctx p.ctx).dirtyEn = false →
    p.items = [it] → PlainItem it → it.tag = none → p.hint ≤ 1 → isDeviceKey it.key = true → s.mem.wf = true →
    (∀ x ∈ s.l1, x.data.wf = true ∧ x.isDirty = false) →
    ∃ t, exec (.storePerformed id) s = .next t ∧ t.stores = s.stores.filter (fun x => x.id != id) ∧
      (∀ a, covers it a → (t.memAt p.core p.ctx it.key).byte a = itemByte it a) ∧
      (∀ a, ¬covers it a → t.mem.byte a = s.mem.byte a)

/-- R183, R193, R200: STORE_PERFORMED at the home and in the L1. -/
def Obligations.StorePerformed : Prop := Sys2Proof.Slice0.StorePerformedAtHome ∧ Sys2Proof.Slice0.StorePerformedInL1

/-- R217, R218, R220: LDS reads the allocation that its window slot names, on path 1 the task's own and on path 2 another's; STS writes the
bytes at the bank. No byte of global memory changes. -/
def Sys2Proof.Slice0.WindowAccesses : Prop :=
  ∀ (s : State) (u : U) (g : Guard) (ty : MemTy) (d : Reg) (base : MBase) (imm : BitVec 24) (own : Nat → Task) (o : Nat → Nat),
    s.unit? = some u → u.w.txs = [] → ScopeOk s u → u.acting g ≠ [] → Reaches u (d :: baseV base) → Clean u (u.acting g) (baseV base) →
    CleanS u (baseS base) → (∀ l ∈ u.acting g, windowLane s u ty (u.w.baseAddr base imm l) (own l) (o l)) →
    (Paced s u [1, 2] →
      let word := fun l => if (own l).smark (o l) then (⟨.poison, 4⟩ : Word) else typedWord ty ((own l).sread (o l) (memBytes ty))
      let paths := [1, 2].filter fun p => (u.acting g).any fun l => ((own l).id == u.t.id) == (p == 1)
      exec (.lds g ty d base imm) s = .next (u.done
        { s with
          loads := s.loads ++ paths.mapIdx fun j p => ⟨s.nextId + j, u.t.core, u.t.ctx,
            destsOf s u d ((u.acting g).filter fun l => ((own l).id == u.t.id) == (p == 1)) fun l => some (word l), u.t.pri, []⟩
          nextId := s.nextId + paths.length }
        ((paths.mapIdx fun j p => (s.nextId + j, p)).foldl (fun w x => u.addAcc w x.1 x.2) u.w))) ∧
    (Paced s u [3] → Clean u (u.acting g) [d] → (∀ l ∈ u.acting g, storeDenied u.sp.pl (u.w.getV l d).tag = false) →
      ∃ (ls : List Nat) (n : Nat), ls.Perm (u.acting g) ∧
        exec (.sts g ty d base imm) s = .next (u.done
          { s with
            tasks := (ls.foldl (fun s l => s.onTask (own l).id fun t => t.sstore (o l) (memBytes ty) (u.w.getV l d).pay) s).tasks
            stores := s.stores ++ [⟨s.nextId, u.w.id, u.t.id, u.t.core, u.t.ctx, hintOf u 1, [], [], mineAhead u, s.nowNs⟩]
            nextId := s.nextId + 1
            tick := n }
          (u.addAcc u.w s.nextId 3)))

/-- R215, R220: LDS and STS raise ALIGN for the lanes whose address is not a multiple of the access size; else SCRATCH_BOUNDS for the lanes
whose access leaves the allocation of its slot, with the address of the lowest of them. -/
def Sys2Proof.Slice0.WindowTraps : Prop :=
  ∀ (s : State) (u : U) (g : Guard) (ty : MemTy) (d : Reg) (base : MBase) (imm : BitVec 24) (i : Instr) (l0 : Nat),
    s.unit? = some u → ScopeOk s u → Reaches u (d :: baseV base) → CleanS u (baseS base) →
    i = .lds g ty d base imm ∧ Paced s u [1, 2] ∧ Clean u (u.acting g) (baseV base) ∨
      i = .sts g ty d base imm ∧ Paced s u [3] ∧ Clean u (u.acting g) (d :: baseV base) →
    let va := fun l => u.w.baseAddr base imm l
    let bent := (u.acting g).filter fun l => (va l).toNat % memBytes ty ≠ 0
    let out := (u.acting g).filter fun l => (s.window u.t (va l) (memBytes ty)).isNone
    (bent.head? = some l0 → exec i s = .next (s.raise u (mkTrap 20 0 (maskOf bent) (va l0)))) ∧
    (bent = [] → out.head? = some l0 → exec i s = .next (s.raise u (mkTrap 18 0 (maskOf out) (va l0))))

/-- R215, R217, R218, R220: LDS and STS: the words read and written, and their traps. Model's choices: log entries 25, 104. -/
def Obligations.ScratchpadAccesses : Prop := Sys2Proof.Slice0.WindowAccesses ∧ Sys2Proof.Slice0.WindowTraps

/-- STF as a memory instruction (R223). -/
def Sys2Proof.Slice0.fieldStore (g : Guard) (d a : Reg) (idx : BitVec 24) : MemForm :=
  ⟨g, d, [d, a], [d, a], [], 1, fun s u l => u.stfLane s idx l (u.w.getV l a) (u.w.getV l d)⟩

/-- R206, R216, R223: outside a speculative task STF writes its fields with the header check, at the home for any hint narrower than
COHORT; one access of path 3 stays in flight. The order of overlapping fields is a free choice (R178). -/
def Sys2Proof.Slice0.FieldsWritten : Prop :=
  ∀ (s : State) (u : U) (g : Guard) (d a : Reg) (idx : BitVec 24) (m : Nat → LaneMem),
    s.unit? = some u → ScopeOk s u → (fieldStore g d a idx).Ready s u 3 m →
    u.t.spec ≠ .running → (∀ x ∈ s.l1, x.core = u.t.core → x.isDirty = false) → (s.ctx u.t.ctx).dirtyEn = false →
    let items := (u.acting g).flatMap fun l => (m l).items
    ∃ (t : State) (p : List W64) (its : List StoreItem),
      its.Perm items ∧ exec (.stf g d a idx) s = .next (u.done t { u.addAcc u.w s.nextId 3 with perf := p }) ∧
      t.mem = its.foldl Mem.store s.mem ∧ t.loads = s.loads ∧ atomsBut t = atomsBut s ∧ t.tasks = s.tasks ∧
      t.stores = s.stores ++ [⟨s.nextId, u.w.id, u.t.id, u.t.core, u.t.ctx, hintOf u 1, [], [], mineAhead u, s.nowNs⟩]

/-- R208, R223: in a speculative task the fields STF writes are speculative stores, kept with the task; without room for their lines in the
sets of the L2 the unit stalls. -/
def Sys2Proof.Slice0.SpeculativeFields : Prop :=
  ∀ (s : State) (u : U) (g : Guard) (d a : Reg) (idx : BitVec 24) (m : Nat → LaneMem),
    s.unit? = some u → ScopeOk s u → (fieldStore g d a idx).Ready s u 3 m → u.t.spec = .running →
    let items := (u.acting g).flatMap fun l => (m l).items
    (u.specRoom s items = false → exec (.stf g d a idx) s = .next (u.hold s)) ∧
    (u.specRoom s items = true → StoreIssued s u items (pagesOf m (u.acting g)) (hintOf u 1) (exec (.stf g d a idx) s))

/-- R206, R208, R216, R223: the field writes of STF in plain code and in a speculative task; those of a transaction are among the accesses of
TransactionAccesses. Model's choices: log entries 97, 104. -/
def Obligations.StoreFieldWrites : Prop := Sys2Proof.Slice0.FieldsWritten ∧ Sys2Proof.Slice0.SpeculativeFields

/-! ## Allocation, atomics, cache control -/

namespace Sys2Proof.Slice0

/-- The first byte of a lane's block: blocks are consecutive in ascending lane order (R227). -/
def blockAt (u : U) (ls : List Nat) (n : Nat → Nat) (l : Nat) : Nat := u.w.nbase.toNat + 8 * ((ls.filter fun m => decide (m < l)).map n).sum

/-- The header NALLOC writes (R88): HASH = base[18:3] XOR base[34:19], GCSTATE 0, SIZE, LAYOUT. -/
def headerOf (base : Nat) (n : Nat) (layout : W64) : W64 :=
  let b : W64 := BitVec.ofNat 64 base
  (b.extractLsb' 3 16 ^^^ b.extractLsb' 19 16) ++ (0 : BitVec 8) ++ BitVec.ofNat 24 n ++ layout.extractLsb' 0 16

/-- The words of a block at the keys of its pages: the header, then NIL. -/
def blockWords (base n : Nat) (layout : W64) (pg : List Touch) : List StoreItem :=
  (List.range n).map fun j => ⟨pageKey pg (base + 8 * j), 8, if j = 0 then headerOf base n layout else 0,
    some (if j = 0 then .hdr else .nil), false⟩

/-- A size word NALLOC accepts (R227). -/
def SizeWord (x : Word) : Prop := x.tag = .int ∧ 1 ≤ x.pay.toNat ∧ x.pay.toNat ≤ 0xFFFFFF

/-- The machine after an allocation: one store of path 3 in flight, that of a speculative task with the task, its lines in open ways (R314). -/
def allocated (s t : State) (u : U) (its : List StoreItem) (pages : List Nat) : State :=
  let spec := decide (u.t.spec = .running)
  { s with
    stores := s.stores ++ [⟨s.nextId, u.w.id, u.t.id, u.t.core, u.t.ctx, hintOf u 1, if spec then [] else its, if spec then [] else pages,
      mineAhead u, s.nowNs⟩]
    tasks := if spec then s.tasks.map fun x => if x.id = u.t.id then
        { x with specStores := x.specStores ++ its, specPages := distinct (x.specPages ++ pages), ways := t.fillWays x its } else x
      else s.tasks
    nextId := s.nextId + 1
    l2 := t.l2
    tlb := t.tlb
    parts := t.parts }

/-- Addresses that NSET refuses (R225). -/
def nurseryAddr (x : W64) : Bool := decide (x.toNat < 2 ^ 57) && decide (x.toNat % 8 = 0)

/-- The instruction caches of a context after an ICINV of a line, or of all: the cores of its partition lose what they hold of it, and a
later fetch finds no older words there (R353). -/
def withoutICache (s : State) (u : U) (line : Option Nat) : State :=
  { s with
    icache := s.icache.filter fun l =>
      !(l.ctx == u.t.ctx && (s.part (s.ctx u.t.ctx).part).cports.getLsbD (l.core / 8) && (line.isNone || line == some l.line))
    icinvs := s.icinvs ++ [(u.t.ctx, line, s.tick)] }

/-- NSET and ICINV (R226, R353). -/
def nurseryForm : Instr → Option OnceForm
  | .nset g a b => some ⟨g, [], [a, b], fun s u =>
      let x := (u.w.getS a).pay
      let y := (u.w.getS b).pay
      if nurseryAddr x && nurseryAddr y && decide (x.toNat ≤ y.toNat) then
        some (u.done (s.setTask { u.t with nsets := u.t.nsets ++ [(x, y)] }) { u.w with nbase := x, nlim := y })
      else none⟩
  | .icinv g a => some ⟨g, [], [a], fun s u =>
      if u.sp.count 3 ≠ 0 then none
      else some (u.skip (withoutICache s u (some ((u.w.getS a).pay.toNat / 128))))⟩
  | .icinvAll g => some ⟨g, [], [], fun s u => if u.sp.count 3 ≠ 0 then none else some (u.skip (withoutICache s u none))⟩
  | _ => none

/-- ATOM and CAS: the guard, the registers named and read, where the old value goes, the place and what is done there (R228, R229). -/
structure AtomForm where
  guard : Guard
  dest : Reg
  regs : List Reg
  addr : U → Nat → W64
  size : Nat
  act : U → Nat → AtomDo
  level : U → Nat → Bool

/-- The atomics. `level` says that neither R85 nor the hint rule of R204 forbids the lane. -/
def atomForm : Instr → Option AtomForm
  | .atom g op sz a b imm => some ⟨g, b, [a, b], fun u l => (u.w.getV l a).pay + imm.signExtend 64,
      match sz with | .b4 => 4 | .b8 => 8, fun u l => .op op (u.w.getV l b),
      fun u l => decide (op ≠ .xchg) || decide (u.sp.pl ≠ 0) || decide ((u.w.getV l b).tag ∉ [Tag.hdr, .hdrc, .fwd])⟩
  | .cas g sz d a b imm => some ⟨g, b, [d, a, b], fun u l => (u.w.getV l a).pay + imm.signExtend 64,
      match sz with | .b4 => 4 | .b8 => 8, fun u l => .cas (u.w.getV l b) (u.w.getV l d),
      fun u l => (decide (u.sp.pl ≠ 0) || decide ((u.w.getV l d).tag ∉ [Tag.hdr, .hdrc, .fwd])) &&
        (decide ((u.w.getV l d).tag.code.toNat / 16 ≠ 7) || decide (4 ≤ hintOf u 4))⟩
  | _ => none

/-- The integer that the bits of an atomic's operand stand for, signed. -/
def signedAt (size x : Nat) : Int := if size = 4 then (BitVec.ofNat 32 x).toInt else (BitVec.ofNat 64 x).toInt
/-- The float format of an atomic. -/
def atomSpec (size : Nat) : FSpec := if size = 4 then .f32 else .f64

/-- The new contents of a location (R228). -/
def newBits (op : AtomOp) (size old x : Nat) : Nat :=
  let pick := fun (c : Bool) => if c then old else x
  let float := fun (v : FVal) => roundFmt (atomSpec size) .rn false false v
  match op with
  | .iadd => (old + x) % 2 ^ (8 * size)
  | .smin => pick (decide (signedAt size old ≤ signedAt size x))
  | .smax => pick (decide (signedAt size x < signedAt size old) || decide (signedAt size x = signedAt size old))
  | .umin => min old x
  | .umax => max old x
  | .and => old &&& x
  | .or => old ||| x
  | .xor => old ^^^ x
  | .xchg => x
  | .fadd => float ((decodeF (atomSpec size) old).add .rn (decodeF (atomSpec size) x))
  | .fmin => float ((decodeF (atomSpec size) old).min (decodeF (atomSpec size) x))
  | .fmax => float ((decodeF (atomSpec size) old).max (decodeF (atomSpec size) x))

/-- The word the lane receives (R228); `whole` is the 8-byte word at the place. -/
def oldWord (op : AtomOp) (size old : Nat) (whole : Word) : Word :=
  match op with
  | .fadd | .fmin | .fmax => ⟨if size = 4 then .f32 else .f64, BitVec.ofNat 64 old⟩
  | .umin | .umax => ⟨.int, BitVec.ofNat 64 old⟩
  | .xchg => if size = 4 then ⟨.int, (BitVec.ofNat 32 old).signExtend 64⟩ else whole
  | _ => ⟨.int, if size = 4 then (BitVec.ofNat 32 old).signExtend 64 else BitVec.ofNat 64 old⟩

/-- The tag that an 8-byte atomic leaves in a word of a tagged page (R228). -/
def newTag (op : AtomOp) (x : Word) : Tag :=
  match op with
  | .xchg => x.tag
  | .fadd | .fmin | .fmax => .f64
  | _ => .int

/-- What PREF and CCTL need to complete. -/
structure CacheReady (s : State) (u : U) (g : Guard) (base : MBase) : Prop where
  plain : u.w.txs = []
  scope : ScopeOk s u
  room : Paced s u []
  reach : Reaches u (baseV base)
  clean : Clean u (u.acting g) (baseV base)
  cleanS : CleanS u (baseS base)

/-- The lines that the acting lanes of PREF or CCTL name: readable, and not on a host page (R232, R233). -/
def namedLine (s : State) (u : U) (g : Guard) (base : MBase) (imm : BitVec 24) (line : Nat) : Prop :=
  ∃ l ∈ u.acting g, ∃ tr k, s.translate u.t.ctx u.sp.pl .read (u.w.baseAddr base imm l) = .ok (tr, k) ∧ tr.kind ≠ .host ∧ k / 128 = line

end Sys2Proof.Slice0

/-- R88, R227: NALLOC gives each acting lane in ascending order the next block of the nursery: a REF in D, the header and NIL words of the
block as one store in flight, and %nbase behind the last block. ALLOCW makes one block with the lowest acting lane's operands and gives
its REF to every acting lane (R61). -/
def Sys2Proof.Slice0.Allocation : Prop :=
  ∀ (s : State) (u : U) (g : Guard) (d a b : Reg) (pg : Nat → List Touch),
    s.unit? = some u → u.w.txs = [] → ScopeOk s u → Paced s u [3] → u.acting g ≠ [] → Reaches u [d, a, b] →
    Clean u (u.acting g) [a, b] → (∀ l ∈ u.acting g, SizeWord (u.w.getV l a)) →
    let n := fun l => (u.w.getV l a).pay.toNat
    let lay := fun l => (u.w.getV l b).pay
    let at_ := blockAt u (u.acting g) n
    let total := ((u.acting g).map n).sum
    let its := (u.acting g).flatMap fun l => blockWords (at_ l) (n l) (lay l) (pg l)
    (u.w.nbase.toNat + 8 * total ≤ u.w.nlim.toNat →
      (∀ l ∈ u.acting g, u.blockPages s ⟨l, at_ l, n l, bits (lay l) 15 0⟩ = .ok (pg l)) → PoolHolds s u ((u.acting g).flatMap pg) →
      u.specRoom s its = true →
      ∃ t : State, t.tasks = s.tasks ∧ t.classes = s.classes ∧ exec (.nalloc g d a b) s = .next (u.done
        (allocated s t u its
          (distinct ((u.acting g).flatMap fun l => (pg l).map fun x => x.tr.gpa / 65536)))
        (u.addAcc { (u.acting g).foldl (fun w l => w.setV l d ⟨.ref, BitVec.ofNat 64 (at_ l)⟩) u.w with
          nbase := BitVec.ofNat 64 (u.w.nbase.toNat + 8 * total) } s.nextId 3))) ∧
    (∀ l0, (u.acting g).head? = some l0 → u.w.nbase.toNat + 8 * n l0 ≤ u.w.nlim.toNat →
      u.blockPages s ⟨l0, u.w.nbase.toNat, n l0, bits (lay l0) 15 0⟩ = .ok (pg l0) → PoolHolds s u (pg l0) →
      u.specRoom s (blockWords u.w.nbase.toNat (n l0) (lay l0) (pg l0)) = true →
      ∃ t : State, t.tasks = s.tasks ∧ t.classes = s.classes ∧ exec (.allocw g d a b) s = .next (u.done
        (allocated s t u (blockWords u.w.nbase.toNat (n l0) (lay l0) (pg l0)) (distinct ((pg l0).map fun x => x.tr.gpa / 65536)))
        (u.addAcc { (u.acting g).foldl (fun w l => w.setV l d ⟨.ref, u.w.nbase⟩) u.w with
          nbase := BitVec.ofNat 64 (u.w.nbase.toNat + 8 * n l0) } s.nextId 3)))

/-- R226, R353: NSET installs a chunk, and the task keeps it for its retraction log; ICINV drops a line, or with .all every line, of the
context from the instruction caches of its partition's cores. -/
def Sys2Proof.Slice0.NurserySet : Prop := CompletesOnce nurseryForm

/-- R225 to R227: NALLOC raises ILLEGAL for the lanes whose size word is no size; NURSERY_FULL, a lane trap with the size and the layout
word, for the first acting lane whose block would pass the limit and every higher one, with no block for any of them; NSET raises ILLEGAL for
addresses that are no chunk. -/
def Sys2Proof.Slice0.AllocationTraps : Prop :=
  ∀ (s : State) (u : U) (g : Guard) (d a b : Reg), s.unit? = some u → u.acting g ≠ [] →
    (ScopeOk s u → u.w.txs = [] → Paced s u [3] → Reaches u [d, a, b] → Clean u (u.acting g) [a, b] → u.w.nbase.toNat % 8 = 0 →
      ∀ bad : List Nat, bad = ((u.acting g).filter fun l => !sizeOk (u.w.getV l a)) → bad ≠ [] →
        exec (.nalloc g d a b) s = .next (s.raise u (mkTrap 16 2 (maskOf bad) 0))) ∧
    (∀ l : Nat, sizeOk (u.w.getV l a) = decide ((u.w.getV l a).tag = .int ∧ 1 ≤ (u.w.getV l a).pay.toNat ∧ (u.w.getV l a).pay.toNat ≤ 0xFFFFFF)) ∧
    (u.w.txs = [] → ∀ l ∈ u.acting g, sizeOk (u.w.getV l a) = true →
      let n := fun l => (u.w.getV l a).pay.toNat
      (∃ m ∈ u.acting g, m ≤ l ∧ u.w.nlim.toNat < blockAt u (u.acting g) n m + 8 * n m) →
      u.allocLane s (allocPlan u.w.nlim.toNat u.w.nbase.toNat ((u.acting g).map fun l => (l, u.w.getV l a, u.w.getV l b))).1 l
          (u.w.getV l a) (u.w.getV l b) =
        .error (.trap ⟨.nurseryFull, 19, 0, 0, u.w.getV l a, u.w.getV l b, .nil⟩)) ∧
    (CleanS u [a, b] → (nurseryAddr (u.w.getS a).pay && nurseryAddr (u.w.getS b).pay &&
        decide ((u.w.getS a).pay.toNat ≤ (u.w.getS b).pay.toNat)) = false →
      exec (.nset g a b) s = .next (s.raise u (mkTrap 16 2 u.pa.mask 0)))

/-- R61, R88, R225 to R227, R353: NALLOC, ALLOCW, NSET and ICINV, and the traps of NALLOC and NSET. Model's choices: log entries 70, 104. -/
def Obligations.AllocationAndNursery : Prop :=
  Sys2Proof.Slice0.Allocation ∧ Sys2Proof.Slice0.NurserySet ∧ Sys2Proof.Slice0.AllocationTraps

/-- R228, R229: ATOM and CAS put one atomic of path 3 in flight with the place and the operands of every acting lane, in any order where
two meet (R178). Neither memory nor a register changes yet. -/
def Sys2Proof.Slice0.AtomicsIssue : Prop :=
  ∀ (s : State) (u : U) (i : Instr) (f : AtomForm) (p : Nat → Touch),
    s.unit? = some u → i.wf = true → atomForm i = some f → u.w.txs = [] → u.t.spec ≠ .running → ScopeOk s u → Paced s u [3] →
    u.acting f.guard ≠ [] → Reaches u f.regs → Clean u (u.acting f.guard) f.regs → PoolHolds s u ((u.acting f.guard).map p) →
    (∀ l ∈ u.acting f.guard, s.reachAtom u (f.addr u l) f.size = .ok (p l) ∧ f.level u l = true) →
    let k := (regIndex u.w.nregs f.dest).getD 0
    ∃ (t : State) (ls : List Nat) (n : Nat), ls.Perm (u.acting f.guard) ∧
      exec i s = .next (u.done
        { s with
          atoms := s.atoms ++ [⟨s.nextId, u.w.id, u.t.id, u.t.core, u.t.ctx, hintOf u 4,
            ls.map fun l => ⟨u.w.id, l, k, (p l).key, (p l).size, (p l).tr.tagged, f.act u l, none,
              (s.regTag u.t.core u.w l k).1, (s.regTag u.t.core u.w l k).2⟩,
            distinct ((u.acting f.guard).map fun l => (p l).tr.gpa / 65536), mineAhead u, s.nowNs⟩]
          nextId := s.nextId + 1
          tick := n
          l2 := t.l2
          tlb := t.tlb
          parts := t.parts }
        (u.addAcc u.w s.nextId 3))

/-- R211, R239: in a speculative task ATOM and CAS wait at their boundary. In a transaction the one acting lane makes its update there: its
register receives the old word by an access of path 3, and the new word joins the stores of the transaction. -/
def Sys2Proof.Slice0.AtomicsApart : Prop :=
  ∀ (s : State) (u : U) (i : Instr) (f : AtomForm) (p : Nat → Touch),
    s.unit? = some u → i.wf = true → atomForm i = some f → ScopeOk s u → Paced s u [3] →
    u.acting f.guard ≠ [] → Reaches u f.regs → Clean u (u.acting f.guard) f.regs →
    (∀ l ∈ u.acting f.guard, s.reachAtom u (f.addr u l) f.size = .ok (p l) ∧ f.level u l = true) →
    (u.t.spec = .running → exec i s = .next (u.hold s)) ∧
    (u.t.spec ≠ .running → PoolHolds s u ((u.acting f.guard).map p) →
      ∀ (l : Nat) (x : Tx), u.acting f.guard = [l] → u.w.openTx l = some x →
      let r := atomOn (u.laneView s l (p l).key) (p l).tr.tagged (p l).key (p l).size (f.act u l)
      ∃ (t : State) (q : List W64),
        let w := u.txAccess s { u.w with perf := q } l x ⟨some r.2, [p l], r.1.toList⟩
        exec i s = .next (u.doneTx t (u.addAcc w s.nextId 3)) ∧
        t = { s with
          loads := s.loads ++ [⟨s.nextId, u.t.core, u.t.ctx,
            if (w.openTx l).isSome then destsOf s u f.dest [l] fun _ => some r.2 else [], u.t.pri, []⟩]
          nextId := s.nextId + 1
          l2 := t.l2
          tlb := t.tlb
          parts := t.parts })

/-- R182, R228, R229: ATOMIC_COMPLETE makes one lane's update of a raw location at its home in one step: the location takes the new bits (for
CAS only where it held the expected ones), every other byte stays, and the lane's register takes the old value; the core's own copy of the line
is then that of the home. No other atomic in flight is at the location (those that do not cover each other may read one store, R182). -/
def Sys2Proof.Slice0.AtomicUpdate : Prop :=
  ∀ (s : State) (id : Nat) (p : PendAtom) (it : AtomItem) (w : Warp),
    s.atoms.find? (fun x => x.id == id) = some p → s.behind id = false → p.items = [it] → it.seen = none → (s.ctx p.ctx).dirtyEn = false →
    it.tagged = false → (it.size = 4 ∨ it.size = 8) → it.key % it.size = 0 → s.mem.marked it.key = false → s.mem.wf = true →
    (∀ x ∈ s.l1, x.core = p.core → x.line = it.key / 128 → x.isDirty = false) → Table.get 0 s.regGen it.row = it.gen →
    s.warp? it.warp = some w → (∀ q ∈ s.atoms, q.id ≠ id → ∀ x ∈ q.items, x.key / 8 ≠ it.key / 8) →
    let old := s.mem.read it.key it.size
    ∃ t w2, exec (.atomicComplete id) s = .next t ∧ t.warp? it.warp = some w2 ∧ t.tasks = s.tasks ∧ t.stores = s.stores ∧
      (∀ x ∈ t.l1, x.core = p.core → x.line = it.key / 128 → ∀ a, a / 128 = x.line → x.data.byte a = t.mem.byte a) ∧
      (∀ op x, it.act = .op op x →
        t.mem = s.mem.write it.key (bytesLE (newBits op it.size old (x.pay.toNat % 2 ^ (8 * it.size)) % 2 ^ 64) it.size) ∧
        w2.v = Table.put .nil w.v (it.lane * 256 + it.reg) (oldWord op it.size old ⟨.bits, BitVec.ofNat 64 (s.mem.read it.key 8)⟩)) ∧
      (∀ e n, it.act = .cas e n →
        t.mem = (if old = e.pay.toNat % 2 ^ (8 * it.size) then s.mem.write it.key (bytesLE n.pay.toNat it.size) else s.mem) ∧
        w2.v = Table.put .nil w.v (it.lane * 256 + it.reg)
          (if it.size = 4 then ⟨.int, (BitVec.ofNat 32 old).signExtend 64⟩ else ⟨.bits, BitVec.ofNat 64 old⟩))

/-- R228, R229: what ATOM and CAS make of a location of a tagged page and of a poisoned one: the word they store with its tag, and the word
their lane receives. That a raw line marked poisoned is left as it is, and POISON with origin 3 received, is the model's choice (log entry 109). -/
def Sys2Proof.Slice0.AtomicWords : Prop :=
  ∀ (m : Mem) (k size : Nat) (act : AtomDo),
    let whole : Word := mkWord (m.tag k) (BitVec.ofNat 64 (m.read (k / 8 * 8) 8))
    let old := m.read k size
    (m.tag k = .poison → atomOn m true k size act = (none, whole)) ∧
    (m.marked k = true → atomOn m false k size act = (none, ⟨.poison, 3⟩)) ∧
    (m.tag k ≠ .poison → size = 4 ∨ size = 8 →
      (∀ op x, act = .op op x → atomOn m true k size act =
        (some ⟨k, size, BitVec.ofNat 64 (newBits op size old (x.pay.toNat % 2 ^ (8 * size))), some (newTag op x), false⟩, oldWord op size old whole)) ∧
      (∀ e n, act = .cas e n →
        let hit := if size = 8 then decide (whole.tag = e.tag ∧ whole.pay &&& tagUsed whole.tag = e.pay &&& tagUsed e.tag)
          else decide (old = e.pay.toNat % 2 ^ (8 * size))
        atomOn m true k size act = (if hit then some ⟨k, size, n.pay, some n.tag, false⟩ else none,
          if size = 4 then ⟨.int, (BitVec.ofNat 32 old).signExtend 64⟩ else whole)))

/-- R182, R211, R228, R229, R239: ATOM and CAS at issue and at completion, on raw and tagged pages, in a speculative task and in a
transaction. Model's choices: log entries 100, 104, 109. -/
def Obligations.Atomics : Prop :=
  Sys2Proof.Slice0.AtomicsIssue ∧ Sys2Proof.Slice0.AtomicsApart ∧ Sys2Proof.Slice0.AtomicUpdate ∧ Sys2Proof.Slice0.AtomicWords

/-- R232, R233: PREF changes caches only; CCTL writes dirty bytes of the lines it names back, drops them for inv and wbinv, and changes no
other byte of memory and no other L1 line; a line of an open transaction it leaves alone. A lane with no such line does nothing. Model's
choices: log entry 98. -/
def Obligations.CacheControl : Prop :=
  ∀ (s : State) (u : U) (g : Guard) (l2 : Bool) (op : CctlOp) (base : MBase) (imm : BitVec 24),
    s.unit? = some u → CacheReady s u g base →
    (NoForeignDirty s u → ∃ t, exec (.pref g l2 base imm) s = .next (u.done t u.w) ∧
      t = { s with l1 := t.l1, l2 := t.l2, tlb := t.tlb, parts := t.parts }) ∧
    (∃ t, exec (.cctl g op base imm) s = .next (u.done t u.w) ∧ t = { s with mem := t.mem, l1 := t.l1, atoms := t.atoms } ∧
      atomsBut t = atomsBut s ∧
      (∀ a, ¬namedLine s u g base imm (a / 128) → t.mem.byte a = s.mem.byte a) ∧
      (s.mem.wf = true → ∀ x, OnlyCopy s x → x.core = u.t.core → x.ctx = u.t.ctx → namedLine s u g base imm x.line →
        (∀ w ∈ s.warps, x.line ∉ w.txLines) → WrittenBack s t x) ∧
      (∀ x ∈ s.l1, ¬(x.core = u.t.core ∧ x.ctx = u.t.ctx ∧ namedLine s u g base imm x.line) → x ∈ t.l1) ∧
      (op ≠ .wb → ∀ x ∈ t.l1, x.core = u.t.core → x.ctx = u.t.ctx → namedLine s u g base imm x.line →
        ∃ w ∈ s.warps, x.line ∈ w.txLines))

/-! ## Fences, waits and transactions -/

namespace Sys2Proof.Slice0

/-- What a fence of a PRED set waits for (R230): LD 0, ST 1, AT 2, CP 3. -/
def FenceOpen (s : State) (u : U) (pred : BitVec 4) : Prop :=
  (pred.getLsbD 0 = true → u.sp.count 0 = 0 ∧ u.sp.count 1 = 0 ∧ u.sp.count 2 = 0) ∧
  (pred.getLsbD 1 = true ∨ pred.getLsbD 2 = true → u.sp.count 3 = 0 ∧ ∀ a ∈ u.sp.acc, a.path = 5 → s.isDrain a.id = false) ∧
  (pred.getLsbD 3 = true → u.sp.count 4 = 0 ∧ u.sp.count 5 = 0)

/-- The fences: guard, PRED, SUCC and scope (R230, R61). -/
def fenceForm : Instr → Option (Guard × BitVec 4 × BitVec 4 × Nat)
  | .fence g pred succ scope => some (g, pred, succ, scope.toNat)
  | .fenceg g => some (g, 15, 15, 4)
  | .fences g => some (g, 15, 15, 6)
  | _ => none

/-- What a fence of a scope comes to at a state (R186, R211, R230). With ST or AT in PRED it writes back its core's lines recorded narrower than the
scope; with LD or AT there, or with ST there before LD in SUCC, such lines leave the L1, and every line where the scope reaches other
cores (log entry 101) or AS stands there before LD in SUCC (R185). The dirty bytes of what it writes back or drops reach the home; no other line, no other byte, no register changes. -/
def FenceDone (s : State) (u : U) (pred succ : BitVec 4) (sc : Nat) (r : Host.Outcome State Fault Refusal) : Prop :=
  let back := pred.getLsbD 1 = true ∨ pred.getLsbD 2 = true
  let drop := pred.getLsbD 0 = true ∨ pred.getLsbD 2 = true ∨ pred.getLsbD 1 = true ∧ succ.getLsbD 0 = true
  let all := pred.getLsbD 3 = true ∧ succ.getLsbD 0 = true
  let moved := fun (x : L1Line) => x.core = u.t.core ∧ (back ∧ x.scope < sc ∨ drop ∧ (x.scope < sc ∨ 2 ≤ sc) ∨ all)
  (u.t.spec = .running ∧ sc = 6 ∨ ¬FenceOpen s u pred → r = .next (u.hold s)) ∧
  (¬(u.t.spec = .running ∧ sc = 6) → FenceOpen s u pred →
    ∃ t, r = .next (u.done t u.w) ∧ t = { s with mem := t.mem, l1 := t.l1, atoms := t.atoms } ∧ atomsBut t = atomsBut s ∧
      (back → ∀ x ∈ t.l1, x.core = u.t.core → x.scope < sc → x.isDirty = false) ∧
      (drop → ∀ x ∈ t.l1, x.core = u.t.core → sc ≤ x.scope ∧ sc < 2) ∧
      (all → ∀ x ∈ t.l1, x.core ≠ u.t.core) ∧
      (∀ x ∈ s.l1, ¬moved x → x ∈ t.l1) ∧
      (s.mem.wf = true → ∀ x, OnlyCopy s x → moved x → WrittenBack s t x) ∧
      (s.mem.wf = true → ∀ a, (∀ x ∈ s.l1, moved x → x.isDirty = true → x.line ≠ a / 128) → t.mem.byte a = s.mem.byte a))

/-- The waits on the path counters: guard, the scalar register read, and when the unit passes (R194, R231, R61). -/
def waitForm (u : U) : Instr → Option (Guard × List Reg × Prop)
  | .waitc g ld st cp tile =>
    let ok := fun (t : Byte) (n : Nat) => t = 255 ∨ n ≤ t.toNat
    some (g, [], ok ld (u.sp.count 0 + u.sp.count 1 + u.sp.count 2) ∧ ok st (u.sp.count 3) ∧ ok cp (u.sp.count 4) ∧ ok tile (u.sp.count 5))
  | .waitp g a path =>
    some (g, [a], 4095 ≤ (u.w.getS a).pay.toNat ∨ u.sp.count path.toNat ≤ (u.w.getS a).pay.toNat)
  | .waitall g => some (g, [], u.sp.count 0 + u.sp.count 1 + u.sp.count 2 = 0 ∧ u.sp.count 3 = 0 ∧ u.sp.count 4 = 0 ∧ u.sp.count 5 = 0)
  | _ => none

/-- The abort of every active lane of a unit with one code, where the transactions `xs` of those lanes have one target (R202, R235): the code in
the register of each outermost TXBEGIN, where no load in flight overwrites it, the transactions gone, the lanes at the target. -/
def abortedAt (s : State) (u : U) (w : Warp) (xs : List Tx) (pc code : W64) : State :=
  (s.dropWrites u.w (xs.map fun x => (x.lane, x.dreg))).setWarp (({ (xs.foldl (fun w x => w.setV x.lane x.dreg ⟨.int, code⟩) w) with
    txs := w.txs.filter fun y => !(xs.any fun x => x.lane == y.lane) } : Warp).setHead u.c.split { u.pa with pc := pc })

/-- That of the only active lane. -/
def aborted (s : State) (u : U) (x : Tx) (code : W64) : State := abortedAt s u u.w [x] x.target code

/-- Whether two footprints share a line that at least one of them has stored (R199). -/
def Clashes (x y : Tx) : Prop := ∃ k ∈ x.lines, k ∈ y.lines ∧ (k ∈ x.stored ∨ k ∈ y.stored)

/-- The lanes of a unit that make their accesses in their transactions, in lane order (R198). -/
def inside (s : State) (u : U) (w : Warp) (m : Nat → LaneMem) (ls : List Nat) : Warp :=
  ls.foldl (fun w l => match w.openTx l with | some x => u.txAccess s w l x (m l) | none => w) w

/-- The transactions of the active lanes that TXEND brings to depth 0 (R236). -/
def committing (u : U) : List Tx := u.active.filterMap fun l => match u.w.openTx l with | some x => if x.depth ≤ 1 then some x else none | none => none

/-- The home memory after the stores of some transactions, one after the other. -/
def committed (m : Mem) (xs : List Tx) : Mem := xs.foldl (fun m x => x.writes.foldl Mem.store m) m

end Sys2Proof.Slice0

/-- R186, R191, R211, R230: outside a transaction a fence waits at its boundary until the accesses PRED names have completed, then writes back
and drops lines of its core's L1, whose dirty bytes reach the home. A scope wider than LIMIT raises SCOPE_DENIED, or is clamped to LIMIT
and CLAMPED set where CLAMP is 1; in a speculative task one of scope SYSTEM waits. Model's choice: log entry 101. -/
def Obligations.Fences : Prop :=
  ∀ (s : State) (u : U) (i : Instr) (g : Guard) (pred succ : BitVec 4) (sc : Nat),
    s.unit? = some u → fenceForm i = some (g, pred, succ, sc) → u.acting g ≠ [] → u.w.txs = [] →
    (sc ≤ (s.ctx u.t.ctx).scopeLimit → FenceDone s u pred succ sc (exec i s)) ∧
    ((s.ctx u.t.ctx).scopeLimit < sc → (s.ctx u.t.ctx).scopeClamp = true →
      FenceDone (clampedCtx s u) u pred succ (s.ctx u.t.ctx).scopeLimit (exec i s)) ∧
    ((s.ctx u.t.ctx).scopeLimit < sc → (s.ctx u.t.ctx).scopeClamp = false →
      exec i s = .next (s.raise u (mkTrap 24 0 u.pa.mask (BitVec.ofNat 64 sc))))

/-- R231 (with the conditions of R194), R61: WAITC, WAITP and WAITALL act once where some active lane's guard is true, else they do nothing; they pass,
changing nothing, exactly when the path counters are at or below their thresholds, and else the split waits at its boundary before the unit. A POISON
threshold raises POISON_READ, no words of a WAITP name a path above 5, and the thresholds of WAITC fill word 1 from the lowest byte on. -/
def Obligations.CounterWaits : Prop :=
  (∀ (s : State) (u : U) (i : Instr) (g : Guard) (rs : List Reg) (p : Prop),
    s.unit? = some u → waitForm u i = some (g, rs, p) →
    (u.acting g = [] → exec i s = .next (u.skip s)) ∧
    (u.acting g ≠ [] → CleanS u rs → (p → exec i s = .next (u.skip s)) ∧ (¬p → exec i s = .next (u.hold s))) ∧
    (u.acting g ≠ [] → ∀ r ∈ rs, (u.w.getS r).tag = .poison → exec i s = .next (s.raise u (mkTrap 25 0 u.pa.mask (r.setWidth 64))))) ∧
  (∀ (g : Guard) (a : Reg) (path : Byte) (rest : List W32), 5 < path.toNat →
    ∃ e, decodeWords 0 .start (encode (.waitp g a path) ++ rest) = .error e) ∧
  ∀ (pg : BitVec 3) (ld st cp tile : Byte) (rest : List W32),
    decodeWords 0 .start (((0 : BitVec 3) ++ pg ++ (0 : BitVec 16) ++ (0x7E : BitVec 8) ++ (1 : BitVec 2)) :: (tile ++ cp ++ st ++ ld) :: rest) =
      .ok (⟨.waitc ⟨pg, false⟩ ld st cp tile, none, none⟩, rest)

/-- R234, R236, R237, R201, R202: TXBEGIN outside a transaction opens one in every acting lane and writes INT 0; in a speculative task it aborts with
SPECULATION; inside one it deepens it, up to depth 15, and else aborts with CAPACITY. TXEND lowers the depth of every active lane's transaction; those that reach 0 are
taken in lane order, and where each finds every value it loaded current, behind the stores of the lower lanes, their stores are at their homes at once, each commit
with stores an access of path 3; where one of a single lane does not, it aborts with CONFLICT_REMOTE. TXABORT aborts with EXPLICIT. The aborts are stated for a unit
all of whose lanes abort to one target. -/
def Sys2Proof.Slice0.TransactionControl : Prop :=
  ∀ (s : State) (u : U) (g : Guard) (d : Reg) (off : W32) (code : Byte), s.unit? = some u →
    let target := u.c.start + (off.signExtend 64 <<< 2)
    (Reaches u [d] → u.acting g ≠ [] → u.w.txs = [] → u.t.spec ≠ .running → u.sp.acc = [] →
      ∃ t, exec (.txbegin g d off) s = .next (u.done t ((u.acting g).foldl (fun w l => ({ w with
          txs := w.txs ++ [⟨l, 1, target, d, [], [], [], [], [], none⟩] } : Warp).setV l d ⟨.int, 0⟩) u.w)) ∧
        t = { s with mem := t.mem, l1 := t.l1, atoms := t.atoms } ∧ atomsBut t = atomsBut s) ∧
    (Reaches u [d] → u.acting g = u.active → u.active ≠ [] → u.w.txs = [] → u.t.spec = .running →
      exec (.txbegin g d off) s = .next (abortedAt s u u.w (u.active.map fun l => ⟨l, 1, target, d, [], [], [], [], [], none⟩) target 6)) ∧
    (u.active = [] ∨ u.w.txs = [] → exec .txend s = .next (u.skip s) ∧ exec (.txabort g code) s = .next (u.skip s)) ∧
    (∀ (l : Nat) (x : Tx), u.active = [l] → u.w.txs = [x] → x.lane = l → x.doom = none → Reaches u [d] → u.acting g = [l] →
      (x.depth < 15 → u.t.spec ≠ .running →
        exec (.txbegin g d off) s = .next (u.done s { u.w with txs := [{ x with depth := x.depth + 1 }] })) ∧
      (15 ≤ x.depth → exec (.txbegin g d off) s = .next (aborted s u x 1))) ∧
    ((∀ x ∈ u.w.txs, x.doom = none) → committing u = [] → ∃ txs, exec .txend s = .next (u.done s { u.w with txs := txs }) ∧
      ∀ l, ({ u.w with txs := txs } : Warp).tx? l = (u.w.tx? l).map fun x => if l ∈ u.active then { x with depth := x.depth - 1 } else x) ∧
    ((∀ x ∈ u.w.txs, x.doom = none) → committing u ≠ [] → u.sp.acc = [] → s.requests u.t.core + u.active.length ≤ 2048 →
      (∀ y ∈ s.l1, y.core ≠ u.t.core) → (s.ctx u.t.ctx).dirtyEn = false →
      ((∀ xs x ys, committing u = xs ++ x :: ys → x.valid (committed s.mem xs) = true) →
        let ids := (List.range ((committing u).filter fun x => !x.writes.isEmpty).length).map fun k => s.nextId + k
        ∃ t txs, exec .txend s = .next (u.done t { ids.foldl (fun w k => u.addAcc w k 3) u.w with txs := txs }) ∧
          t.mem = committed s.mem (committing u) ∧ t.tasks = s.tasks ∧ t.loads = s.loads ∧ t.stores.length = s.stores.length + ids.length ∧
          ∀ l, ({ u.w with txs := txs } : Warp).tx? l =
            if l ∈ (committing u).map fun x => x.lane then none
            else (u.w.tx? l).map fun x => if l ∈ u.active then { x with depth := x.depth - 1 } else x) ∧
      ∀ x, u.active = [x.lane] → committing u = [x] → x.valid s.mem = false → exec .txend s = .next (aborted s u x 3)) ∧
    ∀ (xs : List Tx) (pc : W64), xs ≠ [] → u.active = xs.map (fun x => x.lane) → u.acting g = u.active →
      (∀ x ∈ xs, u.w.tx? x.lane = some x ∧ x.doom = none ∧ x.target = pc) →
      exec (.txabort g code) s = .next (abortedAt s u u.w xs pc (BitVec.ofNat 64 (4 + code.toNat * 2 ^ 8)))

/-- R198, R201, R239: loads, stores and STF by lanes that all hold open transactions act in them, in lane order: a load's values reach its registers by an access of
path 0, but for the lanes it has doomed; stores change nothing outside the transaction and put nothing in flight; the doomed lanes abort at the end of the unit. -/
def Sys2Proof.Slice0.TransactionAccesses : Prop :=
  ∀ (s : State) (u : U) (i : Instr) (f : MemForm) (path : Nat) (m : Nat → LaneMem),
    s.unit? = some u → i.wf = true →
    loadForm i = some f ∧ path = 0 ∨ (storeForm i = some f ∨ ∃ g d a idx, i = .stf g d a idx ∧ f = fieldStore g d a idx) ∧ path = 3 →
    ScopeOk s u → Paced s u [path] → Reaches u f.named → Clean u (u.acting f.guard) f.srcs → CleanS u f.scal → NoForeignDirty s u →
    let ls := u.acting f.guard
    ls ≠ [] → (∀ l ∈ ls, f.lane s u l = .ok (m l) ∧ (u.w.openTx l).isSome = true) → PoolHolds s u (ls.flatMap fun l => (m l).touches) →
    (path = 3 → u.specRoom s (ls.flatMap fun l => (m l).items) = true) →
    ∃ (t : State) (p : List W64),
      let w := inside s u { u.w with perf := p } m ls
      exec i s = .next (u.doneTx t (if path = 0 then u.addAcc w s.nextId 0 else w)) ∧
      t = { s with
        loads := if path = 0 then s.loads ++ [⟨s.nextId, u.t.core, u.t.ctx, destsOf s u f.dest (ls.filter fun l => (w.openTx l).isSome) fun l => (m l).word,
          u.t.pri, u.sentLines s (ls.flatMap fun l => (m l).touches)⟩] else s.loads
        nextId := if path = 0 then s.nextId + 1 else s.nextId
        tick := t.tick
        l1 := t.l1
        l2 := t.l2
        hdrs := t.hdrs
        tlb := t.tlb
        parts := t.parts }

/-- R198, R199, R201, R202, R235: what one lane's access does to the transactions of its warp. Outside device memory it dooms the lane with FAULT; where the footprints of
the warp come to more than 32 lines, with CAPACITY; where a lower lane's footprint clashes with the new one, with CONFLICT_LANE and that lane as WINNER; else the lines,
the stores and the values loaded join its transaction, and the higher lanes that clash are doomed with it as WINNER. A unit of one active lane that is doomed aborts it. -/
def Sys2Proof.Slice0.TransactionFootprint : Prop :=
  (∀ (s : State) (u : U) (w : Warp) (l : Nat) (x : Tx) (a : LaneMem), w.openTx l = some x →
    let after := u.txAccess s w l x a
    let doomed := fun (v : Warp) (code : W64) => ({ v with txs := v.txs.map fun z => if z.lane = l ∧ z.doom = none then { z with doom := some code } else z } : Warp)
    ((∃ t ∈ a.touches, t.tr.kind ≠ .device) → after = doomed w 5) ∧
    ((∀ t ∈ a.touches, t.tr.kind = .device) → ∃ y : Tx,
      y = { x with lines := y.lines, stored := y.stored, pages := y.pages, reads := y.reads, writes := x.writes ++ a.items } ∧
      (∀ k, k ∈ y.lines ↔ k ∈ x.lines ∨ ∃ t ∈ a.touches, t.key / 128 = k) ∧
      (∀ k, k ∈ y.stored ↔ k ∈ x.stored ∨ ∃ t ∈ a.touches, t.write = true ∧ t.key / 128 = k) ∧
      (∀ r, r ∈ y.reads ↔ r ∈ x.reads ∨ ∃ t ∈ a.touches, (t.write = false ∨ a.word ≠ none) ∧ r ∈ x.returned u s t) ∧
      (∀ k, k ∈ y.pages ↔ k ∈ x.pages ∨ ∃ t ∈ a.touches, t.write = true ∧ t.tr.gpa / 65536 = k) ∧
      let v : Warp := { w with txs := w.txs.map fun z => if z.lane = l then y else z }
      (32 < v.txLines.length → after = doomed w 1) ∧
      (v.txLines.length ≤ 32 →
        (∀ win, (∃ z ∈ v.txs, z.lane = win ∧ z.doom = none ∧ win < l ∧ Clashes z y) →
          (∀ z ∈ v.txs, z.doom = none → z.lane < win → ¬Clashes z y) → after = doomed w (BitVec.ofNat 64 (2 + win * 2 ^ 16))) ∧
        ((∀ z ∈ v.txs, z.doom = none → z.lane < l → ¬Clashes z y) → ∃ txs : List Tx, after = { v with txs := txs } ∧
          txs.length = v.txs.length ∧ ∀ (n : Nat) (z : Tx), v.txs[n]? = some z → ∃ z' : Tx, txs[n]? = some z' ∧
            ((∃ c ∈ v.txs, c.lane = z.lane ∧ c.doom = none ∧ l < c.lane ∧ Clashes c y) → z.doom = none →
              z' = { z with doom := some (BitVec.ofNat 64 (2 + l * 2 ^ 16)) }) ∧
            ((∀ c ∈ v.txs, c.lane = z.lane → c.doom = none → l < c.lane → ¬Clashes c y) ∨ z.doom ≠ none → z' = z))))) ∧
  (∀ (s : State) (u : U) (x : Tx) (t : Touch), t.past = none → 1 ≤ t.size →
    (∀ k, t.key ≤ k → k < t.key + t.size → ∀ it ∈ x.writes, ¬covers it k) →
    x.returned u s t = [⟨t.key, t.size, BitVec.ofNat 64 ((if t.fresh then u.homeView s t.key else u.view s t.key).read t.key t.size),
      if t.tr.tagged = true then some ((if t.fresh then u.homeView s t.key else u.view s t.key).tag t.key) else none⟩]) ∧
  ∀ (s : State) (u : U) (w : Warp) (x : Tx) (code : W64), u.active = [x.lane] → w.tx? x.lane = some x → x.doom = some code → w.id = u.w.id → w.nregs = u.w.nregs →
    u.doneTx s w = abortedAt s u w [x] x.target code

/-- R198 to R202, R234 to R237, R239: transactions. Model's choices: log entries 95, 109. -/
def Obligations.Transactions : Prop :=
  Sys2Proof.Slice0.TransactionControl ∧ Sys2Proof.Slice0.TransactionAccesses ∧ Sys2Proof.Slice0.TransactionFootprint

/-! ## Engine commands and timelines -/

namespace Sys2Proof.Slice0

/-- An engine command as its rules give it: guard, timeline, engine (any for TLSIG), a scope it is bound to, its scalar operands, its
checks and operation, and the register that receives its number. -/
structure CommandForm where
  guard : Guard
  tl : Reg
  engine : Option Nat
  scope : Option Nat
  srcs : List Reg
  form : State → U → CmdForm
  num : Option Reg

/-- The checks and the operation of ACPY (R240, R242): memory operands lie on device or fabric pages; a copy of a speculative task to
another slot waits. -/
def copyForm (u : U) (dir : CopyDir) (src dst cnt : W64) : CmdForm :=
  let n := cnt.toNat
  let away := decide (u.t.spec = .running) && decide (dst.toNat / 2 ^ 19 ≠ u.t.core % 64)
  let mem := fun (w : Bool) (a : W64) => (⟨[.device, .fabric], w, a, n⟩ : Extent)
  let win := fun (a : W64) => (⟨false, a, n⟩ : WinExtent)
  let (ws, xs, h) := match dir with
    | .m2s => ([win dst], [mem false src], away)
    | .s2m => ([win src], [mem true dst], false)
    | .s2s => ([win src, win dst], [], away)
    | .m2m => ([], [mem false src, mem true dst], false)
  ⟨decide (2 ^ 24 < n), [(src, 8), (dst, 8)], [(n, 8)], [], ws, xs, h, .acpy dir src dst cnt⟩

/-- The slots to which AMCAST copies (R243). -/
def castSlots (u : U) (mask : W64) : List Nat := (List.range 64).filter fun k => mask.getLsbD k && decide (k ≠ u.t.core % 64)

/-- The checks and the operation of AMCAST (R243). -/
def castForm (u : U) (src mask cnt : W64) : CmdForm :=
  let n := cnt.toNat
  ⟨decide (2 ^ 24 < n), [], [(n, 32)], [],
    ⟨true, src, n⟩ :: (castSlots u mask).map fun k => ⟨false, BitVec.ofNat 64 (k * 2 ^ 19 + src.toNat % 2 ^ 19), n⟩, [],
    decide (u.t.spec = .running) && decide (castSlots u mask ≠ []), .amcast src mask cnt⟩

/-- The checks of AGATH and ASCAT (R244): 1 to 65,536 elements of 2^esz bytes, the index array and the elements in the own slot. -/
def indexedForm (esz : BitVec 2) (base idx pad cnt : W64) (op : EngOp) : CmdForm :=
  let n := cnt.toNat
  let z := 2 ^ esz.toNat
  ⟨decide (n = 0) || decide (65536 < n), [(base, z), (idx, 4), (pad, z)], [], [], [⟨true, idx, 4 * n⟩, ⟨true, pad, z * n⟩], [], false, op⟩

/-- The checks and the operation of HCPY (R245): in a speculative task it waits. -/
def hostForm (u : U) (dir : HDir) (src dst cnt : W64) : CmdForm :=
  let n := cnt.toNat
  let ext := fun (k : PageKind) (w : Bool) (a : W64) => (⟨[k], w, a, n⟩ : Extent)
  let win := fun (a : W64) => (⟨true, a, n⟩ : WinExtent)
  let (ws, xs) := match dir with
    | .h2d => ([], [ext .host false src, ext .device true dst])
    | .d2h => ([], [ext .device false src, ext .host true dst])
    | .h2s => ([win dst], [ext .host false src])
    | .s2h => ([win src], [ext .host true dst])
  ⟨decide (2 ^ 24 < n), [(src, 64), (dst, 64)], [(n, 64)], [], ws, xs, decide (u.t.spec = .running), .hcpy dir src dst cnt⟩

/-- The bytes of an element of ACOLL (R246). -/
def collWidth : CollTy → Nat
  | .f32 => 4
  | .bf16 => 2
  | .int => 8

/-- The checks and the operation of ACOLL (R246): 1 to 2^22 elements; a group id for .dom alone, one that the context's table names. -/
def foldForm (s : State) (u : U) (dom : Bool) (op : CollOp) (ty : CollTy) (src dst cnt : W64) : CmdForm :=
  let n := (cnt.extractLsb' 0 32).toNat
  let gid := (cnt.extractLsb' 32 16).toNat
  let bytes := n * collWidth ty
  ⟨decide (n = 0) || decide (2 ^ 22 < n) || decide (cnt.extractLsb' 48 16 ≠ 0) || (!dom && decide (gid ≠ 0)) ||
      (dom && (s.group u.t.ctx gid).isNone),
    [], [], [], if dom then [] else [⟨true, src, bytes⟩, ⟨true, dst, bytes⟩],
    if dom then [⟨[.device], false, src, bytes⟩, ⟨[.device], true, dst, bytes⟩] else [],
    decide (u.t.spec = .running), .acoll dom op ty src dst n gid (if dom then Table.get 0 u.t.dcolls gid else u.t.colls)⟩

/-- The engine commands (R168, R169, R242 to R246, R249). -/
def commandForm : Instr → Option CommandForm
  | .acpy g dir d a b c => some ⟨g, d, some 0, none, [a, b, c], fun _ u => copyForm u dir (u.pS a) (u.pS b) (u.pS c), none⟩
  | .amcast g d a b c => some ⟨g, d, some 0, none, [a, b, c], fun _ u => castForm u (u.pS a) (u.pS b) (u.pS c), none⟩
  | .agath g esz d a b c => some ⟨g, d, some 1, none, [a, b, c, c + 1], fun _ u =>
      indexedForm esz (u.pS a) (u.pS b) (u.pS c) (u.pS (c + 1)) (.agath esz.toNat (u.pS a) (u.pS b) (u.pS c) (u.pS (c + 1))), none⟩
  | .ascat g esz d a b c => some ⟨g, d, some 1, none, [a, b, c, c + 1], fun _ u =>
      indexedForm esz (u.pS a) (u.pS b) (u.pS c) (u.pS (c + 1)) (.ascat esz.toNat (u.pS a) (u.pS b) (u.pS c) (u.pS (c + 1))), none⟩
  | .hcpy g dir d a b c => some ⟨g, d, some 2, some 6, [a, b, c], fun _ u => hostForm u dir (u.pS a) (u.pS b) (u.pS c), none⟩
  | .acoll g dom op ty d a b c => some ⟨g, d, some 3, if dom then some 5 else none, [a, b, c], fun s u =>
      foldForm s u dom op ty (u.pS a) (u.pS b) (u.pS c), none⟩
  | .tlsig g d a => some ⟨g, d, none, none, [], fun _ u => .plain (.tlsig (u.sp.acc.map fun x => x.id)), some a⟩
  | .sxpd g f d a b c => some ⟨g, d, some 0, none, [a, b, b + 1, c], fun _ u =>
      let x : SDesc := ⟨u.pS b, u.pS (b + 1)⟩
      { CmdForm.plain (.sxpd f (u.pS a) x (u.pS c)) with
        illegal := x.illegal [canonKind f] true
        aligned := [(u.pS a, 8)]
        descs := [x]
        extents := tensorExtents f x false (u.pS a) (u.pS c)
        hold := u.speculative && decide (x.base / 2 ^ 19 ≠ u.t.core % 64) }, none⟩
  | .spack g f d a b c => some ⟨g, d, some 0, none, [a, a + 1, b, c], fun _ u =>
      let x : SDesc := ⟨u.pS a, u.pS (a + 1)⟩
      { CmdForm.plain (.spack f x (u.pS b) (u.pS c)) with
        illegal := x.illegal [0, 1, 2, 3] false || ((gxOf f).isSome && decide (u.pS c ≠ 0))
        aligned := [(u.pS b, 8)]
        descs := [x]
        extents := tensorExtents f x true (u.pS b) (u.pS c) }, none⟩
  | _ => none

/-- An engine context with a command started, what its sources hold kept (R197, R240). -/
def started (s : State) (e : EngCtx) (n : Nat) : EngCtx :=
  { e with cmds := e.cmds.map fun y => if y.num = n then { y with started := true, seen := some s.snap } else y }

/-- The task after a command: numbered, and for ACOLL counted among the collectives of its reach (R246). -/
def counted (i : Instr) (u : U) (t : Task) : Task :=
  match i with
  | .acoll _ dom _ _ _ _ _ c =>
    let gid := bits (u.pS c) 47 32
    if dom then { t with dcolls := Table.put 0 t.dcolls gid (Table.get 0 t.dcolls gid + 1) } else { t with colls := t.colls + 1 }
  | _ => t

/-- A task after TLBIND (R247): the name bound, and for every other warp of the task the binding that it may go on seeing until a barrier. -/
def boundBy (s : State) (u : U) (d : Reg) (k : Nat) (t : Task) : Task :=
  { t with
    tl := Table.put none t.tl d.toNat (some k)
    olds := (t.olds.filter fun x => !(x.warp == u.w.id && x.name == d.toNat)) ++
      if t.bound d = some k then []
      else (s.warps.filter fun w => w.task == u.t.id && w.id != u.w.id).map fun w => ⟨w.id, d.toNat, u.w.id, t.bound d⟩ }

/-- The timeline instructions (R247, R248, R250), where they neither trap nor wait. A launch's notifications are no commands (R301). -/
def timelineForm : Instr → Option OnceForm
  | .tlbind g d a => some ⟨g, [], [a], fun s u =>
      let x := (u.w.getS a).pay
      let k := (x.extractLsb' 0 3).toNat * 4 + (x.extractLsb' 4 2).toNat
      let e := u.t.engCtx k
      if 3 < (x.extractLsb' 0 3).toNat ∨ x.getLsbD 3 = true ∨ x.extractLsb' 6 2 ≠ 0 ∨ x.extractLsb' 9 55 ≠ 0 then none
      else if x.getLsbD 8 = true ∧ e.failed ≠ none then
        if e.cmds.any fun c => c.started && !c.done && !c.isNote then none
        else some (u.skip (s.onTask u.t.id fun t => (boundBy s u d k t).setEng k ⟨e.last, e.last, none, []⟩))
      else some (u.skip (s.onTask u.t.id (boundBy s u d k)))⟩
  | .tlwait g d a => some ⟨g, [], [a], fun s u =>
      (u.bound s d).bind fun k =>
        let e := u.t.engCtx k
        let n := (u.w.getS a).pay.toNat
        let early := match e.failed with | some f => decide (n < f.1) | none => true
        if n ≤ e.counter ∧ (∀ c ∈ e.cmds, c.done = true ∨ n < c.num) ∧ early = true then some (u.skip (s.fenceL1 u.t.core false true 7))
        else none⟩
  | .tlread g d a => some ⟨g, [], [], fun s u => (u.bound s a).bind fun k => sout s u d (natWord (u.t.engCtx k).counter)⟩
  | .acancel g d a => some ⟨g, [], [a], fun s u =>
      (u.bound s d).bind fun k =>
        let e := u.t.engCtx k
        let n := (u.w.getS a).pay.toNat
        let hit := fun (c : EngCmd) => decide (n < c.num) && !c.started && !c.done && !c.isNote
        if (s.tasks.find? fun t => t.id == u.t.id) = some u.t then
          some ((e.cmds.filter hit).foldl (fun s c => s.completeAcc c.acc)
            ((u.skip s).onTask u.t.id fun t => t.setEng k (EngCtx.advance { e with
              cmds := e.cmds.map fun c => if hit c then { c with done := true, started := true } else c })))
        else none⟩
  | _ => none

/-- What an engine command needs before its checks of R240. -/
structure CommandReady (s : State) (u : U) (i : Instr) (f : CommandForm) (k : Nat) : Prop where
  wf : i.wf = true
  form : commandForm i = some f
  some_ : u.acting f.guard ≠ []
  hint : ScopeOk s u
  scope : ∀ sc, f.scope = some sc → sc ≤ (s.ctx u.t.ctx).scopeLimit
  clean : CleanS u f.srcs
  bound : u.bound s f.tl = some k
  engine : f.engine = none ∨ f.engine = some (k / 4)

/-- The address at which page j of a memory extent is checked. -/
def pageVa (x : Extent) (j : Nat) : W64 := if j = 0 then x.addr else BitVec.ofNat 64 ((x.addr.toNat / 65536 + j) * 65536)

/-- The number of pages of a memory extent. -/
def pageCount (x : Extent) : Nat := if x.bytes = 0 then 0 else (x.addr.toNat + x.bytes - 1) / 65536 + 1 - x.addr.toNat / 65536

/-- A page of a memory extent that the command may use. -/
def PageOk (s : State) (u : U) (x : Extent) (j : Nat) : Prop :=
  ∃ tr k, s.mapped u.t.ctx u.sp.pl (if x.write then .write else .read) (pageVa x j) = .ok (tr, k) ∧ tr.kind ∈ x.kinds

/-- A window extent that leaves its allocation, or the task's own where that is asked (R137, R240). -/
def OutOfWindow (s : State) (u : U) (x : WinExtent) : Prop :=
  x.bytes ≠ 0 ∧ ∀ y o, s.window u.t x.addr x.bytes = some (y, o) → x.own = true ∧ y.id ≠ u.t.id

end Sys2Proof.Slice0

/-- R195, R240, R241, R246: an engine command that passes its checks and neither waits nor finds its queue full is numbered: last + 1 on
the context its timeline is bound to, one access of path 4 in flight, its operands and translations kept; on a failed context it takes
its number and has no effect. TLSIG writes the number. No byte of memory or scratchpad changes yet. -/
def Obligations.CommandsIssue : Prop :=
  ∀ (s : State) (u : U) (i : Instr) (f : CommandForm) (k : Nat) (trs : List (Nat × Trans)),
    s.unit? = some u → CommandReady s u i f k → u.w.txs = [] →
    s.cmdChecks u (f.form s u) = .ok trs → (f.form s u).hold = false → u.sp.count 4 < 4095 →
    ((u.t.engCtx k).cmds.filter fun c => !c.done && !c.isNote).length < 64 →
    let e := u.t.engCtx k
    let num := fun (w : Warp) => match f.num with | some r => w.setS r (natWord (e.last + 1)) | none => w
    (e.failed = none → ∃ t, exec i s = .next (u.done t (num (u.addAcc u.w s.nextId 4))) ∧ t = { s with
      tasks := s.tasks.map fun x => if x.id = u.t.id then counted i u (x.setEng k { e with
        last := e.last + 1, cmds := e.cmds ++ [⟨e.last + 1, (f.form s u).op, s.nextId, u.sp.pl, false, false, trs, none, none, s.nowNs⟩] }) else x
      nextId := s.nextId + 1
      tlb := t.tlb
      parts := t.parts }) ∧
    (e.failed ≠ none → exec i s = .next (u.done { s with
      tasks := s.tasks.map fun x => if x.id = u.t.id then counted i u (x.setEng k { e with last := e.last + 1 }) else x } (num u.w)))

/-- R240, R242 to R246: what each command checks at issue, in order: out of range ILLEGAL with KIND 2; then ALIGN, of an address with that
address, else of a descriptor or a count; then SCRATCH_BOUNDS of the first window extent outside its allocation, else of a descriptor; then
MEM_FAULT or a stage-2 fault of the first page of the first memory extent that it may not use. Model's choice: log entry 46. -/
def Obligations.CommandChecks : Prop :=
  ∀ (s : State) (u : U) (i : Instr) (f : CommandForm) (k : Nat), s.unit? = some u → CommandReady s u i f k →
    let p := f.form s u
    let bent := fun (x : W64 × Nat) => x.1.toNat % x.2 ≠ 0
    let even := (∀ x ∈ p.aligned, ¬bent x) ∧ (∀ d ∈ p.descs, d.misaligned = false) ∧ ∀ x ∈ p.counts, x.1 % x.2 = 0
    let fit := (∀ x ∈ p.windows, ¬OutOfWindow s u x) ∧ ∀ d ∈ p.descs, (s.descTask u.t d).isSome = true
    let trap := fun (code kind : Nat) (w : Bool) (va : W64) => s.raise u ⟨code, kind, false, w, false, 0, u.pa.mask, va⟩
    (p.illegal = true → exec i s = .next (trap 16 2 false 0)) ∧
    (p.illegal = false →
      (∀ pre x post, p.aligned = pre ++ x :: post → (∀ y ∈ pre, ¬bent y) → bent x → exec i s = .next (trap 20 0 false x.1)) ∧
      ((∀ x ∈ p.aligned, ¬bent x) → (∃ d ∈ p.descs, d.misaligned = true) ∨ (∃ x ∈ p.counts, x.1 % x.2 ≠ 0) →
        ∃ (t : State) (va : W64), exec i s = .next (t.raise u (mkTrap 20 0 u.pa.mask va)) ∧ t = { s with tick := t.tick }) ∧
      (even → ∀ pre x post, p.windows = pre ++ x :: post → (∀ y ∈ pre, ¬OutOfWindow s u y) → OutOfWindow s u x →
        exec i s = .next (trap 18 0 false x.addr)) ∧
      (even → (∀ x ∈ p.windows, ¬OutOfWindow s u x) → ∀ d ds, p.descs = d :: ds → (s.descTask u.t d).isNone = true →
        exec i s = .next (trap 18 0 false (BitVec.ofNat 64 d.base))) ∧
      (even → fit → ∀ x xs j, p.extents = x :: xs → j < pageCount x → (∀ m < j, PageOk s u x m) →
        let va := pageVa x j
        let at_ := s.mapped u.t.ctx u.sp.pl (if x.write then .write else .read) va
        (∀ tr key, at_ = .ok (tr, key) → tr.kind ∉ x.kinds → exec i s = .next (trap 19 9 x.write va)) ∧
        (at_ = .error .wide → exec i s = .next (trap 19 2 x.write va)) ∧
        (∀ n, at_ = .error (.stage1 n) → exec i s = .next (trap 19 n x.write va)) ∧
        (∀ g, at_ = .error (.stage2 g) → exec i s = .next (s.stage2Wait u g (if x.write then 1 else 0) va u.pa.mask))))

/-- R247, R248, R250: TLBIND binds a timeline and with RESET ends a failed state; TLWAIT at or below the counter passes as an acquire once the
writes it counts have been made; TLREAD writes the counter; ACANCEL completes the later commands that have not started, with no effect. -/
def Sys2Proof.Slice0.TimelineResults : Prop := CompletesOnce timelineForm

/-- R241, R248, R246: TLWAIT at or beyond the failing number of a failed context raises MEM_FAULT with KIND 10 and the failing address, for a
mismatched collective ILLEGAL with KIND 3; below it, above the counter or before the writes it counts, it waits at its boundary. -/
def Sys2Proof.Slice0.TimelineFailure : Prop :=
  ∀ (s : State) (u : U) (g : Guard) (d a : Reg) (k : Nat), s.unit? = some u → u.acting g ≠ [] → CleanS u [a] → u.bound s d = some k →
    let e := u.t.engCtx k
    let n := (u.w.getS a).pay.toNat
    (∀ m va, e.failed = some (m, va, false) → m ≤ n → exec (.tlwait g d a) s = .next (s.raise u (mkTrap 19 10 u.pa.mask va))) ∧
    (∀ m va, e.failed = some (m, va, true) → m ≤ n → exec (.tlwait g d a) s = .next (s.raise u (mkTrap 16 3 u.pa.mask 0))) ∧
    ((∀ f, e.failed = some f → n < f.1) → e.counter < n ∨ (∃ c ∈ e.cmds, c.done = false ∧ c.num ≤ n) →
      exec (.tlwait g d a) s = .next (u.hold s))

/-- R247: a use of a name finds its binding, or freely an earlier one that its warp may still see: none where that warp bound the name itself,
or has passed a barrier since. -/
def Sys2Proof.Slice0.BoundNames : Prop :=
  ∀ (s : State) (u : U) (d : Reg),
    let old := u.t.olds.filter fun x => x.warp == u.w.id && x.name == d.toNat
    (old = [] → u.bound s d = u.t.bound d) ∧ (u.bound s d = u.t.bound d ∨ ∃ x ∈ old, u.bound s d = x.old) ∧
    ∀ (v : State) (k : Nat), let t := boundBy v u d k u.t
      t.bound d = some k ∧ (∀ e : Reg, e ≠ d → t.bound e = u.t.bound e) ∧ (∀ x ∈ t.olds, ¬(x.warp = u.w.id ∧ x.name = d.toNat))

/-- R241, R246 to R248, R250: TLBIND, TLWAIT, TLREAD and ACANCEL, and a failed context. Model's choices: log entries 44, 45, 48, 109. -/
def Obligations.Timelines : Prop :=
  Sys2Proof.Slice0.TimelineResults ∧ Sys2Proof.Slice0.TimelineFailure ∧ Sys2Proof.Slice0.BoundNames

namespace Sys2Proof.Slice0

/-- What a command reads is as it was when it started (R197), none of its core's lines is dirty, and its task holds no speculative store. -/
structure Still (s : State) (t : Task) (c : EngCmd) : Prop where
  same : s.back c.seen = s
  clean : ∀ x ∈ s.l1, x.core = t.core → x.isDirty = false
  plain : t.specStores = []

/-- The byte that a transfer finds at a virtual address, in memory or in the cohort window, with the address and the origin of its
poison (R391). -/
def sourceAt (s : State) (t : Task) (trs : List (Nat × Trans)) (mem : Bool) (va : Nat) : SByte :=
  if mem then
    match trs.find? fun x => x.1 == va / 65536 with
    | some x =>
      let k := x.2.base + va % 65536
      if x.2.tagged = true ∧ s.mem.tag k = .poison then ⟨0, some (va, bits (s.mem.word (k / 8 * 8)).pay 3 0)⟩
      else if x.2.tagged = false ∧ s.mem.marked k = true then ⟨0, some (va, 3)⟩
      else ⟨s.mem.byte k, none⟩
    | none => ⟨0, none⟩
  else
    match s.slotTask t (va / 2 ^ 19) with
    | some x => if x.smark (va % 2 ^ 19) then ⟨0, some (va, 4)⟩ else ⟨x.sbyte (va % 2 ^ 19), none⟩
    | none => ⟨0, none⟩

/-- The values of some source bytes as a little-endian number. -/
def sourceNum (s : State) (t : Task) (trs : List (Nat × Trans)) (mem : Bool) (va n : Nat) : Nat :=
  numLE ((List.range n).map fun k => (sourceAt s t trs mem (va + k)).val)

/-- Clean bytes laid from an address on. -/
def laid (a : Nat) (bs : List Byte) : ByteRun := bs.mapIdx fun k b => (a + k, ⟨b, none⟩)

/-- The source bytes of an extent, laid from an address on. -/
def moved (s : State) (t : Task) (trs : List (Nat × Trans)) (mem : Bool) (src dst n : Nat) : ByteRun :=
  (List.range n).map fun i => (dst + i, sourceAt s t trs mem (src + i))

/-- A window extent lies in one slot that holds an allocation. -/
def InSlot (s : State) (t : Task) (va n : Nat) : Prop := (s.slotTask t (va / 2 ^ 19)).isSome = true ∧ va % 2 ^ 19 + n ≤ 2 ^ 19

/-- A copy between two places (R242, R245): whether its source and its destination are in memory, and its operands. -/
def copyOf : EngOp → Option (Bool × Bool × Nat × Nat × Nat)
  | .acpy .m2s a b n => some (true, false, a.toNat, b.toNat, n.toNat)
  | .acpy .s2m a b n => some (false, true, a.toNat, b.toNat, n.toNat)
  | .acpy .s2s a b n => some (false, false, a.toNat, b.toNat, n.toNat)
  | .acpy .m2m a b n => some (true, true, a.toNat, b.toNat, n.toNat)
  | .hcpy .h2d a b n | .hcpy .d2h a b n => some (true, true, a.toNat, b.toNat, n.toNat)
  | .hcpy .h2s a b n => some (true, false, a.toNat, b.toNat, n.toNat)
  | .hcpy .s2h a b n => some (false, true, a.toNat, b.toNat, n.toNat)
  | _ => none

/-- The address of element e of AGATH or ASCAT, from its 32-bit index (R244). -/
def indexedVa (s : State) (t : Task) (esz : Nat) (base idx : W64) (e : Nat) : W64 :=
  base + BitVec.ofNat 64 (sourceNum s t [] false (idx.toNat + 4 * e) 4 * 2 ^ esz)

/-- An element's index is not poisoned. -/
def IndexClean (s : State) (t : Task) (idx : W64) (e : Nat) : Prop := ∀ k < 4, (sourceAt s t [] false (idx.toNat + 4 * e + k)).bad = none

/-- The translation of an element's address where it has one on a page that is not a host page (R241, R244). -/
def ElementOk (s : State) (t : Task) (pl : Nat) (k : AccKind) (va : W64) (tr : Trans) : Prop :=
  ∃ key, s.translate t.ctx pl k va = .ok (tr, key) ∧ tr.kind ≠ .host

/-- The exact value of element j of the storage row at an address (R100, R101, R153). -/
def rowValue (s : State) (t : Task) (trs : List (Nat × Trans)) (f : TFmt) (row j : Nat) : FVal :=
  match gxOf f with
  | some g => gxValue g (sourceNum s t trs true (row + j / 16 * g.bytes) g.bytes) (j % 16)
  | none => let n := (storeSpec f).width / 8; decodeF (storeSpec f) (sourceNum s t trs true (row + j * n) n)

/-- The bytes of a storage row of 64 values (R156, R159): a GX block from sixteen of them, else one rounding each, saturating for E4M3 and E5M2. -/
def packedRow (f : TFmt) (xs : List FVal) : List Byte :=
  match gxOf f with
  | some g => (List.range 4).flatMap fun b => bytesLE (quantizeGX g ((xs.drop (16 * b)).take 16)) g.bytes
  | none => xs.flatMap fun x =>
      bytesLE (roundFmt (storeSpec f) .rn (decide (f = .e4m3) || decide (f = .e5m2)) false x) ((storeSpec f).width / 8)

/-- The tiles, rows and columns of a descriptor, in order. -/
def rowsOf (d : SDesc) : List (Nat × Nat) := (List.range d.count).flatMap fun tile => (List.range d.rows).map fun i => (tile, i)

/-- What SXPD writes (R155): each element scaled by its row's byte, rounded to the descriptor's kind at its place. -/
def expanded (s : State) (t : Task) (trs : List (Nat × Trans)) (f : TFmt) (src : W64) (d : SDesc) (scale : W64) : ByteRun :=
  (rowsOf d).flatMap fun r => (List.range 64).flatMap fun j =>
    let v := rowValue s t trs f (src.toNat + (r.1 * 64 + r.2) * storeBytes f) j
    let sc := sourceNum s t trs true (scale.toNat + r.1 * 64 + r.2) 1
    let x := if scale = 0 then v else if sc = 255 then .nan else scaleVal v ((sc : Int) - 127)
    laid (elementAddress d r.1 r.2 j % 2 ^ 19) (bytesLE (roundFmt (kindSpec d.kind) .rn false false x) (elemBytes d.kind))

/-- The exact values of a row of a descriptor (R139, R156). -/
def padRow (x : Task) (d : SDesc) (tile i : Nat) : List FVal :=
  (List.range 64).map fun j => decodeF (kindSpec d.kind)
    (x.sread (elementAddress d tile i j % 2 ^ 19) (elemBytes d.kind) % 2 ^ (kindSpec d.kind).width)

/-- The scale of a row (R156): 127 without a scale array. -/
def rowScale (f : TFmt) (scale : W64) (xs : List FVal) : Nat := if scale = 0 then 127 else packScale f xs

/-- One step of a collective's fold (R118, R246). -/
def foldStep (op : CollOp) (ty : CollTy) (x y : Nat) : Nat :=
  let flt := fun (f : FSpec) =>
    let a := decodeF f x
    let b := decodeF f y
    match op with
    | .add => roundFmt f .rn false false (a.add .rn b)
    | .min => roundFmt f .rn false false (a.min b)
    | .max => roundFmt f .rn false false (a.max b)
  match ty, op with
  | .f32, _ => flt .f32
  | .bf16, _ => flt .bf16
  | .int, .add => (x + y) % 2 ^ 64
  | .int, .min => if (BitVec.ofNat 64 x).toInt ≤ (BitVec.ofNat 64 y).toInt then x else y
  | .int, .max => if (BitVec.ofNat 64 x).toInt ≤ (BitVec.ofNat 64 y).toInt then y else x

/-- Element e of a participant's source. -/
def partElem (ty : CollTy) (src : List SByte) (e : Nat) : Nat :=
  numLE (((src.drop (e * collWidth ty)).take (collWidth ty)).map fun b => b.val)

end Sys2Proof.Slice0

/-- R195, R197, R240, R241, R249: ENGINE_COMMAND_START starts the next command of a context that is not halted, on a core with room for a request that
no frozen save keeps (R18, R363), where the command has every page it needs and the crossbar passes its packets (R306), and keeps what its
sources hold; its lines are then at their homes and the tags of its pages taken.
ENGINE_COMMAND_COMPLETE of a TLSIG counts it once no access before it is pending, of any other command moves its bytes, before or
behind the timeline's count; ENGINE_COMMAND_FAIL fails the context of a started command that can meet a link error. -/
def Sys2Proof.Slice0.EngineSteps : Prop :=
  ∀ (s : State) (tid k : Nat) (t : Task) (c : EngCmd) (va : W64), s.task? tid = some t →
    (∀ dom op ty a b n gid q, c.op ≠ .acoll dom op ty a b n gid q) →
    ((s.ctx t.ctx).halted = false → (∀ x ∈ s.tasks, x.core = t.core → (s.ctx x.ctx).saveState ≠ 4) → s.requests t.core < 2048 →
      t.nextCmd k = some c → (t.engCtx k).cmds.find? (fun x => x.num == c.num) = some c → lostAddress c = none → s.refusedPage t.ctx c = none →
      let v := (s.visitLines t.ctx (s.cmdLines t c)).takeAll t.ctx c.trs
      exec (.engineCommandStart tid k) s =
        .next { v with tasks := v.tasks.map fun x => if x.id = tid then x.setEng k (started v (x.engCtx k) c.num) else x }) ∧
    (t.cmd? k c.num = some c → c.started = true →
      (∀ ids, c.op = .tlsig ids → (∀ id ∈ ids, s.pending id = false) →
        exec (.engineCommandComplete tid k c.num) s = .next ((s.fenceL1 t.core true false 4).finishCmd tid k c)) ∧
      (∀ ids, c.op = .tlsig ids → (∃ id ∈ ids, s.pending id = true) → exec (.engineCommandComplete tid k c.num) s = .next s) ∧
      (c.isNote = false → (∀ ids, c.op ≠ .tlsig ids) → t.spec ≠ .running →
        (∀ runs, c.late = some runs →
          exec (.engineCommandComplete tid k c.num) s = .next ((s.applyRuns tid c.trs runs).finishCmd tid k c)) ∧
        (c.late = none →
          let w := s.cmdWrites t c
          let trs := s.cmdTrans t c
          ∃ z : State, z = { s with tick := z.tick, tlb := z.tlb, parts := z.parts } ∧
            (w.fail = none →
              exec (.engineCommandComplete tid k c.num) s = .next ((z.applyRuns tid trs w.runs).finishCmd tid k c) ∨
              exec (.engineCommandComplete tid k c.num) s = .next (z.countCmd tid k c.num trs w.runs)) ∧
            (∀ a, w.fail = some a →
              exec (.engineCommandComplete tid k c.num) s = .next ((z.applyRuns tid trs w.runs).failCtx tid k c a false)))) ∧
      (c.remote = true → c.late = none → (t.engCtx k).failed = none →
        ∃ (z : State) (x : Task), exec (.engineCommandFail tid k c.num va) s = .next z ∧
          z.task? tid = some x ∧ (x.engCtx k).failed = some (c.num, va, false)))

/-- R240, R242, R243, R245: the bytes that a copy and AMCAST write: each destination byte is its source byte, with its poison. Where the
two extents of a copy overlap R240 leaves them open. -/
def Sys2Proof.Slice0.CopyRuns : Prop :=
  ∀ (s : State) (t : Task) (c : EngCmd), Still s t c →
    (∀ fm tm a b n, copyOf c.op = some (fm, tm, a, b, n) → ¬(fm = tm ∧ a < b + n ∧ b < a + n) → (fm = false → InSlot s t a n) →
      (tm = true → s.cmdWrites t c = ⟨[(.mem, moved s t c.trs fm a b n)], none⟩) ∧
      (tm = false → ∀ x, s.slotTask t (b / 2 ^ 19) = some x → s.cmdWrites t c = ⟨[(.slot x.id, moved s t c.trs fm a (b % 2 ^ 19) n)], none⟩)) ∧
    (∀ a m n : W64, c.op = .amcast a m n → InSlot s t a.toNat n.toNat →
      s.cmdWrites t c = ⟨((List.range 64).filter fun k => m.getLsbD k && decide (k ≠ t.core % 64)).flatMap fun k =>
        match s.slotTask t k with
        | some x => [(.slot x.id, moved s t [] false a.toNat (a.toNat % 2 ^ 19) n.toNat)]
        | none => [], none⟩)

/-- R241, R244: AGATH moves each element from its index's address to its place; a poisoned index poisons the element; the first address
that has no translation, lies on a host page, or finds no room for its tags beside those of the elements before (R308), fails the command
behind those elements. ASCAT stores each element at its index's
address where no two meet. -/
def Sys2Proof.Slice0.IndexedRuns : Prop :=
  ∀ (s : State) (t : Task) (c : EngCmd) (esz : Nat) (base idx pad n : W64) (tr : Nat → Trans) (m : Nat), Still s t c →
    InSlot s t idx.toNat (4 * n.toNat) → m ≤ n.toNat → s.overPool t.ctx ((List.range m).map tr) = none →
    let va := indexedVa s t esz base idx
    (c.op = .agath esz base idx pad n → (∀ e < m, IndexClean s t idx e ∧ ElementOk s t c.pl .read (va e) (tr e)) →
      let run := (List.range m).flatMap fun e =>
        moved s t [((va e).toNat / 65536, tr e)] true (va e).toNat (pad.toNat % 2 ^ 19 + e * 2 ^ esz) (2 ^ esz)
      (m = n.toNat → s.cmdWrites t c = ⟨[(.slot t.id, run)], none⟩) ∧
      (m < n.toNat → IndexClean s t idx m → (∀ x, ElementOk s t c.pl .read (va m) x →
          (s.overPool t.ctx ((List.range m).map tr ++ [x])).isSome = true) →
        s.cmdWrites t c = ⟨[(.slot t.id, run)], some (va m)⟩)) ∧
    (c.op = .agath esz base idx pad n → n.toNat = 1 → ¬IndexClean s t idx 0 →
      s.cmdWrites t c = ⟨[(.slot t.id, (List.range (2 ^ esz)).map fun j => (pad.toNat % 2 ^ 19 + j, ⟨0, some (idx.toNat, 4)⟩))], none⟩) ∧
    (c.op = .ascat esz base idx pad n → m = n.toNat → InSlot s t pad.toNat (m * 2 ^ esz) →
      (∀ e < m, IndexClean s t idx e ∧ ElementOk s t c.pl .write (va e) (tr e)) →
      (∀ e < m, ∀ e' < m, e ≠ e' → (va e).toNat + 2 ^ esz ≤ (va e').toNat ∨ (va e').toNat + 2 ^ esz ≤ (va e).toNat) →
      ∃ run, s.cmdWrites t c = ⟨[(.mem, run)], none⟩ ∧ s.cmdTrans t c = c.trs ++ (List.range m).map (fun e => ((va e).toNat / 65536, tr e)) ∧
        ∀ x, x ∈ run ↔ ∃ e < m, x ∈ moved s t [] false (pad.toNat + e * 2 ^ esz) (va e).toNat (2 ^ esz))

/-- R155, R156: the bytes that SXPD and SPACK write where no source is poisoned. -/
def Sys2Proof.Slice0.ScreedRuns : Prop :=
  ∀ (s : State) (t x : Task) (c : EngCmd) (f : TFmt) (a : W64) (d : SDesc) (scale : W64), Still s t c →
    s.slotTask t (d.base / 2 ^ 19) = some x →
    (c.op = .sxpd f a d scale → (∀ va, (sourceAt s t c.trs true va).bad = none) →
      s.cmdWrites t c = ⟨[(.slot x.id, expanded s t c.trs f a d scale)], none⟩) ∧
    (c.op = .spack f d a scale → (∀ o, x.smark o = false) →
      s.cmdWrites t c = ⟨[(.mem, (rowsOf d).flatMap fun r =>
          let xs := padRow x d r.1 r.2
          laid (a.toNat + (r.1 * 64 + r.2) * storeBytes f) (packedRow f (xs.map fun v => scaleVal v (127 - (rowScale f scale xs : Int))))),
        (.mem, if scale = 0 then [] else (rowsOf d).map fun r =>
          (scale.toNat + r.1 * 64 + r.2, ⟨BitVec.ofNat 8 (rowScale f scale (padRow x d r.1 r.2)), none⟩))], none⟩)

/-- R391, R246: what the bytes of a command leave: whole words of memory as stores of 8 bytes with tag BITS on a tagged page, whole words of
scratchpad with their marks cleared, and a word with a poisoned byte poisoned whole by the lowest-addressed source; and every element of a
collective's result is the fold of its sources in their order. -/
def Sys2Proof.Slice0.RunsWritten : Prop :=
  (∀ (trs : List (Nat × Trans)) (tr : Trans) (a : Nat) (bs : List Byte), a % 8 = 0 → bs.length % 8 = 0 → a % 65536 + bs.length ≤ 65536 →
    (trs.find? fun x => x.1 == a / 65536) = some (a / 65536, tr) →
    ∃ marks : List StoreItem, (∀ it ∈ marks, it.size = 0 ∧ it.tag = none ∧ it.poison = false ∧ tr.tagged = false) ∧
      runItems trs (laid a bs) = ((List.range (bs.length / 8)).map fun w => ⟨tr.base + a % 65536 + 8 * w, 8,
        BitVec.ofNat 64 (numLE ((bs.drop (8 * w)).take 8)), if tr.tagged then some .bits else none, false⟩) ++ marks) ∧
  (∀ (t : Task) (o : Nat) (bs : List Byte), o % 8 = 0 → bs.length % 8 = 0 → ∀ p,
    (t.writeScratch (laid o bs)).sbyte p = (if o ≤ p ∧ p < o + bs.length then bs.getD (p - o) 0 else t.sbyte p) ∧
    (t.writeScratch (laid o bs)).smark p = (if o ≤ p ∧ p < o + bs.length then false else t.smark p)) ∧
  (∀ (tagged : Bool) (key : Nat) (xs : ByteRun), (∃ x ∈ xs, x.2.bad ≠ none) → ∃ x ∈ xs, ∃ a o, x.2.bad = some (a, o) ∧
    (∀ y ∈ xs, ∀ b p, y.2.bad = some (b, p) → a ≤ b) ∧
    wordItems tagged key xs = [⟨key, 8, BitVec.ofNat 64 o, if tagged then some .bits else none, true⟩]) ∧
  (∀ (op : CollOp) (ty : CollTy) (n : Nat) (src : List SByte) (srcs : List (List SByte)),
    (∀ x ∈ src :: srcs, x.length = n * collWidth ty ∧ ∀ b ∈ x, b.bad = none) →
    collFold op ty n (src :: srcs) = (List.range n).flatMap fun e =>
      (bytesLE (srcs.foldl (fun v x => foldStep op ty v (partElem ty x e)) (partElem ty src e)) (collWidth ty)).map fun b => ⟨b, none⟩)

/-- R155, R156, R195, R197, R240 to R246, R249, R391: the events of engine commands, and the bytes they move. (When a collective starts and
completes is left to R246.) Model's choices: log entries 11, 45, 50. -/
def Obligations.EngineEvents : Prop :=
  Sys2Proof.Slice0.EngineSteps ∧ Sys2Proof.Slice0.CopyRuns ∧ Sys2Proof.Slice0.IndexedRuns ∧ Sys2Proof.Slice0.ScreedRuns ∧
    Sys2Proof.Slice0.RunsWritten

/-! ## The matrix engine -/

namespace Sys2Proof.Slice0

/-- Whether a tile operation in flight, or a product that waits at a latch, names a slot of the task (R143, R149). -/
def slotNamed (s : State) (u : U) (i : Nat) : Bool :=
  (s.tiles.any fun o => o.core == u.t.core && o.slot == i) ||
  s.warps.any fun w => w.task == u.t.id && w.splits.any fun sp => sp.paths.any fun p => match p.wait with
    | .latch d _ b => d == i && b.isSome
    | _ => false

/-- The scratchpad descriptor of a pair of scalar registers (R138). -/
def pairDesc (u : U) (r : Reg) : SDesc := ⟨u.pS r, u.pS (r + 1)⟩

/-- The slot and descriptor instructions, where they neither trap nor wait (R134, R135, R164, R165, R167). -/
def slotForm : Instr → Option OnceForm
  | .talloc g d => some ⟨g, [], [], fun s u =>
      match (sortBy (fun x => x.index) u.t.slots).find? fun x => !x.allocated with
      | none => sout s u d .nil
      | some x => some (u.done (s.setTask { u.t with
          slots := u.t.slots.map fun y => if y.index = x.index then ⟨x.index, true, false, []⟩ else y })
          (u.w.setS d ⟨.tile, BitVec.ofNat 64 (x.index + (s.gen u.t.core x.index).toNat * 16 + u.t.serial.toNat * 256)⟩))⟩
  | .tfree g a => some ⟨g, [], [a], fun s u =>
      (s.liveSlot u.t (u.w.getS a)).bind fun x =>
        if slotNamed s u x.index then none
        else some (u.skip { s with
          tasks := (s.setTask { u.t with
            slots := u.t.slots.map fun y => if y.index = x.index then { x with allocated := false } else y }).tasks
          accGen := Table.put 0 s.accGen (u.t.core * 16 + x.index) (s.gen u.t.core x.index + 1) })⟩
  | .tdesc g k rot d a b => some ⟨g, [], [a, b], fun s u =>
      let x := (u.w.getS a).pay
      let y := (u.w.getS b).pay
      let kind : BitVec 4 := match k with | .c16 => 0 | .c24 => 1 | .f32 => 2 | .bf16 => 3
      let base : BitVec 32 := if x.getLsbD 25 then BitVec.ofNat 32 (x.toNat % 2 ^ 19 + u.t.core % 64 * 2 ^ 19) else (x.extractLsb' 0 25).zeroExtend 32
      let e : SDesc := ⟨(0 : BitVec 8) ++ y.extractLsb' 16 8 ++ y.extractLsb' 0 16 ++ base,
        (0 : BitVec 24) ++ y.extractLsb' 48 8 ++ kind ++ rot ++ y.extractLsb' 24 24⟩
      if x.extractLsb' 26 38 ≠ 0 ∨ y.extractLsb' 56 8 ≠ 0 ∨ e.illegal [0, 1, 2, 3] false = true ∨ e.misaligned = true then none
      else some (u.done s ((u.w.setS d ⟨.bits, e.lo⟩).setS (d + 1) ⟨.bits, e.hi⟩))⟩
  | .gangset g a => some ⟨g, [], [a], fun s u =>
      let x := (u.w.getS a).pay
      if u.w.splits.length ≤ 1 ∧ x.toNat < 2 ^ 32 ∧ s.gangValid u (x.setWidth 32) = true ∧
          (∀ w ∈ s.warps, ∀ sp ∈ w.splits, ∀ p ∈ sp.paths, p.wait.isLatch = false) then
        some (u.done s { u.w with gang := x.setWidth 32 })
      else none⟩
  | _ => none

/-- A tile operation as its rules give it: guard, the slot's register, the lane registers it names, its sources (a scalar register when
the Bool is true), whether it reads lane registers, its checks beside those of the handle, and what it does. -/
structure TileForm where
  guard : Guard
  slot : Reg
  named : List Reg
  srcs : List TileReg
  regs : Bool
  checks : CmdForm
  act : TileDo

/-- The sixteen registers of a register operand from r on (R142). -/
def sixteen (r : Reg) : List Reg := (List.range 16).map fun i => r + BitVec.ofNat 8 i
/-- The lane registers of an operand. -/
def lanesOfOperand (desc : Bool) (r : Reg) : List Reg := if desc then [] else sixteen r
/-- The sources of an operand. -/
def operandSrcs (desc : Bool) (r : Reg) : List TileReg := if desc then [(true, r), (true, r + 1)] else (sixteen r).map fun x => (false, x)

/-- MMAZ and MMA (R142, R146, R166): equal tile counts, sources of kind C16 or C24. -/
def productForm (u : U) (g : Guard) (zero ad bd : Bool) (d a b : Reg) : TileForm :=
  let x := u.tileSrc ad a
  let y := u.tileSrc bd b
  let ds := x.descs ++ y.descs
  ⟨g, d, lanesOfOperand ad a ++ lanesOfOperand bd b, (true, d) :: operandSrcs ad a ++ operandSrcs bd b, !ad || !bd,
    { CmdForm.plain (.tlsig []) with
      illegal := x.illegal || y.illegal || x.count != y.count
      descs := ds },
    .product zero x y⟩

/-- The checks of one copy of a drain (R158): an aligned extent of memory, or a destination descriptor of some kinds with COUNT 1. -/
def drainChecks (mem : Bool) (kinds : List Nat) (f : TFmt) (addr : W64) (x : SDesc) : CmdForm :=
  if mem then { CmdForm.plain (.tlsig []) with aligned := [(addr, 128)], extents := [⟨allKinds, true, addr, 64 * storeBytes f⟩] }
  else { CmdForm.plain (.tlsig []) with illegal := x.illegal kinds true || x.count != 1, descs := [x] }

/-- The kind of descriptor that holds a drain's format: F32 or BF16 (R158). -/
def padKinds (f : TFmt) : List Nat := if f = .f32 then [2] else if f = .bf16 then [3] else []

/-- The scalar registers of a drain's destination. -/
def dstRegs (mem : Bool) (r : Reg) : List TileReg := if mem then [(true, r)] else [(true, r), (true, r + 1)]

/-- A drain's destination. -/
def dstOf (mem : Bool) (f : TFmt) (addr : W64) (x : SDesc) : DrainDst := if mem then .memory addr f else .scratch x f

/-- The tile operations (R158 to R161, R166, R170, R171). -/
def tileIssueForm (u : U) : Instr → Option TileForm
  | .mmaz g ad bd d a b => some (productForm u g true ad bd d a b)
  | .mma g ad bd d a b => some (productForm u g false ad bd d a b)
  | .drain g f mem d a => some ⟨g, d, [], (true, d) :: dstRegs mem a, false, drainChecks mem (padKinds f) f (u.pS a) (pairDesc u a),
      .drain (dstOf mem f (u.pS a) (pairDesc u a)) none⟩
  | .drainT g f mem d a b =>
    let y := pairDesc u b
    let tf := if mem then drainFmt ((u.pS b).extractLsb' 57 3).toNat else if y.kind = 2 then .f32 else .bf16
    let ta : W64 := u.pS b &&& 0x01FFFFFFFFFFFFFF
    let p := drainChecks mem (padKinds f) f (u.pS a) (pairDesc u a)
    let q := drainChecks mem [2, 3] tf ta y
    some ⟨g, d, [], (true, d) :: dstRegs mem a ++ dstRegs mem b, false,
      { p with
        illegal := p.illegal || q.illegal || (mem && decide ((u.pS b).extractLsb' 60 4 ≠ 0))
        aligned := p.aligned ++ q.aligned
        descs := p.descs ++ q.descs
        extents := p.extents ++ q.extents },
      .drain (dstOf mem f (u.pS a) (pairDesc u a)) (some (dstOf mem tf ta y))⟩
  | .drainAdd g f mem d a =>
    let p := drainChecks mem (padKinds f) f (u.pS a) (pairDesc u a)
    some ⟨g, d, [], (true, d) :: dstRegs mem a, false,
      { p with
        illegal := p.illegal || !(f == .f32 || f == .bf16)
        extents := p.extents ++ p.extents.map fun e => { e with write := false }
        hold := u.speculative },
      .drainAdd (dstOf mem f (u.pS a) (pairDesc u a))⟩
  | .accld g d a =>
    let x := pairDesc u a
    some ⟨g, d, [], [(true, d), (true, a), (true, a + 1)], false,
      { CmdForm.plain (.tlsig []) with illegal := x.illegal [2, 3] false || x.count != 1, descs := [x] }, .accld x⟩
  | _ => none

/-- No source of a tile operation holds POISON (R142, R144). -/
def TileClean (u : U) (srcs : List TileReg) : Prop := ∀ x ∈ srcs, u.poisonLanes x = 0

/-- The exact sum of some products (R146): NaN and infinities as the rule says; a zero is +0 unless every product is −0. -/
def exactSum : List FVal → FVal
  | [] => .zero false
  | p :: ps => ps.foldl (FVal.add .rn) p

/-- One element of TileProduct (R146), from codes of the canonical elements: for each tile and each group of sixteen two roundings. -/
def productElem (f : FSpec) (tiles : Nat) (a b : Nat → Nat → Nat → Nat) (i j : Nat) (x0 : Nat) : Nat :=
  (List.range tiles).foldl (fun x t => (List.range 4).foldl (fun x g =>
    let s := exactSum ((List.range 16).map fun m => (decodeF f (a t i (16 * g + m))).mul (decodeF f (b t (16 * g + m) j)))
    roundFmt .f32 .rn false false ((decodeF .f32 x).add .rn (decodeF .f32 (roundFmt .f32 .rn false false s)))) x) x0

/-- A tile operand of some codes. -/
def tilesFrom (f : FSpec) (tiles : Nat) (a : Nat → Nat → Nat → Nat) : Tiles :=
  (List.range tiles).map fun t => ((List.range 4096).map fun e => decodeF f (a t (e / 64) (e % 64))).toArray

/-- What an MMAG needs to come to its latch (R144, R148, R149, R166). -/
structure LatchReady (s : State) (u : U) (g : Guard) (ad bd : Bool) (d a b : Reg) (low : Bool) : Prop where
  some_ : u.active ≠ []
  scope : ScopeOk s u
  lowest : low = ((gangSlots u.w.gang).head? == some u.w.slot)
  reach : Reaches u ((if low then lanesOfOperand ad a else []) ++ lanesOfOperand bd b)
  width : u.w.splits.length ≤ 1 ∧ (low = true ∧ ad = false ∨ u.acting g ≠ [] ∧ bd = false → u.w.width = 64 ∧ u.w.legacy = false)
  clean : TileClean u ((if u.acting g ≠ [] then [(true, d)] else []) ++ (if low then operandSrcs ad a else []) ++
    (if u.acting g ≠ [] then operandSrcs bd b else []))
  gang : u.w.gang ≠ 0 ∧ s.gangOk u.t.id u.w.gang = true
  room : u.sp.count 5 < 4095 ∧ s.requests u.t.core + (gangSlots u.w.gang).length ≤ 2048

end Sys2Proof.Slice0

/-- R171: ACCRD of a slot that no tile operation names writes sixteen F32 words of each acting lane's row; POISON with origin 4 from a
poisoned slot (R136). While an operation names the slot it waits. -/
def Sys2Proof.Slice0.AccumulatorRead : Prop :=
  ∀ (s : State) (u : U) (g : Guard) (d a : Reg) (blk : Byte) (x : AccSlot),
    s.unit? = some u → u.acting g ≠ [] → ScopeOk s u → Reaches u (sixteen d) → u.w.width = 64 → u.w.legacy = false → CleanS u [a] →
    s.liveSlot u.t (u.w.getS a) = some x →
    (slotNamed s u x.index = false →
      exec (.accrd g d a blk) s = .next (u.done s ((u.acting g).foldl (fun w i => (List.range 16).foldl (fun w m =>
        w.setV i (d + BitVec.ofNat 8 m) (if x.poison then ⟨.poison, 4⟩ else
          ⟨.f32, (Table.get 0 x.data (i * 64 + 16 * blk.toNat + m)).setWidth 64⟩)) w) u.w))) ∧
    (slotNamed s u x.index = true → exec (.accrd g d a blk) s = .next (u.hold s))

/-- R136, R164, R165, R167, R171: TDESC packs a descriptor; TALLOC allocates and clears the task's lowest free slot and writes its handle, NIL
without one; TFREE of a slot no tile operation names frees it and its generation advances; GANGSET sets the gang register; ACCRD reads a block of sixteen
columns. -/
def Obligations.SlotResults : Prop := CompletesOnce slotForm ∧ Sys2Proof.Slice0.AccumulatorRead

/-- R143, R166, R170, R171: a tile operation that passes its checks and finds room (R18, R193) is one access of path 5 in flight, with its
operands as read at issue; no slot, no scratchpad and no byte of memory changes yet. Model's choices: log entries 104, 108. -/
def Obligations.TileOpsIssue : Prop :=
  ∀ (s : State) (u : U) (i : Instr) (f : TileForm) (sl : AccSlot) (trs : List (Nat × Trans)),
    s.unit? = some u → i.wf = true → tileIssueForm u i = some f → u.acting f.guard ≠ [] → ScopeOk s u → Reaches u f.named →
    (f.regs = true → u.w.width = 64 ∧ u.w.legacy = false) → TileClean u f.srcs → s.cmdChecks u f.checks = .ok trs → f.checks.hold = false →
    s.liveSlot u.t (u.w.getS f.slot) = some sl → Paced s u [5] →
    ∃ t, exec i s = .next (u.done t (u.addAcc u.w s.nextId 5)) ∧ t = { s with
      tiles := s.tiles ++ [⟨s.nextId, u.w.id, u.t.id, u.t.core, sl.index, f.act, trs, u.sp.pl, hintOf u 1, 0, false, false, none,
        f.act.dsts.flatMap fun x => x.lines trs, f.act.dsts.flatMap DrainDst.pads, mineAhead u, s.nowNs⟩]
      nextId := s.nextId + 1
      l2 := t.l2
      tlb := t.tlb
      parts := t.parts }

namespace Sys2Proof.Slice0

/-- An MMAG whose checks pass (R144, R149): what it brings to the latch is the slot of its product, its A if it is the lowest member, and its
B if it has a product of its own. -/
structure Arrives (s : State) (u : U) (g : Guard) (ad bd : Bool) (d a b : Reg) (low : Bool) (it : Nat × Option TileSrc × Option TileSrc) : Prop
    extends LatchReady s u g ad bd d a b low where
  slot : u.acting g ≠ [] → ∃ sl, s.liveSlot u.t (u.w.getS d) = some sl ∧ it.1 = sl.index
  a_ : it.2.1 = if low then some (u.tileSrc ad a) else none
  b_ : it.2.2 = if u.acting g ≠ [] then some (u.tileSrc bd b) else none
  kinds : ∀ e ∈ (if low then (u.tileSrc ad a).descs else []) ++ (if u.acting g ≠ [] then (u.tileSrc bd b).descs else []), e.illegal [0, 1] false = false
  checks : s.cmdChecks u { CmdForm.plain (.tlsig []) with
    descs := (if low then (u.tileSrc ad a).descs else []) ++ (if u.acting g ≠ [] then (u.tileSrc bd b).descs else []) } = .ok []
  alone : ∀ w ∈ s.warps, w.id = u.w.id → w = u.w
  own : u.w.task = u.t.id ∧ s.slotWarp u.t.id u.w.slot = some u.w
  free : ∀ sp ∈ u.w.splits, ∀ p ∈ sp.paths, p.wait.isLatch = false

/-- A member that waits at its latch with what it has brought, in one split at one sub-path. -/
structure Waits (s : State) (tid i : Nat) (gang : BitVec 32) (it : Nat × Option TileSrc × Option TileSrc) (w : Warp) : Prop where
  warp : s.slotWarp tid i = some w
  alone : ∀ x ∈ s.warps, x.id = w.id → x = w
  gang : w.gang = gang
  split : w.splits.length = 1
  once : (w.waiting Wait.isLatch).length = 1
  at_ : w.latched = some it

end Sys2Proof.Slice0

/-- R149: an MMAG whose checks pass waits at the latch of its gang while some member has not arrived; no product is issued and no memory
changes. Model's choices: log entry 51. -/
def Sys2Proof.Slice0.GangWaits : Prop :=
  ∀ (s : State) (u : U) (g : Guard) (ad bd : Bool) (d a b : Reg) (low : Bool) (it : Nat × Option TileSrc × Option TileSrc),
    s.unit? = some u → Arrives s u g ad bd d a b low it →
    (∃ i ∈ gangSlots u.w.gang, i ≠ u.w.slot ∧ ∀ w, s.slotWarp u.t.id i = some w → w.latched = none) →
    ∃ (t : State) (w : Warp) (n : Nat), exec (.mmag g ad bd d a b) s = .next t ∧ t.warp? u.w.id = some w ∧
      w.latched = some (n, it.2) ∧ (u.acting g ≠ [] → n = it.1) ∧
      t.tiles = s.tiles ∧ t.mem = s.mem ∧ t.tasks = s.tasks ∧ w.v = u.w.v ∧ w.s = u.w.s ∧ w.p = u.w.p

/-- R149, R150: the MMAG of the last member completes the gang: its latch opens, and where no B has a tile count other than that of A the
products of the members become tile operations in flight together, in ascending slot order with the A of the lowest member; every member goes
on at its next unit, and no slot, register or memory has changed yet. -/
def Sys2Proof.Slice0.GangOpens : Prop :=
  ∀ (s : State) (u : U) (g : Guard) (ad bd : Bool) (d a b : Reg) (low : Bool) (m : Nat → Nat × Option TileSrc × Option TileSrc) (x : TileSrc),
    s.unit? = some u → Arrives s u g ad bd d a b low (m u.w.slot) →
    (∀ i ∈ gangSlots u.w.gang, i ≠ u.w.slot → ∃ w, Waits s u.t.id i u.w.gang (m i) w) →
    (∀ i, (gangSlots u.w.gang).head? = some i → (m i).2.1 = some x) →
    (∀ i ∈ gangSlots u.w.gang, ∀ y, (m i).2.2 = some y → y.count = x.count) →
    ∃ (t : State) (ops : List TileOp) (n : Nat), exec (.mmag g ad bd d a b) s = .next t ∧ n ≠ 0 ∧ t.tiles = s.tiles ++ ops ∧
      ops.map (fun o => (o.task, o.core, o.slot, o.act)) = (gangSlots u.w.gang).filterMap (fun i =>
        (m i).2.2.map fun y => (u.t.id, u.t.core, (m i).1, TileDo.product false x y)) ∧
      (∀ o ∈ ops, o.gang = n ∧ o.accepted = false) ∧ t.mem = s.mem ∧ t.tasks = s.tasks ∧
      (∀ i ∈ gangSlots u.w.gang, ∃ w w2, s.slotWarp u.t.id i = some w ∧ t.slotWarp u.t.id i = some w2 ∧ w2.latched = none ∧
        w2.v = w.v ∧ w2.s = w.s ∧ w2.p = w.p) ∧
      (∃ w sp p, t.warp? u.w.id = some w ∧ sp ∈ w.splits ∧ sp.num = u.c.split ∧ p ∈ sp.paths ∧ p.mask = u.pa.mask ∧ p.wait = .run ∧
        p.pc = u.c.start + 8)

/-- R144: an MMAG with no true guard has no effect in a warp of no gang. -/
def Sys2Proof.Slice0.GangLess : Prop :=
  ∀ (s : State) (u : U) (g : Guard) (ad bd : Bool) (d a b : Reg), s.unit? = some u → u.acting g = [] → u.w.gang = 0 →
    exec (.mmag g ad bd d a b) s = .next (u.skip s)

/-- R144, R149, R150: MMAG at the latch of its gang, and without one. Model's choices: log entries 51, 104. -/
def Obligations.GangLatch : Prop := Sys2Proof.Slice0.GangWaits ∧ Sys2Proof.Slice0.GangOpens ∧ Sys2Proof.Slice0.GangLess

/-- R146: the contents of a slot after a product are those of the pseudocode, element by element: every sum of a group exact, each
accumulation rounded twice to F32, in the order of tiles and groups. -/
def Obligations.TileProductExact : Prop :=
  ∀ (zero : Bool) (f : FSpec) (old : Table W32) (tiles : Nat) (a b : Nat → Nat → Nat → Nat) (i j : Nat),
    f = .c16 ∨ f = .c24 → (∀ t p q, a t p q < 2 ^ f.width ∧ b t p q < 2 ^ f.width) → i < 64 → j < 64 →
    Table.get 0 (tileProduct zero old (tilesFrom f tiles a) (tilesFrom f tiles b)) (i * 64 + j) =
      BitVec.ofNat 32 (productElem f tiles a b i j (if zero then 0 else (Table.get 0 old (i * 64 + j)).toNat))

namespace Sys2Proof.Slice0

/-- An accumulator element as its value; row and column change places in a transposed copy (R160). -/
def accElem (x : AccSlot) (trans : Bool) (i j : Nat) : FVal := decodeF .f32 (Table.get 0 x.data (if trans then j * 64 + i else i * 64 + j)).toNat

/-- A copy of a DRAIN written (R158 to R160): rows of a format in memory, elements of the descriptor's kind in scratchpad. -/
def drained (s : State) (t : Task) (op : TileOp) (x : AccSlot) (trans : Bool) : DrainDst → State
  | .memory a f => s.writeRun t.id op.hint op.trs ((List.range 64).flatMap fun i =>
      laid (a.toNat + i * storeBytes f) (packedRow f ((List.range 64).map fun j => accElem x trans i j)))
  | .scratch d _ =>
    match s.slotTask t (d.base / 2 ^ 19) with
    | some y => s.onTask y.id fun y => y.writeScratch ((List.range d.rows).flatMap fun i => (List.range 64).flatMap fun j =>
        laid (elementAddress d 0 i j % 2 ^ 19) (bytesLE (roundFmt (kindSpec d.kind) .rn false false (accElem x trans i j)) (elemBytes d.kind)))
    | none => s

/-- The words that DRAIN.ADD stores to memory (R161): each element's sum rounded once, none in a POISON word or a raw line marked poisoned. -/
def summed (m : Mem) (trs : List (Nat × Trans)) (x : AccSlot) (a : W64) (f : TFmt) : List StoreItem :=
  let z := (storeSpec f).width / 8
  (List.range (4096 * z / 8)).flatMap fun w =>
    match transKey trs (a.toNat + 8 * w) with
    | none => []
    | some (tr, k) =>
      if tr.tagged = true ∧ m.tag k = .poison ∨ tr.tagged = false ∧ m.marked k = true then []
      else
        let sum := fun (q : Nat) =>
          let e := w * (8 / z) + q
          roundFmt (storeSpec f) .rn false false ((decodeF (storeSpec f) (m.read (k + q * z) z)).add .rn (accElem x false (e / 64) (e % 64)))
        [⟨k, 8, BitVec.ofNat 64 (((List.range (8 / z)).map sum).foldr (fun v acc => v + acc * 2 ^ (8 * z)) 0),
          if tr.tagged then some .bits else none, false⟩]

end Sys2Proof.Slice0

/-- R143, R146, R150, R171: TILE_OP_ACCEPT accepts the first operation of a warp, or the products of a latch together, where the engine has
none; TILE_OP_COMPLETE applies the accepted one whole and path 5 falls: for a product the slot takes TileProduct of its operands, those of a latch
reading A once; for ACCLD the elements of the descriptor, rounded to F32, where no word of it is poisoned. -/
def Sys2Proof.Slice0.TileSteps : Prop :=
  ∀ (s : State) (op : TileOp) (t : Task) (x : AccSlot), s.tile? op.id = some op →
    (s.canAccept op = true → ∃ z, exec (.tileOpAccept op.id) s = .next z ∧ z.mem = s.mem ∧ z.tasks = s.tasks ∧
      z.tiles.map (fun y => (y.id, y.accepted)) = s.tiles.map fun y => (y.id, y.accepted || y.id == op.id || (op.gang != 0 && y.gang == op.gang))) ∧
    (s.canAccept op = false → exec (.tileOpAccept op.id) s = .next s) ∧
    (s.task? op.task = some t → t.slot? op.slot = some x → s.applies op = true → s.drainBehind op = false → s.tileSeen op = s →
      (∀ zero a b, op.act = .product zero a b → ∃ z y, exec (.tileOpComplete op.id) s = .next z ∧ z.mem = s.mem ∧
        z.tiles.map (fun o => o.id) = (s.tiles.filter (fun o => o.id != op.id)).map (fun o => o.id) ∧
        z.task? op.task = some y ∧ y.scratch = t.scratch ∧
        (y.slot? op.slot).map (fun q => q.data) = some (tileProduct zero x.data (s.tilesOf s t a).1 (s.tilesOf s t b).1) ∧
        (∀ d, a = .desc d → op.gang ≠ 0 → ∀ o ∈ z.tiles, o.gang = op.gang → ∀ z' a' b', o.act = .product z' a' b' → a' = s.takeTiles s t d)) ∧
      (∀ d, op.act = .accld d → ∀ y, s.slotTask t (d.base / 2 ^ 19) = some y → (∀ o, y.smark o = false) → ∃ z y2 q, exec (.tileOpComplete op.id) s = .next z ∧
        z.mem = s.mem ∧ z.task? op.task = some y2 ∧ y2.slot? op.slot = some q ∧
        ∀ i < 64, ∀ j < 64, Table.get 0 q.data (i * 64 + j) = if i < d.rows
          then BitVec.ofNat 32 (roundFmt .f32 .rn false false ((padRow y d 0 i).getD j (.zero false))) else 0))

/-- R158 to R161: a DRAIN of a slot that is not poisoned writes its copies at its completion, and TROWEL_UPDATE adds the slot to its destination in
memory at one instant, at the home. -/
def Sys2Proof.Slice0.DrainWrites : Prop :=
  ∀ (s : State) (op : TileOp) (t : Task) (x : AccSlot), s.tile? op.id = some op → s.task? op.task = some t → t.slot? op.slot = some x →
    x.poison = false → t.spec ≠ .running → s.applies op = true → s.drainBehind op = false →
    (∀ dst tdst, op.act = .drain dst tdst →
      let r := match tdst with
        | some y => drained (drained s t op x false dst) t op x true y
        | none => drained s t op x false dst
      ∃ n, exec (.tileOpComplete op.id) s = .next (({ r with tiles := r.tiles.filter (fun y => y.id != op.id), tick := n }).completeAcc op.id)) ∧
    (∀ dst, op.act = .drainAdd dst → op.updated = false → ∃ z, exec (.trowelUpdate op.id) s = .next z ∧
      z.tiles.map (fun y => (y.id, y.updated)) = s.tiles.map (fun y => (y.id, y.updated || y.id == op.id)) ∧
      (∀ a f, dst = .memory a f → f = .f32 ∨ f = .bf16 → (∀ y ∈ s.l1, y.core = t.core → y.isDirty = false) → (s.ctx t.ctx).dirtyEn = false →
        z.mem = (summed s.mem op.trs x a f).foldl Mem.store s.mem))

/-- R143, R146, R150, R158 to R161, R171: the events of tile operations and what they write. Model's choices: log entries 11, 119. -/
def Obligations.TileEvents : Prop := Sys2Proof.Slice0.TileSteps ∧ Sys2Proof.Slice0.DrainWrites

/-! ## Control -/

namespace Sys2Proof.Slice0

/-- A control transfer as its rule gives it (R281 to R286): the lane registers it names, its lane and scalar sources, the lanes
that transfer with their targets, the register that takes the return address, and whether the falling-through part keeps the split. -/
structure TransferForm where
  named : List Reg
  srcs : List Reg
  scalars : List Reg
  acting : List Nat
  target : Nat → W64
  link : Option Reg
  stay : Bool

/-- The target of a displacement: four bytes to a unit of it, from the start of the transfer (R282). -/
def displaced (u : U) (off : W32) : W64 := u.c.start + BitVec.ofInt 64 (4 * off.toInt)

/-- The transfers; a BRU whose guard is not uniform is not among them (R283). -/
def transferForm (u : U) : Instr → Option TransferForm
  | .bra g off => some ⟨[], [], [], u.acting g, fun _ => displaced u off, none, true⟩
  | .bru g off => if u.acting g = u.active ∨ u.acting g = [] then some ⟨[], [], [], u.acting g, fun _ => displaced u off, none, false⟩ else none
  | .brx g a => some ⟨[a], [a], [], u.acting g, fun l => (u.w.getV l a).pay, none, false⟩
  | .call g d off => some ⟨[], [], [], u.acting g, fun _ => displaced u off, some d, true⟩
  | .callx g d a => some ⟨[a], [a], [], u.acting g, fun l => (u.w.getV l a).pay, some d, false⟩
  | .ret a => some ⟨[], [], [a], u.active, fun _ => (u.w.getS a).pay, none, false⟩
  | _ => none

/-- Where a lane goes on: its target, or the next unit. -/
def TransferForm.goes (f : TransferForm) (u : U) (l : Nat) : W64 := if l ∈ f.acting then f.target l else u.c.next

/-- What a transfer needs before its targets are looked at. -/
structure TransferForm.Ready (f : TransferForm) (u : U) : Prop where
  some_ : u.active ≠ []
  reach : Reaches u f.named
  clean : Clean u f.acting f.srcs
  scalar : CleanS u f.scalars

/-- Every target is the address of a unit (R281). -/
def TransferForm.Aligned (f : TransferForm) : Prop := ∀ l ∈ f.acting, (f.target l).toNat % 4 = 0 ∧ (f.target l).toNat < 2 ^ 57

/-- The warp with the return address, and without a working set once some lane transfers (R285, R269). -/
def TransferForm.linked (f : TransferForm) (u : U) : Warp :=
  let w := match f.link with
    | some d => if f.acting = [] then u.w else u.w.setS d (intBits (u.c.start + 8))
    | none => u.w
  if f.acting = [] then w else { w with interval := none }

/-- Whether some lane goes backward (R266). -/
def TransferForm.backward (f : TransferForm) (u : U) : Bool := f.acting.any fun l => decide ((f.target l).toNat ≤ u.c.start.toNat)

/-- A trap of a transfer's target (R281). -/
def targetTrap (code kind : Nat) (ls : List Nat) (x : W64) : Trap := ⟨code, kind, false, false, true, 0, maskOf ls, x⟩

end Sys2Proof.Slice0

/-- R264, R266, R281 to R286: where every active lane goes to one address, the unit's lanes go on there, a call has written its return address,
and a backward transfer hands over; nothing else changes. -/
def Obligations.UniformTransfers : Prop :=
  ∀ (s : State) (u : U) (i : Instr) (f : TransferForm) (pc : W64),
    s.unit? = some u → i.wf = true → transferForm u i = some f → f.Ready u → f.Aligned → (∀ l ∈ u.active, f.goes u l = pc) →
    let w := (f.linked u).setHead u.c.split { u.pa with pc := pc }
    exec i s = .next (s.setWarp (if f.backward u then w.handOver u.c.split else w))

/-- R264: lanes of a split of one sub-path that go to two addresses with a split number free divide: the part that falls through in BRA and
CALL, else the part of the lowest lane, keeps the split, and the other forms the lowest free split at its level, with its counters. Model's choices: log entry 14. -/
def Sys2Proof.Slice0.FormedParts : Prop :=
  ∀ (s : State) (u : U) (i : Instr) (f : TransferForm) (x y : W64) (n : Nat),
    s.unit? = some u → i.wf = true → transferForm u i = some f → f.Ready u → f.Aligned → u.sp.paths = [u.pa] →
    (∀ l ∈ u.active, f.goes u l = x ∨ f.goes u l = y) → (∃ l ∈ u.active, f.goes u l = x) → (∃ l ∈ u.active, f.goes u l = y) → x ≠ y →
    (if f.stay = true ∧ (x = u.c.next ∨ y = u.c.next) then x = u.c.next else (u.active.head?.map (f.goes u)) = some x) →
    (n < 4 ∧ (∀ sp ∈ u.w.splits, sp.num ≠ n) ∧ ∀ m, m < n → ∃ sp ∈ u.w.splits, sp.num = m) →
    let w := f.linked u
    let part := fun (pc : W64) => maskOf (u.active.filter fun l => f.goes u l == pc)
    let kept : Split := { u.sp with paths := [{ u.pa with pc := x, mask := part x }] }
    let made : Split := ⟨n, u.sp.upper, [⟨y, part y, .run, none⟩], u.sp.pl, .fresh, 0, u.sp.acc, 0⟩
    exec i s = .next (s.setWarp { w with
      splits := sortBy (fun x => x.num) ((w.splits.map fun sp => if sp.num = u.c.split then kept else sp) ++ [made])
      perf := w.perf.set 5 (w.perf.getD 5 0 + 1) })

/-- R264, R265: lanes of a split that go to several addresses with no split number free, or in a split of more than one sub-path, become sub-paths of
that split: the part that keeps it runs first, the others stand directly behind it in ascending order of their lowest lanes, before those that
were there; the lanes of all of them are one region, and raise their nesting counters. Where one of those counters is 255 the unit raises NEST_OVERFLOW in
exactly those lanes and has no effect. -/
def Sys2Proof.Slice0.SerialisedDivergence : Prop :=
  ∀ (s : State) (u : U) (i : Instr) (f : TransferForm) (x : W64) (rest : List Path),
    s.unit? = some u → i.wf = true → transferForm u i = some f → f.Ready u → f.Aligned → u.sp.paths = u.pa :: rest →
    (rest ≠ [] ∨ ∀ n < 4, ∃ sp ∈ u.w.splits, sp.num = n) → (∃ l ∈ u.active, f.goes u l ≠ x) →
    (if f.stay = true ∧ (∃ l ∈ u.active, f.goes u l = u.c.next) then x = u.c.next else (u.active.head?.map (f.goes u)) = some x) →
    let w := f.linked u
    let part := fun (pc : W64) => maskOf (u.active.filter fun l => f.goes u l == pc)
    let full := u.active.filter fun l => Table.get 0 u.w.nest l == 255
    (full ≠ [] → exec i s = .next (s.raise u (mkTrap 23 0 (maskOf full) 0))) ∧
    (full = [] → ∃ (ps : List Path) (nest : Table Nat),
      (ps.Pairwise fun p q => lowestLane p.mask < lowestLane q.mask) ∧
      (∀ p ∈ ps, p.pc ≠ x ∧ p.mask = part p.pc ∧ p.wait = .run ∧ p.ser = none ∧ ∃ l ∈ u.active, f.goes u l = p.pc) ∧
      (∀ l ∈ u.active, f.goes u l = x ∨ ∃ p ∈ ps, f.goes u l = p.pc) ∧
      (∀ l, Table.get 0 nest l = Table.get 0 u.w.nest l + if l ∈ u.active then 1 else 0) ∧
      exec i s = .next (s.setWarp { w with
        splits := sortBy (fun x => x.num) (w.splits.map fun sp => if sp.num = u.c.split
          then { u.sp with paths := { u.pa with pc := x, mask := part x } :: ps ++ rest } else sp)
        nest := nest
        regions := w.regions ++ [maskOf u.active]
        perf := w.perf.set 6 (w.perf.getD 6 0 + 1) }))

/-- R264, R265: lanes of a unit that go to two or more addresses: with a split number left, and serialised without one. -/
def Obligations.Divergence : Prop := Sys2Proof.Slice0.FormedParts ∧ Sys2Proof.Slice0.SerialisedDivergence

/-- R281, R283, R284: targets that are not aligned raise ALIGN in their lanes, else those beyond 57 bits MEM_FAULT with KIND 2, before any effect;
a BRU whose guard is not uniform raises WIDTH_FAULT in the lanes that differ from the lowest, and POISON in vA of BRX or CALLX POISON_READ. -/
def Obligations.TransferTraps : Prop :=
  ∀ (s : State) (u : U) (i : Instr), s.unit? = some u → i.wf = true →
    (∀ f, transferForm u i = some f → f.Ready u →
      (∀ l ls, f.acting.filter (fun l => (f.target l).toNat % 4 != 0) = l :: ls →
        exec i s = .next (s.raise u (targetTrap 20 0 (l :: ls) (f.target l)))) ∧
      (∀ l ls, (∀ k ∈ f.acting, (f.target k).toNat % 4 = 0) → f.acting.filter (fun l => decide (2 ^ 57 ≤ (f.target l).toNat)) = l :: ls →
        exec i s = .next (s.raise u (targetTrap 19 2 (l :: ls) (f.target l))))) ∧
    (∀ g off l ls, i = .bru g off → u.active = l :: ls →
      let other := (l :: ls).filter fun k => u.w.guardAt g k != u.w.guardAt g l
      other ≠ [] → exec i s = .next (s.raise u (mkTrap 26 0 (maskOf other) 0))) ∧
    (∀ g a, (i = .brx g a ∨ ∃ d, i = .callx g d a) → Reaches u [a] →
      let bad := (u.acting g).filter fun l => (u.w.getV l a).tag == .poison
      bad ≠ [] → exec i s = .next (s.raise u (mkTrap 25 0 (maskOf bad) (a.setWidth 64))))

namespace Sys2Proof.Slice0

/-- The warp's only unit, outside legacy-width mode. -/
structure Sole (u : U) : Prop where
  split : u.w.splits = [u.sp]
  path : u.sp.paths = [u.pa]
  num : u.c.split < 4
  wide : u.w.legacy = false
  run : u.pa.wait = .run
  plain : u.pa.ser = none
  lanes : u.pa.mask ≠ 0

/-- The units of a warp: split, address, lanes and wait. -/
def unitsOf (w : Warp) : List (Nat × W64 × LaneMask × Wait) := w.splits.flatMap fun sp => sp.paths.map fun p => (sp.num, p.pc, p.mask, p.wait)

/-- The barriers: number, count, and bytes of the unit (R290). -/
def barForm (u : U) : Instr → Option (Guard × List Reg × Nat × Option Nat × W64)
  | .bar n => some (.always, [], n.toNat, none, 4)
  | .barc g n a => some (g, [a], n.toNat, some (u.w.getS a).pay.toNat, 8)
  | _ => none

end Sys2Proof.Slice0

/-- R288: SERB opens a record, in which the lowest lane goes first, or deepens it; SERE lowers its depth, or ends the lane's turn: the next live lane goes
from the unit after the SERB, and after the last one every live lane goes on together. A lane that executes EXIT ends its turn so too (stated for a warp of one
unit), and is left out. A depth beyond 15 and a SERE without a record are ILLEGAL. Model's choices: log entries 52, 53. -/
def Obligations.SerialisedRegions : Prop :=
  ∀ (s : State) (u : U), s.unit? = some u →
    let go := fun (p : Path) => u.w.setHead u.c.split { p with pc := u.c.next }
    let bad : State := s.raise u (mkTrap 16 2 u.pa.mask 0)
    (u.pa.ser = none →
      exec .serb s = .next (s.setWarp (go { u.pa with mask := laneBit (lowestLane u.pa.mask), ser := some ⟨u.pa.mask, 0, 1, u.c.next, 0⟩ })) ∧
      exec .sere s = .next bad) ∧
    (∀ r, u.pa.ser = some r →
      (r.depth < 15 → exec .serb s = .next (s.setWarp (go { u.pa with ser := some { r with depth := r.depth + 1 } }))) ∧
      (15 ≤ r.depth → exec .serb s = .next bad) ∧
      (1 < r.depth → exec .sere s = .next (s.setWarp (go { u.pa with ser := some { r with depth := r.depth - 1 } }))) ∧
      (r.depth ≤ 1 →
        let left := r.all &&& ~~~(r.served ||| u.pa.mask) &&& u.w.live
        (left = 0 → exec .sere s = .next (s.setWarp (go { u.pa with mask := r.all &&& u.w.live, ser := none }).endRegions)) ∧
        (left ≠ 0 → exec .sere s = .next (s.setWarp (u.w.setHead u.c.split { u.pa with
          pc := r.resume
          mask := laneBit (lowestLane left)
          ser := some ⟨r.all, r.served ||| u.pa.mask, 1, r.resume, u.c.next⟩ }).endRegions)))) ∧
    (∀ r, u.pa.ser = some r → u.w.splits = [u.sp] → u.sp.paths = [u.pa] → u.w.legacy = false → u.pa.wait = .run → u.w.gates = [] → u.pa.mask ≠ 0 →
      let live := u.w.live &&& ~~~u.pa.mask
      let left := r.all &&& ~~~r.served &&& live
      r.all &&& live ≠ 0 → ∃ t w pc, exec .exit s = .next t ∧ t.warp? u.w.id = some w ∧
        unitsOf w = [(u.c.split, if left = 0 then pc else r.resume, if left = 0 then r.all &&& live else laneBit (lowestLane left), .run)])

/-- R267, R287, R61: JOIN inside an open record or a lane handler passes, and so does SYNCW; elsewhere the unit of a warp without another goes on at once,
and while another split of the warp runs it waits at its boundary. No byte of memory changes. -/
def Sys2Proof.Slice0.JoinAndSyncw : Prop :=
  ∀ (s : State) (u : U) (i : Instr) (x : Wait), s.unit? = some u → (i = .join ∧ x = .join ∨ i = .syncw ∧ x = .syncw) →
    (u.pa.ser ≠ none ∨ (∃ l ∈ u.active, Table.get [] u.w.recs l ≠ []) → exec i s = .next (u.skip s)) ∧
    ((∀ l ∈ u.active, Table.get [] u.w.recs l = []) → Sole u → u.sp.frame.busy = false → ∃ t w, exec i s = .next t ∧ t.mem = s.mem ∧
      t.warp? u.w.id = some w ∧ w.v = u.w.v ∧ w.s = u.w.s ∧ unitsOf w = [(u.c.split, u.c.start + 4, u.pa.mask, .run)]) ∧
    ((∀ l ∈ u.active, Table.get [] u.w.recs l = []) → u.pa.ser = none → u.w.legacy = false →
      (∃ sp ∈ u.w.splits, sp.num ≠ u.c.split ∧ ∃ p ∈ sp.paths, p.wait = .run ∧ p.mask ≠ 0) → ∃ t w, exec i s = .next t ∧ t.mem = s.mem ∧
      t.warp? u.w.id = some w ∧ w.v = u.w.v ∧ w.s = u.w.s ∧ (u.c.split, u.c.start, u.pa.mask, x) ∈ unitsOf w)

/-- R187, R290, R132: a warp of one unit that comes to a barrier with its LD, ST and AT accesses complete goes on at once when it is the last of its task to
come or the count is 1, and block registers lose their owners; else it waits, and has arrived. Before that the unit waits; a count outside 1 to 32, a
number above 15 and a unit in an open record are ILLEGAL. -/
def Sys2Proof.Slice0.Barriers : Prop :=
  ∀ (s : State) (u : U) (i : Instr) (g : Guard) (rs : List Reg) (n : Nat) (c : Option Nat) (len : W64),
    s.unit? = some u → barForm u i = some (g, rs, n, c, len) → u.acting g ≠ [] → CleanS u rs →
    (15 < n ∨ u.pa.ser ≠ none ∨ (∃ k, c = some k ∧ (k = 0 ∨ 32 < k)) → exec i s = .next (s.raise u (mkTrap 16 2 u.pa.mask 0))) ∧
    (n ≤ 15 → (∀ k, c = some k → 1 ≤ k ∧ k ≤ 32) → u.pa.ser = none → ¬FenceOpen s u 7 → exec i s = .next (u.hold s)) ∧
    (n ≤ 15 → (∀ k, c = some k → 1 ≤ k ∧ k ≤ 32) → Sole u → FenceOpen s u 7 → u.t.bars = [] → ∃ t w y, exec i s = .next t ∧
      t.warp? u.w.id = some w ∧ w.v = u.w.v ∧ w.s = u.w.s ∧ t.task? u.t.id = some y ∧ y.breg = u.t.breg ∧
      ((∀ x ∈ s.warps, x.task = u.t.id → x.id = u.w.id) ∨ c = some 1 →
        unitsOf w = [(u.c.split, u.c.start + len, u.pa.mask, .run)] ∧ y.bars = [] ∧ y.owners = []) ∧
      ((∃ x ∈ s.warps, x.task = u.t.id ∧ x.id ≠ u.w.id) → c ≠ some 1 →
        unitsOf w = [(u.c.split, u.c.start, u.pa.mask, .barrier n c)] ∧ y.bars = [⟨n, c, [u.w.id]⟩] ∧ y.owners = u.t.owners))

/-- A unit of a warp, released by a barrier where it waits at it. -/
def Sys2Proof.Slice0.releasedAt (n : Nat) (c : Option Nat) (len : W64) (x : Nat × W64 × LaneMask × Wait) : Nat × W64 × LaneMask × Wait :=
  if x.2.2.2 = .barrier n c then (x.1, x.2.1 + len, x.2.2.1, .run) else x

/-- R132, R290: a warp of one unit that comes to a barrier at which others wait already. With the count of the instance it arrives there: when the
count is reached, or every warp of the task has arrived, each of them goes on at its next unit and block registers lose their owners; else it
waits too. With another count it raises ILLEGAL at its barrier unit, does not arrive, and the instance keeps waiting. -/
def Sys2Proof.Slice0.BarrierInstances : Prop :=
  ∀ (s : State) (u : U) (i : Instr) (g : Guard) (rs : List Reg) (n : Nat) (c : Option Nat) (len : W64) (b : BarInst),
    s.unit? = some u → barForm u i = some (g, rs, n, c, len) → u.acting g ≠ [] → CleanS u rs → n ≤ 15 → (∀ k, c = some k → 1 ≤ k ∧ k ≤ 32) →
    Sole u → FenceOpen s u 7 → (∀ x ∈ s.warps, x.id = u.w.id → x = u.w) → u.t.bars = [b] → b.num = n → u.w.id ∉ b.arrived →
    (b.count ≠ c → ∃ (z : State) (v : U), exec i s = .next (z.raise v (mkTrap 16 2 u.pa.mask 0)) ∧ z.tasks = s.tasks ∧ v.t = u.t ∧ v.w.id = u.w.id ∧
      v.sp.num = u.sp.num ∧ v.sp.frame = u.sp.frame ∧ v.sp.pl = u.sp.pl ∧ v.c.start = u.c.start) ∧
    (b.count = c →
      let over_ := (∃ k, c = some k ∧ k ≤ b.arrived.length + 1) ∨ ∀ x ∈ s.warps, x.task = u.t.id → x.id = u.w.id ∨ x.id ∈ b.arrived
      ∃ t w y, exec i s = .next t ∧ t.warp? u.w.id = some w ∧ w.v = u.w.v ∧ w.s = u.w.s ∧ t.task? u.t.id = some y ∧ y.breg = u.t.breg ∧
        (over_ → unitsOf w = [(u.c.split, u.c.start + len, u.pa.mask, .run)] ∧ y.bars = [] ∧ y.owners = [] ∧
          ∀ x ∈ s.warps, x.id ≠ u.w.id → ∃ z ∈ t.warps, z.id = x.id ∧ z.v = x.v ∧ z.s = x.s ∧
            unitsOf z = if x.id ∈ b.arrived then (unitsOf x).map (releasedAt n c len) else unitsOf x) ∧
        (¬over_ → unitsOf w = [(u.c.split, u.c.start, u.pa.mask, .barrier n c)] ∧ y.bars = [⟨n, c, b.arrived ++ [u.w.id]⟩] ∧
          y.owners = u.t.owners ∧ ∀ x ∈ s.warps, x.id ≠ u.w.id → x ∈ t.warps))

/-- R61, R132, R187, R267, R287, R290: JOIN, SYNCW, BAR and BARC. Model's choices: log entries 29, 62, 70. -/
def Obligations.JoinsAndBarriers : Prop :=
  Sys2Proof.Slice0.JoinAndSyncw ∧ Sys2Proof.Slice0.Barriers ∧ Sys2Proof.Slice0.BarrierInstances

/-- R291, R292, R293, R304, R42: NOP does nothing; YIELD ends the split's turn, and a pending soft request holds the warp; EXIT ends the unit's lanes, and the
warp with its last; INTERVAL sets the working set, to be staged; TRAP raises ILLEGAL with KIND 1 and its code in the lanes whose guard is true. -/
def Obligations.PlainControl : Prop :=
  ∀ (s : State) (u : U), s.unit? = some u →
    exec .nop s = .next (u.skip s) ∧
    ((∀ x, (s.ctx u.t.ctx).ladder ≠ some (x, 0)) → exec .yield s = .next (s.setWarp
      ((turnOver (u.w.setHead u.c.split { u.pa with pc := u.c.next }) u.sp.upper).handOver u.c.split))) ∧
    (∀ x, (s.ctx u.t.ctx).ladder = some (x, 0) → ∃ t, exec .yield s = .next t ∧ ∀ w, t.warp? u.w.id = some w → w.held = true) ∧
    (u.w.live &&& ~~~u.pa.mask = 0 → ∃ t, exec .exit s = .next t ∧ t.mem = s.mem ∧ ∀ x ∈ t.warps, x.id ≠ u.w.id) ∧
    (u.w.live &&& ~~~u.pa.mask ≠ 0 → ∃ t w, exec .exit s = .next t ∧ t.mem = s.mem ∧ t.warp? u.w.id = some w ∧
      w.live = u.w.live &&& ~~~u.pa.mask) ∧
    (∀ g d m, u.acting g ≠ [] → (∀ k, k < 32 → m.getLsbD k = true → (regIndex u.w.nregs (d + BitVec.ofNat 8 k)).isSome = true) →
      exec (.interval g d m) s = .next (u.done s { u.w with interval := some (d, m), staged := false })) ∧
    (∀ g code, (u.acting g ≠ [] → exec (.trap g code) s = .next (s.raise u (mkTrap 16 1 (maskOf (u.acting g)) (code.setWidth 64)))) ∧
      (u.acting g = [] → exec (.trap g code) s = .next (u.skip s)))

namespace Sys2Proof.Slice0

/-- What RETL does to the registers of one lane with its record (R114): TAG_PAIR, OVERFLOW and DIV_ZERO return the word to the destination. -/
def returns (u : U) (a : Reg) (w : Warp) (l : Nat) : Warp :=
  match Table.get [] u.w.recs l with
  | r :: _ =>
    if r.cause = .tagCheck then w
    else if r.dfile = 1 then w.setV l r.dreg (u.w.getV l a)
    else if r.dfile = 2 then w.setP l r.dreg ((u.w.getV l a).pay.getLsbD 0)
    else w
  | [] => w

end Sys2Proof.Slice0

/-- R114, R227: RETL of one lane whose record is of NURSERY_FULL pops it and makes its NALLOC again with the operands and the hint of the first issue:
where the block fits, its REF goes to the record's destination, its words are one store in flight, %nbase stands behind it and the lane goes on at the
unit behind the NALLOC. -/
def Sys2Proof.Slice0.Reallocation : Prop :=
  ∀ (s : State) (u : U) (a : Reg) (l : Nat) (r : RetRec) (rs : List RetRec) (pg : List Touch),
    s.unit? = some u → Reaches u [a] → Clean u u.active [a] → Paced s u [3] → Sole u → u.active = [l] → u.w.txs = [] →
    Table.get [] u.w.recs l = r :: rs → r.cause = .nurseryFull → r.shared = false → u.w.gates = [(r.gate, u.pa.mask)] → SizeWord r.a →
    let n := r.a.pay.toNat
    let its := blockWords u.w.nbase.toNat n r.b.pay pg
    let spec := decide (u.t.spec = .running)
    u.w.nbase.toNat + 8 * n ≤ u.w.nlim.toNat → u.blockPages s ⟨l, u.w.nbase.toNat, n, bits r.b.pay 15 0⟩ = .ok pg → PoolHolds s u pg →
    u.specRoom s its = true →
    ∃ t w, exec (.retl a) s = .next t ∧ t.mem = s.mem ∧ t.warp? u.w.id = some w ∧ w.s = u.w.s ∧ w.p = u.w.p ∧
      w.v = (u.w.setV l r.dreg ⟨.ref, u.w.nbase⟩).v ∧ w.nbase = BitVec.ofNat 64 (u.w.nbase.toNat + 8 * n) ∧ Table.get [] w.recs l = rs ∧
      unitsOf w = [(u.c.split, r.next, u.pa.mask, .run)] ∧
      t.stores = s.stores ++ [⟨s.nextId, u.w.id, u.t.id, u.t.core, u.t.ctx, r.hint, if spec then [] else its,
        if spec then [] else distinct (pg.map fun x => x.tr.gpa / 65536), mineAhead u, s.nowNs⟩]

/-- R114: RETL takes each lane's most recent record and returns vA to its destination, for the causes TAG_PAIR, OVERFLOW and DIV_ZERO;
when the lanes of a gate are all back, they go on at the unit after the one that trapped. Lanes without a record are ILLEGAL. -/
def Sys2Proof.Slice0.RecordReturn : Prop :=
  ∀ (s : State) (u : U) (a : Reg), s.unit? = some u → Reaches u [a] → Clean u u.active [a] → Paced s u [3] →
    ((∀ l ∈ u.active, ∃ r rs, Table.get [] u.w.recs l = r :: rs ∧ r.cause ≠ .nurseryFull) → ∃ t w, exec (.retl a) s = .next t ∧
      t.warp? u.w.id = some w ∧ w.v = (u.active.foldl (returns u a) u.w).v ∧ w.p = (u.active.foldl (returns u a) u.w).p ∧ w.s = u.w.s ∧ t.mem = s.mem ∧
      (∀ l ∈ u.active, Table.get [] w.recs l = (Table.get [] u.w.recs l).drop 1) ∧
      (∀ l, l ∉ u.active → Table.get [] w.recs l = Table.get [] u.w.recs l) ∧
      (∀ gate next, (∀ l ∈ u.active, ∃ r rs, Table.get [] u.w.recs l = r :: rs ∧ r.gate = gate ∧ r.next = next) → Sole u →
        u.w.gates = [(gate, u.pa.mask)] → unitsOf w = [(u.c.split, next, u.pa.mask, .run)])) ∧
    (u.active ≠ [] → (∀ l ∈ u.active, Table.get [] u.w.recs l = []) → exec (.retl a) s = .next (s.raise u (mkTrap 16 2 u.pa.mask 0)))

/-- R114, R227: RETL of each cause of a lane trap. Model's choices: log entries 54, 104. -/
def Obligations.LaneReturn : Prop := Sys2Proof.Slice0.RecordReturn ∧ Sys2Proof.Slice0.Reallocation

/-! ## Widths -/

namespace Sys2Proof.Slice0

/-- The lanes of a target width. -/
def lanesAt : Width → Nat
  | .w16 => 16 | .w32 => 32 | .w64 => 64 | .w128 => 128

/-- What keeps a warp from SPLITW and FUSEW with code 1 or 2 (R296, R297): a second unit, a lane in a handler, an open record. -/
def tangled (w : Warp) : Bool :=
  decide (1 < (unitsOf w).length) || ((lanesOf w.live).any fun l => Table.get [] w.recs l != []) ||
  w.splits.any fun sp => sp.paths.any fun p => p.ser != none

/-- The children of a SPLITW that have a live lane (R272). -/
def liveKids (w : Warp) (n : Nat) : List Nat :=
  (List.range (w.width / n)).filter fun c => (List.range n).any fun l => w.live.getLsbD (c * n + l)

/-- The failure code of a SPLITW, 0 without one (R296). -/
def splitFail (s : State) (u : U) (n : Nat) : Nat :=
  if u.w.width ≤ n ∨ u.w.legacy = true then 3
  else if tangled u.w = true then 1
  else if u.w.txs ≠ [] then 4
  else if (s.freeSlots u.t.core).length + 1 < (liveKids u.w n).length then 2
  else 0

/-- WIDTH, a SPLITW that fails, and a FUSEW without a neighbour (R294 to R297). -/
def widthForm : Instr → Option OnceForm
  | .width g d => some ⟨g, [], [], fun s u =>
      let up := if u.w.legacy = true ∧ u.sp.upper = true then 1 else 0
      sout s u d (intBits (BitVec.ofNat 64 ((if u.w.legacy then 32 else u.w.width) + (if u.w.legacy then 1 else 0) * 2 ^ 8 + up * 2 ^ 9 +
        (if u.w.legacy then 2 * (u.w.first / u.w.width) + up else u.w.first / u.w.width) % 256 * 2 ^ 16 +
        u.w.splits.length % 8 * 2 ^ 24 + u.w.slot % 32 * 2 ^ 32)))⟩
  | .splitw g w d => some ⟨g, [], [], fun s u =>
      let c := splitFail s u (lanesAt w)
      if c = 0 then none else sout s u d ⟨.int, BitVec.ofNat 64 c⟩⟩
  | .fusew g w d => some ⟨g, [], [], fun s u =>
      if s.neighbour u.w = none then
        sout s u d ⟨.int, if lanesAt w ≠ 2 * u.w.width ∨ u.w.legacy = true then 5 else 1⟩
      else none⟩
  | _ => none

/-- A warp whose units that wait at a FUSEW go on with a code in sD (R295). -/
def fuseEnds (w : Warp) (d : Reg) (code : Nat) : Warp :=
  { w.setS d ⟨.int, BitVec.ofNat 64 code⟩ with
    splits := w.splits.map fun sp => { sp with
      paths := sp.paths.map fun p => if p.wait.fusing.isSome then { p with pc := p.pc + 8, wait := .run } else p } }

/-- The registers and the room that two neighbours need to fuse (R273, R297): adjacent storage, or warp-registers of the core free. -/
def RoomToFuse (s : State) (u : U) (n : Warp) : Prop :=
  let low := (u.w.first / u.w.width) % 2 = 0
  let lo := if low then u.w else n
  let hi := if low then n else u.w
  (lo.store = hi.store ∧ lo.pos + lo.width = hi.pos) ∨ (u.w.nregs * (2 * u.w.width) + 63) / 64 ≤ (s.freeRows u.t.core).length

/-- The failure of a FUSEW that has a neighbour, in the order of R297: the target width, its own state, a transaction, another address or
width than that at which the neighbour waits, and room. -/
def fuseFailure (s : State) (u : U) (n : Warp) (wd : Width) (code : Nat) : Prop :=
  let other := ∃ pc wd' e since, n.fusing = some (pc, wd', e, since) ∧ (pc ≠ u.c.start ∨ wd' ≠ wd)
  let tight := n.fusing ≠ none ∧ ¬RoomToFuse s u n
  if lanesAt wd ≠ 2 * u.w.width ∨ u.w.legacy = true then code = 5
  else if tangled u.w = true then code = 2
  else if u.w.txs ≠ [] then code = 6
  else (other ∧ code = 3) ∨ (¬other ∧ tight ∧ code = 4)

/-- A neighbour told of a failure: where it waits at a FUSEW it goes on with the code. -/
def fuseTold (n : Warp) (code : Nat) : Warp := match n.fusing with | some (_, _, e, _) => fuseEnds n e code | none => n

/-- What a SPLITW makes of child c (R272). -/
structure IsChild (u : U) (x : Warp) (n c : Nat) (d : Reg) : Prop where
  place : x.task = u.w.task ∧ x.role = u.w.role ∧ x.first = u.w.first + c * n ∧ x.width = n ∧ x.nregs = u.w.nregs ∧ x.gang = 0
  lanes : ∀ l, l < n → x.live.getLsbD l = u.w.live.getLsbD (c * n + l) ∧ ∀ r, x.getV l r = u.w.getV (c * n + l) r ∧
    (r.toNat < 8 → x.getP l r = u.w.getP (c * n + l) r)
  scalars : x.getS d = ⟨.int, BitVec.ofNat 64 (256 * c)⟩ ∧ ∀ r, r ≠ d → x.getS r = u.w.getS r
  units : ∀ sp ∈ x.splits, ∀ p ∈ sp.paths, p.pc = u.c.next ∧ ∀ l, l < n → p.mask.getLsbD l = u.pa.mask.getLsbD (c * n + l)

end Sys2Proof.Slice0

/-- R294 to R297: WIDTH writes the shape of the warp; SPLITW and FUSEW that fail on their own warp write their code and change nothing else. -/
def Sys2Proof.Slice0.WidthResults : Prop := CompletesOnce widthForm

/-- R271 to R273, R296, R297: SPLITW makes a warp of each part of the lanes that lives, with its registers, its code 0 and its number; FUSEW waits for its
neighbour, and with it at the same unit within 1,024 cycles, their storage adjacent or the registers free, forms the wider warp with the lower lanes
first and writes 0; a failure tells both partners its code; after 1,024 cycles a waiting one goes on alone with code 3. -/
def Sys2Proof.Slice0.WidthChanges : Prop :=
  (∀ (s : State) (u : U) (g : Guard) (wd : Width) (d : Reg), s.unit? = some u → u.acting g ≠ [] →
    (splitFail s u (lanesAt wd) = 0 → liveKids u.w (lanesAt wd) ≠ [] → ∃ t : State,
      exec (.splitw g wd d) s = .next (t.recheckTask u.t.id) ∧ t.mem = s.mem ∧
      ∀ c ∈ liveKids u.w (lanesAt wd), ∃ x ∈ t.warps, IsChild u x (lanesAt wd) c d) ∧
    (lanesAt wd = 2 * u.w.width → u.w.legacy = false → tangled u.w = false → u.w.txs = [] → ∀ n, s.neighbour u.w = some n →
      let here := u.w.setHead u.c.split { u.pa with pc := u.c.start, wait := .fuse wd d s.cycles }
      (n.fusing = none → exec (.fusew g wd d) s = .next (s.setWarp here)) ∧
      (∀ pc wd' e since, n.fusing = some (pc, wd', e, since) → since + 1024 ≤ s.cycles → (s.warps.filter fun x => x.id == n.id) = [n] →
        exec (.fusew g wd d) s = .next ((s.setWarp (fuseEnds n e 3)).setWarp here)) ∧
      (∀ e since, n.fusing = some (u.c.start, wd, e, since) → s.cycles < since + 1024 → RoomToFuse s u n →
        let low := (u.w.first / u.w.width) % 2 = 0
        let lo := if low then u.w else n
        let hi := if low then n else u.w
        ∃ (t : State) (x : Warp), exec (.fusew g wd d) s = .next (t.recheckTask u.t.id) ∧ t.mem = s.mem ∧ t.warp? lo.id = some x ∧
          x.width = 2 * lo.width ∧ x.first = lo.first ∧ x.gang = 0 ∧ x.live = lo.live ||| (hi.live <<< lo.width) ∧
          x.v = lo.v ++ hi.v.map (fun y => (y.1 + 256 * lo.width, y.2)) ∧ x.getS (if low then d else e) = ⟨.int, 0⟩ ∧
          (∃ sp ∈ x.splits, ∃ p ∈ sp.paths, p.pc = u.c.start + 8 ∧ p.wait = .run) ∧ ∀ y ∈ t.warps, y.id ≠ hi.id)) ∧
    (∀ n code, s.neighbour u.w = some n → (∀ pc wd' e since, n.fusing = some (pc, wd', e, since) → s.cycles < since + 1024) →
      fuseFailure s u n wd code →
      exec (.fusew g wd d) s = .next ((u.done s (u.w.setS d ⟨.int, BitVec.ofNat 64 code⟩)).setWarp (fuseTold n code)))) ∧
  (∀ (s : State) (w : Warp) (pc : W64) (wd : Width) (d : Reg) (since : Nat), s.warp? w.id = some w → w.fusing = some (pc, wd, d, since) →
    exec (.fusewTimeout w.id) s = .next (if since + 1024 ≤ s.cycles then s.setWarp (fuseEnds w d 3) else s))

/-- R271 to R273, R294 to R297: WIDTH, SPLITW, FUSEW and the time-out. Model's choices: log entries 11, 55, 56. -/
def Obligations.WidthInstructions : Prop := Sys2Proof.Slice0.WidthResults ∧ Sys2Proof.Slice0.WidthChanges

/-- R274, R298: LEGACY.enter makes the halves of a 64-lane warp two splits, with its counters; LEGACY.leave waits for the other half, and the two then go on as
one split. LEGACY.enter raises WIDTH_FAULT elsewhere, LEGACY.leave outside the mode and in a half with a second unit, an open record, a lane in a handler or
an open transaction. Model's choices: log entry 57. -/
def Obligations.LegacyModes : Prop :=
  ∀ (s : State) (u : U) (g : Guard), s.unit? = some u → u.acting g ≠ [] →
    let fault : State := s.raise u (mkTrap 26 0 u.pa.mask 0)
    (u.w.width ≠ 64 ∨ u.w.legacy = true ∨ tangled u.w = true ∨ u.w.txs ≠ [] → exec (.legacyEnter g) s = .next fault) ∧
    (u.w.width = 64 → u.w.legacy = false → tangled u.w = false → u.w.txs = [] → ∃ w,
      exec (.legacyEnter g) s = .next (s.setWarp w) ∧ w.id = u.w.id ∧ w.legacy = true ∧ w.v = u.w.v ∧ w.s = u.w.s ∧
      w.splits.map (fun sp => (sp.num, sp.upper, sp.pl, sp.acc, sp.paths.map fun p => (p.pc, p.mask))) =
        ([(0, false, u.sp.pl, u.sp.acc, [(u.c.next, u.pa.mask &&& 0xFFFFFFFF)]),
          (1, true, u.sp.pl, u.sp.acc, [(u.c.next, u.pa.mask &&& 0xFFFFFFFF00000000)])].filter fun x => x.2.2.2.2.any fun p => p.2 != 0)) ∧
    (∀ half, half = (u.w.splits.filter fun sp => sp.upper == u.sp.upper).flatMap (fun sp => sp.paths) →
      u.w.legacy = false ∨ 1 < half.length ∨ (∃ p ∈ half, p.ser ≠ none ∨ ∃ l < 128, p.mask.getLsbD l = true ∧
        (Table.get [] u.w.recs l ≠ [] ∨ ∃ x ∈ u.w.txs, x.lane = l)) → exec (.legacyLeave g) s = .next fault) ∧
    (u.w.legacy = true → u.w.txs = [] → u.sp.paths = [u.pa] → u.pa.ser = none → (∀ l ∈ lanesOf u.w.live, Table.get [] u.w.recs l = []) →
      u.pa.mask &&& ~~~u.w.live = 0 → u.c.split < 4 →
      (u.w.splits = [u.sp] → ∃ t w, exec (.legacyLeave g) s = .next t ∧ t.mem = s.mem ∧ t.warp? u.w.id = some w ∧ w.legacy = false ∧ w.v = u.w.v ∧
        unitsOf w = [(u.c.split, u.c.start + 8, u.pa.mask, .run)]) ∧
      (∀ (x y : Split) (p q : Path), u.w.splits = [x, y] → x.upper = false → y.upper = true → x.num < y.num → y.num < 4 →
        x.paths = [p] → y.paths = [q] → p.ser = none → q.ser = none → (p.mask ||| q.mask) &&& ~~~u.w.live = 0 →
        let o := if u.c.split = x.num then q else p
        (o.wait ≠ .leave → exec (.legacyLeave g) s = .next (s.setWarp (u.w.setHead u.c.split { u.pa with pc := u.c.start, wait := .leave }))) ∧
        (o.wait = .leave → o.pc = u.c.start → ∃ t w, exec (.legacyLeave g) s = .next t ∧ t.mem = s.mem ∧ t.warp? u.w.id = some w ∧ w.legacy = false ∧
          w.v = u.w.v ∧ unitsOf w = [(x.num, u.c.start + 8, p.mask ||| q.mask, .run)])))

/-! ## Launches by programs -/

namespace Sys2Proof.Slice0

/-- What a launching instruction needs to act: its descriptor read without a stage-2 fault, its split's accesses complete, its task not
speculative (R188, R211, R252). -/
structure MayLaunch (s : State) (u : U) (desc : W64) (ws : Option (List W64)) : Prop where
  read : u.readDesc s desc = (ws, none)
  fence : FenceOpen s u 15
  plain : u.speculative = false

/-- The machine whose L1 lines of a core have been written back and dropped up to GRID scope (R188). -/
def ordered (s : State) (u : U) : State := s.fenceCore u.t.core 15 15 4

/-- A launch as it enters its partition's age order (R258, R275, R277). -/
def entered (id : Nat) (serial : BitVec 32) (u : U) (desc : W64) (kd : KDesc) (src : LaunchSrc) (arg : Word) (depth : Nat) : Launch :=
  ⟨id, serial, u.t.ctx, desc, kd, src, arg, 0, 1, 1, false, 0, 0, none, u.t.core / 256, depth, u.t.pri, false, false⟩

/-- The next serial that the distributor of a core's die gives (R258). -/
def serialOf (s : State) (core : Nat) : Nat := Table.get 0 s.serials (2 * (core / 256))

/-- SPAWN and SPAWN1: guard, one child for the split, registers (R299, R61). -/
def spawnForm : Instr → Option (Guard × Bool × Reg × Reg × Reg)
  | .spawn g uni d a b => some (g, uni, d, a, b)
  | .spawn1 g d a b => some (g, true, d, a, b)
  | _ => none

/-- SPECQ's word (R303). -/
def specqForm : Instr → Option OnceForm
  | .specq g d => some ⟨g, [], [], fun s u =>
      let res := (s.launch? u.t.launch).bind fun l => l.t
      let known := (s.launch? u.t.launch).isSome
      let spec := known && u.t.spec == .running
      sout s u d (intBits (BitVec.ofNat 64 ((if spec then 1 + u.t.specId % 256 * 2 ^ 8 else 0) +
        (if known && u.t.spec == .committed then 2 else 0) + (if res.isSome then 4 + res.getD 0 * 2 ^ 32 else 0))))⟩
  | _ => none

end Sys2Proof.Slice0

/-- R275, R299: SPAWN, its split's accesses before it, makes a launch of one block for each acting lane in ascending order, or one for .uni, at the task's depth
plus 1, and writes the serials; where the depth is 8 or the launch is refused it writes NIL and makes none. Model's choices: log entry 59. -/
def Obligations.SpawnResults : Prop :=
  ∀ (s : State) (u : U) (i : Instr) (g : Guard) (uni : Bool) (d a b : Reg) (ws : Option (List W64)),
    s.unit? = some u → spawnForm i = some (g, uni, d, a, b) → u.acting g ≠ [] → Reaches u [d, b] → CleanS u [a] → Clean u (u.acting g) [b] →
    MayLaunch s u (u.w.getS a).pay ws →
    let desc := (u.w.getS a).pay
    let s' := (ordered s u).deviceTouch u.t.ctx u.sp.pl desc 16
    let ok := u.t.depth < 8 ∧ s'.refusal u.t.ctx ⟨desc, ws, decide (1 ≤ u.sp.pl), none, false, true, false⟩ = none
    let n := serialOf s u.t.core
    let kids := if uni then (u.acting g).take 1 else u.acting g
    (¬ok → exec i s = .next (u.done s' ((u.acting g).foldl (fun w l => w.setV l d .nil) u.w))) ∧
    (ok → ∃ t w, exec i s = .next t ∧ t.warp? u.w.id = some w ∧ t.mem = s'.mem ∧ w.s = u.w.s ∧ w.p = u.w.p ∧
      t.launches = s.launches ++ kids.mapIdx (fun k l =>
        entered (s.nextId + k) (BitVec.ofNat 32 (n + k)) u desc (kdescOf (ws.getD [])) .spawn (u.w.getV l b) (u.t.depth + 1)) ∧
      w.v = (((u.acting g).mapIdx fun k l => (k, l)).foldl (fun (w : Warp) x =>
        w.setV x.2 d ⟨.int, BitVec.ofNat 64 ((n + if uni then 0 else x.1) % 2 ^ 32)⟩) u.w).v)

/-- R276 to R279, R300 to R303: LAUNCHP writes a refusal as bit 63 and the code, and otherwise makes a launch of max(m, p) blocks, of which those from m on are
speculative until it is resolved, and writes its handle; p 0 takes the prediction, m without one; a launch that notifies numbers its two events on the
timeline. SHAPE resolves a launch of the context that a handle names: blocks below T commit, the others are squashed and their warps gone, the true count is
recorded, and blocks beyond p become a tail launch; it has no effect on a launch resolved or unknown, is ILLEGAL with a bad handle or count and for a speculative task's own launch, and
waits in a task that speculates for another. SPECQ reports the task's speculation. Model's choices: log
entries 59, 61. -/
def Obligations.PredictedLaunches : Prop :=
  CompletesOnce specqForm ∧
  ∀ (s : State) (u : U) (g : Guard) (d a b c : Reg), s.unit? = some u → u.acting g ≠ [] →
    (∀ ws, CleanS u [a, b, c] → MayLaunch s u (u.w.getS a).pay ws →
      let m := (u.w.getS b).pay.toNat
      let p := (u.w.getS c).pay.toNat
      let s' := (ordered s u).deviceTouch u.t.ctx u.sp.pl (u.w.getS a).pay 16
      let kd := kdescOf (ws.getD [])
      let r := s'.refusal u.t.ctx ⟨(u.w.getS a).pay, ws, decide (1 ≤ u.sp.pl), none, true, false, decide (2 ^ 32 ≤ m) || decide (2 ^ 32 ≤ p)⟩
      let n := serialOf s u.t.core
      let guess := (s.predict (u.t.core / 256) (u.w.getS a).pay).getD m
      let count := max m (if p = 0 then guess else p)
      (∀ k, r = some k → exec (.launchp g d a b c) s = .next (u.done s' (u.w.setS d ⟨.int, BitVec.ofNat 64 (2 ^ 63 + k)⟩))) ∧
      (r = none → ∀ k, kd.notify = true → u.bound s' (BitVec.ofNat 8 kd.notifyTl) = none ∨
          u.bound s' (BitVec.ofNat 8 kd.notifyTl) = some k ∧ (u.t.engCtx k).failed ≠ none →
        exec (.launchp g d a b c) s = .next (s'.raise u (mkTrap 16 2 u.pa.mask 0))) ∧
      (r = none → ∀ k, (kd.notify = true → u.bound s' (BitVec.ofNat 8 kd.notifyTl) = some k ∧ (u.t.engCtx k).failed = none) →
        let event := fun (n : Nat) (op : EngOp) => (⟨n, op, s.nextId, 0, true, false, [], none, none, 0⟩ : EngCmd)
        let told := fun (e : EngCtx) => { e with
          last := e.last + 2, cmds := e.cmds ++ [event (e.last + 1) (.resolution s.nextId), event (e.last + 2) (.completion s.nextId)] }
        ∃ t : State, exec (.launchp g d a b c) s =
          .next (u.done t (u.w.setS d ⟨.int, BitVec.ofNat 64 (n % 2 ^ 32 + u.t.core / 256 * 2 ^ 32)⟩)) ∧
        t = { s' with
          tasks := if kd.notify then s.tasks.map fun x => if x.id = u.t.id then x.setEng k (told (x.engCtx k)) else x else s.tasks
          launches := s.launches ++ [{ (entered s.nextId (BitVec.ofNat 32 n) u (u.w.getS a).pay kd (.launchp u.t.id) ⟨.bits, kd.arg⟩ 0) with
            limit := count, count := count, shaped := true, m := m, p := count }]
          nextId := t.nextId
          serials := t.serials
          dev := t.dev })) ∧
    let named := fun (l : Launch) => l.shaped && l.ctx == u.t.ctx && l.serial.toNat + l.die * 2 ^ 32 == (u.w.getS a).pay.toNat
    let good := (u.w.getS a).tag = .int ∧ (u.w.getS a).pay.toNat < 2 ^ 33 ∧ (u.w.getS b).pay.toNat < 2 ^ 32
    let own := ∃ l, s.launches.find? named = some l ∧ l.id = u.t.launch
    (CleanS u [a, b] → ¬good ∨ u.speculative = true ∧ own → exec (.shape g a b) s = .next (s.raise u (mkTrap 16 2 u.pa.mask 0))) ∧
    (CleanS u [a, b] → good → u.speculative = true → ¬own → exec (.shape g a b) s = .next (u.hold s)) ∧
    (CleanS u [a, b] → good → u.speculative = false → FenceOpen s u 15 →
      (s.launches.find? named = none → exec (.shape g a b) s = .next (u.skip (ordered s u))) ∧
      (∀ l, s.launches.find? named = some l → l.t ≠ none → exec (.shape g a b) s = .next (u.skip (ordered s u))) ∧
      (∀ l, s.launches.find? named = some l → l.t = none → ∃ t l', exec (.shape g a b) s = .next t ∧ t.launch? l.id = some l' ∧
        l'.t = some (max (u.w.getS b).pay.toNat l.m) ∧ l'.serial = l.serial ∧ l'.kd = l.kd ∧
        (let n := (u.w.getS b).pay.toNat
          let T := max n l.m
          let old := ((Table.get [] s.dev.shapes l.die).find? fun e => e.desc == l.desc).map fun e => e.counts
          ((Table.get [] t.dev.shapes l.die).head? = some ⟨l.desc, (n :: old.getD []).take 4⟩) ∧
          (l.p < T → ∃ y ∈ t.launches, y.src = .tail l.id ∧ y.next = l.p ∧ y.limit = T ∧ y.t = some T ∧ y.kd = l.kd) ∧
          ((s.tasks.map fun x => x.id).Nodup → (s.ctx l.ctx).save.tasks = [] → ∀ x ∈ s.tasks, x.launch = l.id → x.spec = .running →
            ∃ y ∈ t.tasks, y.id = x.id ∧ y.specStores = [] ∧ (x.block < T → y.spec = .committed) ∧
              (T ≤ x.block → y.spec = .squashed ∧ ∀ w ∈ t.warps, w.task ≠ x.id)))))

/-- R91, R354 to R356: RETT and HCALL below PL1 are ILLEGAL; RETT takes the level of %estat, ends BUSY and goes to %epc; HCALL posts an event of type 4 with
s56 to s59, of which POISON raises POISON_READ, and waits at the boundary after its unit; VQPUSH of an entry that it can read into a queue with room copies it to
the slot of TAIL, raises TAIL by 1, and rings the queue's doorbell. Model's choices: log entries 4, 59, 67, 69. -/
def Obligations.SystemTransfers : Prop :=
  ∀ (s : State) (u : U) (g : Guard), s.unit? = some u → u.acting g ≠ [] →
    (u.sp.pl = 0 → exec (.rett g) s = .next (s.raise u (mkTrap 16 2 u.pa.mask 0)) ∧
      ∀ n, exec (.hcall g n) s = .next (s.raise u (mkTrap 16 2 u.pa.mask 0))) ∧
    (1 ≤ u.sp.pl → u.pa.wait = .run → u.pa.mask ≠ 0 → ∃ t w sp, exec (.rett g) s = .next t ∧ t.mem = s.mem ∧ t.warp? u.w.id = some w ∧ w.v = u.w.v ∧
      w.s = u.w.s ∧ w.split? u.c.split = some sp ∧ sp.pl = u.sp.frame.estat.toNat % 4 ∧ sp.frame = { u.sp.frame with estat := u.sp.frame.estat &&& ~~~4 } ∧
      sp.paths.head? = some { u.pa with pc := u.sp.frame.epc }) ∧
    (∀ n, 1 ≤ u.sp.pl → ∀ r, ([56, 57, 58, 59] : List Reg).find? (fun r => (u.w.getS r).tag == .poison) = some r →
      exec (.hcall g n) s = .next (s.raise u (mkTrap 25 0 u.pa.mask (r.setWidth 64)))) ∧
    (∀ n, 1 ≤ u.sp.pl → CleanS u [56, 57, 58, 59] →
      let w := u.w.setHead u.c.split { u.pa with pc := u.c.next, wait := .hcall s.nextId }
      let args := [(u.w.getS 56).pay, (u.w.getS 57).pay, (u.w.getS 58).pay, (u.w.getS 59).pay]
      let c := s.ctx u.t.ctx
      exec (.hcall g n) s = .next { (s.setWarp w).setCtx u.t.ctx { c with waiters := c.waiters ++ [(s.nextId, .hcall)] } with
        nextId := s.nextId + 1
        dev := { s.dev with evwait := s.dev.evwait ++ [⟨4, u.t.ctx, s.nextId, u.c.start, n.setWidth 64, args⟩] } }) ∧
    (∀ (a b : Reg) (q : QTable) (ws : List W64), CleanS u [a, b] →
      let n := (u.w.getS a).pay.toNat
      let va := (u.w.getS b).pay
      n < (s.ctx u.t.ctx).vqcount → va.toNat % 64 = 0 → s.qtable u.t.ctx n = .ok q → (q.privileged = true → 1 ≤ u.sp.pl) →
      s.pushReads u va n q = .ok ws → q.waiting < q.size → u.speculative = false → FenceOpen s u 15 → (s.ctx u.t.ctx).en = true →
      (∀ x ∈ s.l1, x.core = u.t.core → x.isDirty = false) → (s.queuesIn 1).length < 16384 →
      let put := fun (z : State) (i : Nat) =>
        z.deviceStore 512 u.t.ctx 6 (q.ring + BitVec.ofNat 64 (64 * (q.tail % 2 ^ q.log)) + BitVec.ofNat 64 (8 * i)) .bits (ws.getD i 0)
      let read := ((ordered s u).deviceTouch u.t.ctx 1 ((s.ctx u.t.ctx).qAddr n) 8).deviceTouch u.t.ctx u.sp.pl va 8
      let copied := (List.range 8).foldl put (u.skip read)
      ∃ t w, exec (.vqpush g a b) s = .next t ∧ ((t.ctx u.t.ctx).queue n).rung = true ∧
        ((t.ctx u.t.ctx).queue n).error = ((s.ctx u.t.ctx).queue n).error ∧
        t.mem = (copied.deviceStore4 u.t.ctx ((s.ctx u.t.ctx).vqtab + BitVec.ofNat 64 (64 * n + 16)) ((q.tail + 1) % 2 ^ 32)).mem ∧
        t.warp? u.w.id = some w ∧ w.v = u.w.v ∧ w.s = u.w.s ∧ w.p = u.w.p ∧ (w.split? u.c.split).bind (fun sp => sp.paths.head?) = some { u.pa with pc := u.c.next })

/-! ## Traps -/

namespace Sys2Proof.Slice0

/-- %cause (R347): CODE [7:0], KIND [11:8], ESC [12], WRITE [13], FETCH [14], OPCLASS [23:16]. -/
def causeWord (x : Trap) : W64 :=
  BitVec.ofNat 64 (x.code + x.kind * 2 ^ 8 + x.esc.toNat * 2 ^ 12 + x.write.toNat * 2 ^ 13 + x.fetch.toNat * 2 ^ 14 + x.opclass * 2 ^ 16)

/-- The frame that a thread trap of a split writes (R345, R347): PPL, BUSY, UPPER and SPLIT in %estat. -/
def frameOf (u : U) (x : Trap) : TrapFrame :=
  ⟨u.c.start, causeWord x, x.mask.extractLsb' 0 64, x.mask.extractLsb' 64 64, x.tval,
    BitVec.ofNat 64 (u.sp.pl + 4 + u.sp.upper.toNat * 8 + u.sp.num * 256)⟩

/-- The split in its thread handler (R345): PL1, the frame, its lanes at the entry; the working set and the turn end (R262, R269). -/
def inHandler (s : State) (u : U) (x : Trap) (e : W64) : State :=
  s.setWarp (turnOver { u.w with
    splits := u.w.splits.map fun sp =>
      if sp.num = u.c.split then { u.sp with pl := 1, frame := frameOf u x, paths := { u.pa with pc := e } :: u.sp.paths.drop 1 } else sp
    interval := none } u.sp.upper)

/-- MEM_FAULT with KIND 4: a packet of the unit that the crossbar refused, counted for its partition (R306). -/
def refusedOnce (s : State) (u : U) (x : Trap) : State :=
  if x.code = 19 ∧ x.kind = 4 then
    let p := (s.ctx u.t.ctx).part
    s.setPart p { s.part p with isolcnt := (s.part p).isolcnt + 1 }
  else s

/-- The entry of the thread trap table for a code, as the device reads it at PL1 (R345). -/
def trapEntry (s : State) (u : U) (code : Nat) : Except XFault W64 :=
  u.read8 s 1 ((s.ctx u.t.ctx).ttab + BitVec.ofNat 64 (8 * code))

/-- An address of code: not 0, aligned, within 57 bits. -/
def codeAddress (e : W64) : Prop := e ≠ 0 ∧ e.toNat % 4 = 0 ∧ e.toNat < 2 ^ 57

/-- Whether the split's frame is in use (R347). -/
def frameBusy (u : U) : Prop := u.sp.frame.estat.getLsbD 2 = true

/-- Whether an instruction is an integer division, and its destination and sources (R122). -/
def divForm : Instr → Option (Nat × Guard × Reg × Reg × Reg)
  | .idiv g _ d a b => some (0x23, g, d, a, b)
  | .irem g _ d a b => some (0x24, g, d, a, b)
  | _ => none

/-- The address of the handler entry of DIVZERO for two tags (R109, R110). -/
def divEntry (u : U) (x y : Tag) : W64 :=
  u.t.htab + BitVec.ofNat 64 ((17 * 256 + x.code.toNat / 16 * 16 + y.code.toNat / 16) * 8)

end Sys2Proof.Slice0

/-- R34, R60, R343 to R347, R201: a word that is no instruction raises ILLEGAL with KIND 0, and one that cannot be fetched MEM_FAULT with FETCH, in the whole unit.
A thread trap outside a transaction writes the frame and takes the split to its handler at PL1, where the frame is free and the entry is code; in the
transaction of a unit's only lane it aborts that with FAULT and the cause. -/
def Sys2Proof.Slice0.ThreadTrapEntry : Prop :=
  ∀ (s : State) (u : U), s.unit? = some u →
    exec .encodingNotInstruction s = .next (s.raise u (mkTrap 16 0 u.pa.mask 0)) ∧
    (∀ addr kind, exec (.unitFetchFault addr kind) s = .next (s.raise u ⟨19, kind, false, false, true, 0, u.pa.mask, addr⟩)) ∧
    (∀ x e, u.w.txs = [] → ¬frameBusy u → (s.ctx u.t.ctx).ttab ≠ 0 → trapEntry (refusedOnce s u x) u x.code = .ok e → codeAddress e →
      s.raise u x = inHandler (refusedOnce s u x) u x e) ∧
    (∀ x l tx, u.active = [l] → x.mask.getLsbD l = true → u.w.tx? l = some tx →
      s.raise u x = aborted (refusedOnce s u x) u tx (BitVec.ofNat 64 (5 + x.code * 2 ^ 24)))

/-- R345, R358: a thread trap whose frame is in use, or whose entry is not code or cannot be read, stops the warp at the boundary before its unit, with no register
and no byte of memory changed, and posts an event of type 3 that the hypervisor may answer. -/
def Sys2Proof.Slice0.DoubleTraps : Prop :=
  ∀ (s : State) (u : U) (x : Trap), s.unit? = some u → u.w.txs = [] →
    frameBusy u ∨ (s.ctx u.t.ctx).ttab = 0 ∨ (∀ e, trapEntry (refusedOnce s u x) u x.code = .ok e → ¬codeAddress e) →
    ∃ w, (s.raise u x).warp? u.w.id = some w ∧ w.stopped = some s.nextId ∧ w.v = u.w.v ∧ w.s = u.w.s ∧ w.p = u.w.p ∧
      (w.split? u.c.split).map (fun sp => (sp.pl, sp.paths)) = some (u.sp.pl, { u.pa with pc := u.c.start } :: u.sp.paths.drop 1) ∧
      (w.split? u.c.split).map (fun sp => decide (sp.frame = if u.sp.frame.estat.getLsbD 2 then u.sp.frame else frameOf u x)) = some true ∧
      (s.raise u x).mem = s.mem ∧
      (s.raise u x).dev.evwait = s.dev.evwait ++ [⟨3, u.t.ctx, s.nextId, u.c.start, BitVec.ofNat 64 x.code, []⟩] ∧
      ((s.raise u x).ctx u.t.ctx).waiters = (s.ctx u.t.ctx).waiters ++ [(s.nextId, .doubleTrap u.w.id)]

/-- R34, R60, R201, R343 to R347, R358: what a thread trap leaves, in a handler and as a double trap. Model's choices: log entries 4, 28, 107. -/
def Obligations.ThreadTraps : Prop := Sys2Proof.Slice0.ThreadTrapEntry ∧ Sys2Proof.Slice0.DoubleTraps

/-- R109 to R112: where every active lane of IDIV or IREM divides words of one pair of tags by 0, the split goes to the lane handler: v248 to v250 hold A, B and NIL,
v251 the descriptor, each lane's record says where the result goes and where to go on, and no register below v248 changes. Without a handler table the
lanes escalate to a thread trap of code 5. Model's choices: log entries 4, 31. -/
def Obligations.LaneTrapEntry : Prop :=
  ∀ (s : State) (u : U) (i : Instr) (op : Nat) (g : Guard) (d a b : Reg),
    s.unit? = some u → divForm i = some (op, g, d, a, b) → Reaches u [d, a, b] → Clean u (u.acting g) [a, b] →
    (∀ (x y : Tag) (e : W64), u.acting g = u.active → u.active ≠ [] →
      (∀ l ∈ u.active, (u.w.getV l a).tag = x ∧ (u.w.getV l b).tag = y ∧ (u.w.getV l b).pay = 0) →
      4 ≤ u.w.nregs → u.t.htab ≠ 0 → (∀ l ∈ u.active, (Table.get [] u.w.recs l).length < 4) →
      u.read8 s u.sp.pl (divEntry u x y) = .ok e → codeAddress e →
      ∃ t w, exec i s = .next t ∧ t.mem = s.mem ∧ t.warp? u.w.id = some w ∧ w.s = u.w.s ∧ w.p = u.w.p ∧
        (w.split? u.c.split).bind (fun sp => sp.paths.head?) = some { u.pa with pc := e } ∧
        ∀ l ∈ u.active,
          w.getV l 248 = u.w.getV l a ∧ w.getV l 249 = u.w.getV l b ∧ w.getV l 250 = .nil ∧ (w.getV l 251).tag = .int ∧
          (w.getV l 251).pay.extractLsb' 0 17 = BitVec.ofNat 17 (17 + op * 256 + 2 ^ 16) ∧ (w.getV l 251).pay.extractLsb' 24 8 = d ∧
          (w.getV l 251).pay.extractLsb' 32 3 = 1 ∧ (w.getV l 251).pay.extractLsb' 48 8 = BitVec.ofNat 8 ((Table.get [] u.w.recs l).length + 1) ∧
          Table.get [] w.recs l = ⟨.divZero, 1, d, u.c.next, s.nextId, false, u.w.getV l a, u.w.getV l b, 0, false⟩ :: Table.get [] u.w.recs l ∧
          ∀ r : Reg, r.toNat < 248 → w.getV l r = u.w.getV l r) ∧
    (∀ zs, zs = (u.acting g).filter (fun l => (u.w.getV l b).pay == 0) →
      zs ≠ [] → u.t.htab = 0 → exec i s = .next (s.raise u ⟨5, 0, true, false, false, 17, maskOf zs, 0⟩))

/-- R37, R64, R91, R106, R343: a lane instruction that names a register its role does not reach raises ILLEGAL with KIND 2 in the whole unit; an integer or
floating-point one with POISON among the sources of acting lanes raises POISON_READ in those lanes, with the number of the first such register in
the order A, B, C (log entry 23); a scalar one whose guard is false in every active lane does nothing. Model's choices: log entries 23, 30. -/
def Obligations.OperandChecks : Prop :=
  ∀ (s : State) (u : U) (i : Instr), s.unit? = some u → i.wf = true →
    (∀ f r, (integerForm i = some f ∨ moveForm i = some f ∨ genericForm i = some f ∨ floatForm i = some f ∨ packedForm i = some f) →
      r ∈ f.named → regIndex u.w.nregs r = none → exec i s = .next (s.raise u (mkTrap 16 2 u.pa.mask 0))) ∧
    (∀ f r, (integerForm i = some f ∨ floatForm i = some f) → Reaches u f.named →
      let bad := (u.acting f.guard).filter fun l => f.srcs.any fun r => (u.w.getV l r).tag == .poison
      f.srcs.find? (fun r => bad.any fun l => (u.w.getV l r).tag == .poison) = some r →
      exec i s = .next (s.raise u (mkTrap 25 0 (maskOf bad) (r.setWidth 64)))) ∧
    (∀ f, scalarForm i = some f → Reaches u f.named → u.acting f.guard = [] → exec i s = .next (u.skip s))

/-! ## Events: tasks, launches and queues -/

namespace Sys2Proof.Slice0

/-- The accesses in flight of a split on paths 0 to 3 (R262). -/
def loadOf (sp : Split) : Nat := (List.range 4).foldl (fun n k => n + sp.count k) 0

/-- Where the next block of a launch without a cohort goes: a core with room for its footprint, of those with the most free
warp-registers (R254, R258). -/
def Goes (s : State) (l : Launch) (cores : List Nat) (c : Nat) : Prop :=
  c ∈ s.coresFor l cores ∧ (l.kd.footprint 0).fits (s.freeOn c) = true ∧
  ∀ x ∈ s.coresFor l cores, (l.kd.footprint 0).fits (s.freeOn x) = true → (s.freeOn x).regs ≤ (s.freeOn c).regs

/-- Tasks, but for what they know of others that have left their groups (R246). -/
def tasksBut (ts : List Task) : List Task := ts.map fun x => { x with dgone := [] }

/-- The words a warp starts with in s0 to s3 (R257): block, argument, identity, count. -/
def StartsWith (w : Warp) (y : Task) (l : Launch) : Prop :=
  w.task = y.id ∧ w.v = [] ∧ w.p = [] ∧ w.nbase = 0 ∧ w.nlim = 0 ∧ w.gang = 0 ∧ w.getS 0 = natWord l.next ∧ w.getS 1 = l.arg ∧
  (w.getS 2).pay.extractLsb' 0 8 = BitVec.ofNat 8 w.role ∧ w.getS 3 = natWord l.count ∧
  ∃ k, w.first = k * w.width ∧ (w.getS 2).pay.extractLsb' 8 8 = BitVec.ofNat 8 k

end Sys2Proof.Slice0

/-- R251, R257, R258, R261, R262, R269, R274: TASK_PLACE places the next block of the first launch in age order on the fitting core with the most free warp-registers, its warps with
the words of R257; TASK_END writes the core's dirty lines back and takes away a task without anything left, a cohort whole, and keeps what a speculative task has stored; a working set
staged, a warp or a half of one passed over, a turn ended after 64 units for the split of least load among those that the last step has found able to issue. Model's choices: log
entries 11, 71, 91. -/
def Obligations.TaskEvents : Prop :=
  ∀ (s : State),
    (∀ p l c, (s.part p).enabled = true → s.headLaunch p = some l → s.collectorPlaces p = [] → l.kd.cohort = 0 → Goes s l (s.openCores p) c →
      ∃ t y ws, exec (.taskPlace p) s = .next t ∧ t.tasks = s.tasks ++ [y] ∧ t.warps = s.warps ++ ws ∧ Goes s l (s.openCores p) y.core ∧
        y.launch = l.id ∧ y.block = l.next ∧ y.ctx = l.ctx ∧ y.htab = l.kd.htab ∧ y.ended = false ∧ y.spec = (if l.nextSpec then .running else .none) ∧
        ws.length = ((l.kd.rolesOf 0).map fun r => r.2.warps).sum ∧ (∀ w ∈ ws, StartsWith w y l) ∧
        t.launches = s.launches.map fun x => if x.id = l.id then { l with next := l.next + 1, begun := true } else x) ∧
    (∀ p, s.headLaunch p = none → s.collectorPlaces p = [] → exec (.taskPlace p) s = .next s) ∧
    (∀ t, s.task? t.id = some t →
      (s.taskDone t = false → exec (.taskEnd t.id) s = .next s) ∧
      (s.taskDone t = true → t.spec = .running → t.ended = true → exec (.taskEnd t.id) s = .next s) ∧
      (s.taskDone t = true → t.spec ≠ .running ∨ t.ended = false → ∃ z, exec (.taskEnd t.id) s = .next z ∧ z.warps = s.warps ∧
        (∀ x ∈ z.l1, x.core = t.core → x.scope < 7 → x.isDirty = false) ∧
        (s.mem.wf = true → ∀ x, OnlyCopy s x → x.core = t.core → x.scope < 7 → WrittenBack s z x) ∧
        (s.mem.wf = true → ∀ a, (∀ x ∈ s.l1, x.core = t.core → x.scope < 7 → x.isDirty = true → x.line ≠ a / 128) → z.mem.byte a = s.mem.byte a) ∧
        (t.spec = .running → ∃ y ∈ z.tasks, y.id = t.id ∧ y.ended = true ∧ y.specStores = t.specStores ∧ y.core = 512) ∧
        (t.spec ≠ .running → t.cohort = none → tasksBut z.tasks = tasksBut (s.tasks.filter fun x => x.id != t.id)) ∧
        (t.spec ≠ .running → t.cohort ≠ none →
          ((∃ x ∈ s.tasks, x.id ≠ t.id ∧ x.cohort = t.cohort ∧ x.ended = false) →
            z.tasks.map (fun x => x.id) = s.tasks.map (fun x => x.id) ∧ ∃ y ∈ z.tasks, y.id = t.id ∧ y.ended = true) ∧
          ((∀ x ∈ s.tasks, x.id = t.id ∨ x.cohort ≠ t.cohort ∨ x.ended = true) →
            tasksBut z.tasks = tasksBut (s.tasks.filter fun x => x.id != t.id && x.cohort != t.cohort))))) ∧
    (∀ w, s.warp? w.id = some w →
      exec (.workingSetStaged w.id) s = .next (s.setWarp { w with staged := true }) ∧
      (let upper := w.legacy = true ∧ w.up.passed = 63;
        exec (.warpDue w.id) s = .next (if w.passed = 63 ∨ upper then s.setWarp { w with
          passed := if w.passed = 63 then 64 else w.passed
          up := { w.up with passed := if upper then 64 else w.up.passed } } else s)) ∧
      (w.turn < 64 → (w.legacy = true → w.up.turn < 64) → exec (.splitTurnExpiry w.id) s = .next s) ∧
      (∀ up, (up = true → w.legacy = true) → (w.legacy = true → (w.splits.map fun sp => sp.num).Nodup) → 64 ≤ (w.half? up).turn →
        (∃ sp ∈ w.half up, sp.num ∈ w.able) → ∃ (w' : Warp) (sp : Split), exec (.splitTurnExpiry w.id) s = .next (s.setWarp w') ∧
          sp ∈ w.half up ∧ sp.num ∈ w.able ∧ (w'.half? up).run = sp.num ∧ (w'.half? up).turn = 0 ∧ w'.v = w.v ∧ w'.s = w.s ∧
          ((∃ x ∈ w.half up, x.num ∈ w.able ∧ 64 ≤ x.skipped) → 64 ≤ sp.skipped) ∧
          ((∀ x ∈ w.half up, x.num ∈ w.able → x.skipped < 64) → ∀ x ∈ w.half up, x.num ∈ w.able → loadOf sp ≤ loadOf x)))

namespace Sys2Proof.Slice0

/-- Whether a queue is one that entries are taken from (R326): its context runs, and it is mapped and not in error. -/
def takes (s : State) (v n : Nat) : Prop :=
  (s.ctx v).active = true ∧ ((s.ctx v).queue n).tier = 2 ∧ ((s.ctx v).queue n).error = false ∧ n < (s.ctx v).vqcount

/-- Whether a queue waits for a hardware slot (R328): of an enabled function, not mapped, with a doorbell or accepted work. -/
def queueWaits (s : State) (v n : Nat) : Prop :=
  (s.ctx v).en = true ∧ ((s.ctx v).queue n).tier ≠ 2 ∧
  (((s.ctx v).queue n).rung = true ∨ ∃ l ∈ s.launches, l.ctx = v ∧ l.next < l.limit ∧ ∃ compl irq, l.src = .queue n compl irq)

/-- Whether a queue's turn has come in the weighted round robin (R328): its function has mappings of the round left by QWEIGHT, and the
queue by WEIGHT, or those that wait have none left and a new round begins. -/
def hasTurn (s : State) (v n : Nat) : Prop :=
  ((s.ctx v).turns < (s.ctx v).qweight ∨ ∀ x m, queueWaits s x m → (s.ctx x).qweight ≤ (s.ctx x).turns) ∧
  (((s.ctx v).queue n).turns < s.queueWeight v n ∨ ∀ m, queueWaits s v m → s.queueWeight v m ≤ ((s.ctx v).queue m).turns)

/-- The blocks of an entry's launch (R325). -/
def blocksOf (e : QEntry) (kd : KDesc) : Nat := if e.grid then e.gx * e.gy * e.gz else kd.gx * kd.gy * kd.gz

end Sys2Proof.Slice0

/-- R188, R278, R301, R324 to R328: an entry of a mapped queue becomes a launch of its class with the entry's counts, or its queue goes in error or falls silent; a doorbell
takes a queue into the SRAM, and ends an error whose table entry has been rewritten; QUEUE_MAP gives a free slot to a queue whose turn it is; a launch that is over goes, with its
completion interrupt, and a resolved one is notified. Model's choices: log entries 11, 63, 64, 66, 120. -/
def Obligations.LaunchAndQueueEvents : Prop :=
  ∀ (s : State),
    (∀ v n, ¬takes s v n → exec (.queueEntryAccept v n) s = .next s) ∧
    (∀ v n q, takes s v n → s.qtable v n = .ok q →
      let good := q.ok = true ∧ (s.ctx v).classMask.getLsbD q.cls = true ∧ q.waiting ≤ q.size
      (¬good → ∃ t, exec (.queueEntryAccept v n) s = .next t ∧ ((t.ctx v).queue n).error = true ∧ t.launches = s.launches) ∧
      let read := s.deviceTouch v 1 ((s.ctx v).qAddr n) 8
      (good → q.waiting = 0 → exec (.queueEntryAccept v n) s = .next (read.setQueue v n { (s.ctx v).queue n with rung := false })) ∧
      (good → q.waiting ≠ 0 → ∀ ws ds, read.deviceWords v 1 (q.slot q.head) 8 = .ok ws →
        let e := qentryOf ws
        let kd := kdescOf ds
        let pl := if q.privileged then 1 else 0
        let z := read.deviceTouch v 1 (q.slot q.head) 8
        z.deviceWords v pl e.desc 16 = .ok ds → e.wait = false →
        ((z.deviceTouch v pl e.desc 16).deviceStore4 v ((s.ctx v).qAddr n + 24) ((q.head + 1) % 2 ^ 32)).refusal v ⟨e.desc, some ds, q.privileged, if e.grid then some (e.gx, e.gy, e.gz) else none, false, false, false⟩ = none →
        ∃ t, exec (.queueEntryAccept v n) s = .next t ∧ t.launches = s.launches ++
          [⟨s.nextId, BitVec.ofNat 32 (Table.get 0 s.serials 0), v, e.desc, kd, .queue n e.compl e.irq, ⟨.bits, e.arg⟩, 0, blocksOf e kd, blocksOf e kd,
            false, 0, 0, none, 0, 0, q.cls, false, false⟩])) ∧
    (∀ v n, (s.ctx v).en = true → n < (s.ctx v).vqcount → (s.queuesIn 1).length < 16384 →
      let q := (s.ctx v).queue n
      ∃ t, exec (.doorbell v n) s = .next t ∧ t.mem = s.mem ∧
        (t.ctx v).queue n = { q with tier := if q.tier = 0 then 1 else q.tier, error := q.error && q.entry.isSome, rung := true, rungAt := s.nowNs }) ∧
    (∀ v n, (s.ctx v).en = false ∨ (s.ctx v).vqcount ≤ n → exec (.doorbell v n) s = .next s) ∧
    (∀ v n, queueWaits s v n → (∃ e ∈ (s.ctx v).queues, e.1 = n) → ((s.ctx v).queues.map fun e => e.1).Nodup → hasTurn s v n → (s.queuesIn 2).length < 48 →
      ∃ t k, exec (.queueMap v n) s = .next t ∧ (t.ctx v).queue n = { (s.ctx v).queue n with tier := 2, since := s.nowNs, turns := k } ∧ 0 < k ∧
        (∀ x m, x ≠ v ∨ m ≠ n → ((t.ctx x).queue m).tier = ((s.ctx x).queue m).tier) ∧ t.launches = s.launches ∧ t.mem = s.mem) ∧
    (∀ v n, ¬queueWaits s v n → exec (.queueMap v n) s = .next s) ∧
    (∀ l, s.launch? l.id = some l →
      (s.launchOver l = false → exec (.launchComplete l.id) s = .next s) ∧
      (s.launchOver l = true → ∃ t, exec (.launchComplete l.id) s = .next t ∧ t.launches = s.launches.filter (fun x => x.id != l.id)) ∧
      (∀ q compl irq, s.launchOver l = true → l.src = .queue q compl irq → compl = 0 → ∃ t, exec (.launchComplete l.id) s = .next t ∧
        (irq = true → (t.ctx l.ctx).irqs = (s.ctx l.ctx).irqs + 1)) ∧
      (∀ task, l.src = .launchp task → l.t ≠ none → l.notified = false → (∀ t, (t ∈ s.tasks ∨ ∃ c ∈ s.ctxs, t ∈ c.2.save.tasks) → t.launch = l.id → t.spec ≠ .squashed) →
        ∃ t, exec (.launchResolutionComplete l.id) s = .next t ∧ t.launches = s.launches.map fun x => if x.id = l.id then { l with notified := true } else x))

/-! ## Events: the network and accesses from outside -/

namespace Sys2Proof.Slice0

/-- How far a place lies behind the last one served, in cyclic order of n places. -/
def gap (n last x : Nat) : Nat := (x + n - (last + 1) % n) % n

/-- The place of a packet among the partitions; firmware traffic comes after them (R317). -/
def slotAt (p : Packet) : Nat := min p.part 16

/-- The credits with which an output chooses among the weighed channels: new ones where those that wait have none left (R317). -/
def creditsNow (s : State) (n : NetOut) : Nat × Nat × Nat :=
  if (n.queue.all fun q => vcNum q.vc < 3 || creditOf n.credits (vcNum q.vc - 3) == 0) then (s.dev.wreq, s.dev.wbulk, s.dev.wupd) else n.credits

/-- The channel of a packet is the one that R317 serves: MGMT, INV and RSP before the others in this order; of REQ, BULK and UPD the first with
a credit, cyclically after the channel sent last. -/
def OnChannel (s : State) (n : NetOut) (p : Packet) : Prop :=
  (∀ q ∈ n.queue, vcNum q.vc < 3 → vcNum p.vc ≤ vcNum q.vc) ∧
  (3 ≤ vcNum p.vc → let left := fun (q : Packet) => creditOf (creditsNow s n) (vcNum q.vc - 3)
    0 < left p ∧ ∀ q ∈ n.queue, 0 < left q → gap 3 n.last (vcNum p.vc - 3) ≤ gap 3 n.last (vcNum q.vc - 3))

/-- A packet is the oldest of the first partition of its channel, cyclically after the one that the channel served last (R317). -/
def InTurn (n : NetOut) (p : Packet) : Prop :=
  let last := n.lastPart.getD (vcNum p.vc) 16
  (∀ q ∈ n.queue, q.vc = p.vc → gap 17 last (slotAt p) ≤ gap 17 last (slotAt q)) ∧
  n.queue.find? (fun q => q.vc == p.vc && slotAt q == slotAt p) = some p

/-- The response to a request, from the output that the request has come to: it carries the mark of the request back to its source, over the die-to-die
link where that is on the other die (R316, R317, R319). -/
def backTo (p : Packet) : Packet :=
  let home := 64 + p.port
  if outputDie home = outputDie p.output then { p with vc := .rsp, output := home, route := [] }
  else { p with vc := .rsp, output := 136 + outputDie p.output, route := [home] }

/-- The outputs with one packet more behind those that wait at its own; one of REQ, BULK or UPD is marked where 64 flits of its channel wait there (R319). -/
def queued (nets : Table NetOut) (p : Packet) : Table NetOut :=
  let n := Table.get .fresh nets p.output
  let full := decide (3 ≤ vcNum p.vc) && decide (64 ≤ ((n.queue.filter fun y => y.vc == p.vc).map fun y => y.flits).sum)
  Table.put .fresh nets p.output { n with queue := n.queue ++ [{ p with marked := p.marked || full }] }

end Sys2Proof.Slice0

/-- R306, R315, R316, R317, R319, R320: a packet is admitted with a token of its rate controller, and marked where 64 flits wait; an output sends one packet whole: of the channel that
the order and the credits give, and within it of the next partition in cyclic order; the matrix counts one it does not let through; one that it lets through goes on to the next output of
its way, or at the end of it waits for HBM or is answered, and a marked response lowers the rate of its source; a port serves the next class in cyclic order by weight, its oldest request, and answers it with the mark; RATE_RECOVERY raises each rate by 16 to at most 1,024. -/
def Sys2Proof.Slice0.NetworkEvents : Prop :=
  ∀ (s : State),
    (∀ o, (s.net o).queue = [] → exec (.packetSend o) s = .next s) ∧
    (∀ o, let n := s.net o
      n.queue ≠ [] → 0 < s.dev.wreq → 0 < s.dev.wbulk → 0 < s.dev.wupd → ∃ p n' t, exec (.packetSend o) s = .next t ∧ p ∈ n.queue ∧
        OnChannel s n p ∧ InTurn n p ∧ n'.queue = n.queue.erase p ∧ n'.lastPart = n.lastPart.set (vcNum p.vc) (slotAt p) ∧
        (3 ≤ vcNum p.vc → n'.last = vcNum p.vc - 3 ∧ ∀ k < 3, creditOf n'.credits k = creditOf (creditsNow s n) k - if k = vcNum p.vc - 3 then 1 else 0) ∧
        (vcNum p.vc < 3 → n'.last = n.last ∧ n'.credits = n.credits) ∧
        let nets := Table.put .fresh s.nets o n'
        t.mem = s.mem ∧ t.warps = s.warps ∧
        (s.crosses p = true → t.parts = s.parts ∧
          (∀ x xs, p.route = x :: xs → t.nets = queued nets { p with output := x, route := xs } ∧ t.hbm = s.hbm ∧ t.rates = s.rates) ∧
          (p.route = [] → 3 ≤ vcNum p.vc → 64 ≤ p.mport → t.nets = queued nets (backTo p) ∧ t.hbm = s.hbm) ∧
          (p.route = [] → 3 ≤ vcNum p.vc → p.mport < 64 → let h := Table.get .fresh s.hbm p.mport
            (t.nets = nets ∧ t.hbm = Table.put .fresh s.hbm p.mport { h with waiting := h.waiting ++ [p] }) ∨
            (t.nets = queued nets (backTo p) ∧ t.hbm = s.hbm ∧ (Table.get .reset s.classes p.cls).ways ≠ 0)) ∧
          (p.route = [] → vcNum p.vc < 3 → t.nets = nets ∧ t.hbm = s.hbm ∧
            let k := p.ctx * 72 + p.port
            let r := Table.get .fresh s.rates k
            (p.vc ≠ .rsp ∨ p.marked = false → t.rates = s.rates) ∧
            (p.vc = .rsp → p.marked = true → (∀ id, p.src ≠ .access id) →
              t.rates = Table.put .fresh s.rates k { r with rate := max 8 (r.rate - r.rate / 8) }))) ∧
        (s.crosses p = false → t.nets = nets ∧ t.hbm = s.hbm ∧ t.rates = s.rates ∧
          (p.part < 16 → t.parts = (s.setPart p.part { s.part p.part with isolcnt := (s.part p.part).isolcnt + 1 }).parts) ∧
          (16 ≤ p.part → t.parts = s.parts))) ∧
    (∀ p,
      let r := Table.get .fresh s.rates (p.ctx * 72 + p.port)
      let x := s.part p.part
      let allotted := p.part < 16 ∧ x.allot ≠ 0
      let heavy := decide (3 ≤ vcNum p.vc)
      let at_ := fun (z : Table NetOut) => (Table.get .fresh z p.port).queue
      (heavy = true → r.bucket < 1024 ∨ (allotted ∧ x.bucket < p.bytes) → exec (.packetAdmit p) s = .next s) ∧
      (heavy = false ∨ 1024 ≤ r.bucket ∧ (allotted → p.bytes ≤ x.bucket) → ∃ sources, exec (.packetAdmit p) s = .next { s with
        sources := sources
        nets := queued s.nets p
        rates := if heavy then Table.put .fresh s.rates (p.ctx * 72 + p.port) { r with bucket := r.bucket - 1024 } else s.rates
        parts := if heavy = true ∧ allotted then Table.put .reset s.parts p.part { x with bucket := x.bucket - p.bytes } else s.parts } ∧
        at_ sources = (at_ s.sources).erase p ∧ ∀ k, k ≠ p.port → Table.get .fresh sources k = Table.get .fresh s.sources k)) ∧
    ((s.rates.map fun e => e.1).Nodup → ∃ t, exec .rateRecovery s = .next t ∧
      ∀ k, (Table.get .fresh t.rates k).rate = min 1024 ((Table.get .fresh s.rates k).rate + 16) ∧
        (Table.get .fresh t.rates k).bucket = (Table.get .fresh s.rates k).bucket) ∧
    (∀ m, let h := Table.get .fresh s.hbm m
      let weight := fun (p : Packet) => (Table.get .reset s.classes p.cls).weight
      let may := fun (p : Packet) => p ∈ h.waiting ∧ (weight p = 0 → ∀ x ∈ h.waiting, weight x = 0)
      let on := ∃ x, may x ∧ x.cls = h.last ∧ 0 < h.run ∧ h.run < weight x
      (h.waiting = [] → exec (.hbmRequestServe m) s = .next s) ∧
      (h.waiting ≠ [] → (∀ x ∈ h.waiting, x.cls < 32) → ∃ p, exec (.hbmRequestServe m) s = .next { s with
          hbm := Table.put .fresh s.hbm m ⟨h.waiting.erase p, p.cls, if p.cls = h.last ∧ 0 < h.run ∧ h.run < weight p then h.run + 1 else 1⟩
          nets := queued s.nets (backTo p) } ∧
        may p ∧ h.waiting.find? (fun x => x.cls == p.cls) = some p ∧ (on → p.cls = h.last) ∧
        (¬on → ∀ x, may x → gap 32 h.last p.cls ≤ gap 32 h.last x.cls)))

namespace Sys2Proof.Slice0

/-- What an atomic of the fabric does to its location (R182, R340). -/
def fabricAct : FabricOp → Option AtomDo
  | .atom o x => some (.op o x)
  | .cas e x => some (.cas e x)
  | .read | .write _ | .readWord | .writeWord _ => none

/-- A word as the reply of a fabric access carries it: its payload, and the code of its tag (R180). -/
def replied (x : Word) : Option (List Byte) := some (bytesLE x.pay.toNat 8 ++ [x.tag.code])

/-- An access from outside that its function's stage 2 lets through and that meets no poison: a read answers the bytes at their homes, a write of one byte
stores it at its home, and no write changes a register (R339, R340). -/
def OutsideDone (s : State) (i : Instr) (v a n : Nat) (wr : Option (List Byte)) : Prop :=
  ∀ trs, s.guestPages v wr.isSome a n = .ok trs →
    (wr = none → s.mem.tags = [] → s.mem.marks = [] → ∃ t bs, exec i s = .next t ∧ t.dev.reply = some bs ∧ t.mem = s.mem ∧ bs.length = n ∧
      ∀ k, k < n → ∀ x, transKey trs (a + k) = some x → bs[k]? = some (s.mem.byte x.2)) ∧
    (wr ≠ none → ∃ t, exec i s = .next t ∧ t.dev.reply = some [] ∧ t.warps.map (fun w => (w.id, w.v, w.s, w.p)) = s.warps.map (fun w => (w.id, w.v, w.s, w.p)) ∧
      ∀ b x, wr = some [b] → n = 1 → transKey trs a = some x → (s.ctx v).dirtyEn = false → s.mem.tags = [] → s.mem.wf = true → (∀ y ∈ s.l1, y.core < 512) → t.mem.byte x.2 = b)

end Sys2Proof.Slice0

/-- R246, R339 to R341: the host's window and the fabric reach memory under stage 2 of the function they name; a window access that faults reads all ones, drops writes and posts an event of
type 1, a refused packet changes nothing; a word of the fabric is read or written with its tag, and its ATOM or CAS is one indivisible update at the home; a launch packet that its table allows makes a launch, and a part of a collective waits for its match. -/
def Sys2Proof.Slice0.OutsideAccesses : Prop :=
  ∀ (s : State),
    (∀ off len wr, let n := accessSize len wr
      let a := s.dev.wgpa + off
      (s.dev.wen = false ∨ s.dev.wsize * 65536 < off + n → exec (.hostWindowAccess off len wr) s = .next s) ∧
      (s.dev.wen = true → off + n ≤ s.dev.wsize * 65536 →
        OutsideDone s (.hostWindowAccess off len wr) s.dev.wvf a n wr ∧
        ∀ g pool, s.guestPages s.dev.wvf wr.isSome a n = .error (g, pool) → exec (.hostWindowAccess off len wr) s = .next { s with
          nextId := s.nextId + 1
          dev := { s.dev with
            reply := some (if wr.isSome then [] else List.replicate n 0xFF)
            evwait := s.dev.evwait ++ [⟨1, s.dev.wvf, s.nextId, BitVec.ofNat 64 g, (if wr.isSome then 1 else 0) + if pool then 4 else 0, []⟩] } })) ∧
    (∀ dom gpa len op, let n := fabricSize len op
      let i : Instr := .fabricMemoryAccess dom gpa len op
      let refused : State := { s with dev := { s.dev with reply := none } }
      (s.domainVf dom = none → exec i s = .next refused) ∧
      (∀ v, s.domainVf dom = some v →
        (∀ g, s.guestPages v (fabricWrites op) gpa n = .error g → exec i s = .next refused) ∧
        (op = .read → OutsideDone s i v gpa n none) ∧ (∀ bs, op = .write bs → OutsideDone s i v gpa n (some bs)) ∧
        ∀ trs tr k, s.guestPages v (fabricWrites op) gpa n = .ok trs → transKey trs gpa = some (tr, k) → op ≠ .read → (∀ bs, op ≠ .write bs) →
          (n ≠ 4 ∧ n ≠ 8 ∨ gpa % n ≠ 0 ∨ tr.kind ≠ .device → exec i s = .next refused) ∧
          (n = 4 ∨ n = 8 → gpa % n = 0 → tr.kind = .device → (s.ctx v).dirtyEn = false → (∀ y ∈ s.l1, y.core < 512) →
            ∃ t, exec i s = .next t ∧
              (op = .readWord → t.mem = s.mem ∧ t.dev.reply = replied (s.mem.whole tr.tagged k)) ∧
              (∀ x, op = .writeWord x → t.mem = s.mem.store ⟨k, 8, x.pay, if tr.tagged then some x.tag else none, false⟩) ∧
              (∀ act, fabricAct op = some act → let r := atomOn s.mem tr.tagged k n act
                t.mem = r.1.toList.foldl Mem.store s.mem ∧ t.dev.reply = replied r.2)))) ∧
    (∀ dom desc pkg blocks,
      let refused : State := { s with dev := { s.dev with reply := none } }
      (s.domainVf dom = none → exec (.fabricLaunchPacket dom desc pkg blocks) s = .next refused) ∧
      ∀ v, s.domainVf dom = some v →
        ((s.ctx v).fmask.getLsbD 3 = true ∨ s.ltMatch v desc pkg blocks = none → exec (.fabricLaunchPacket dom desc pkg blocks) s = .next refused) ∧
        ∀ e ws, (s.ctx v).fmask.getLsbD 3 = false → s.ltMatch v desc pkg blocks = some e → s.deviceWords v 1 desc 16 = .ok ws →
          s.refusal v ⟨desc, some ws, true, some (blocks, 1, 1), false, false, false⟩ = none →
          ∃ t, exec (.fabricLaunchPacket dom desc pkg blocks) s = .next t ∧ t.dev.reply = some [] ∧ t.mem = s.mem ∧ t.launches = s.launches ++
            [⟨s.nextId, BitVec.ofNat 32 (Table.get 0 s.serials 0), v, desc, kdescOf ws, .fabric, ⟨.bits, (kdescOf ws).arg⟩, 0, blocks, blocks,
              false, 0, 0, none, 0, 0, e.cls, false, false⟩]) ∧
    (∀ msg, exec (.fabricCollectiveTraffic msg) s =
      .next (if (s.domainVf (msg.dom / 65536)).isSome then { s with colls := s.colls ++ [msg] } else s))

/-- R246, R306, R315, R317, R319, R320, R339 to R341: the events of the network, the host window and the fabric. Model's choices: log entries 4, 11, 28, 81, 82, 83, 94, 114, 115. -/
def Obligations.NetworkAndOutsideEvents : Prop := Sys2Proof.Slice0.NetworkEvents ∧ Sys2Proof.Slice0.OutsideAccesses

/-! ## Events: partitions -/

namespace Sys2Proof.Slice0

/-- Whether a unit that is saved with a wait executes anew: it waits at a latch or at a barrier (R152, R290). -/
def anew : Wait → Bool
  | .latch _ _ _ | .barrier _ _ => true
  | _ => false

/-- A warp as it resumes elsewhere: itself, with its registers, predicates and units (R332, R335). -/
def SameWarp (w y : Warp) : Prop :=
  y.id = w.id ∧ y.task = w.task ∧ y.v = w.v ∧ y.s = w.s ∧ y.p = w.p ∧ y.live = w.live ∧ y.held = false ∧
  unitsOf y = (unitsOf w).map fun x => if anew x.2.2.2 then (x.1, x.2.1, x.2.2.1, .run) else x

/-- A task as it resumes elsewhere: itself, its commands and speculative stores in their places there (R332, R361). -/
def SameTask (t y : Task) (core : Nat) : Prop :=
  y = { t with core := core, bars := [], eng := y.eng, specStores := y.specStores, ways := y.ways } ∧ (t.eng = [] → y.eng = []) ∧
  (t.specStores = [] → y.specStores = [] ∧ y.ways = [])

/-- A partition's machine with the tasks that leave its cores halted, and those of them gone that move. -/
def haltedOn (s : State) (p : Nat) : State :=
  { s with warps := s.warps.map fun w => if (s.departing p).any (fun t => t.id == w.task) then w.halt else w }
def without (s : State) (t : Task) : State :=
  { s.fenceL1 t.core true false 7 with tasks := s.tasks.filter fun x => x.id != t.id, warps := s.warps.filter fun w => w.task != t.id }

end Sys2Proof.Slice0

/-- R305 to R307, R320, R332 to R336: a Castling goes from its check through preload, migrate and scrub to its commit, a refused one says why; at the grace's end the tasks that are
left on departing cores are halted, and one that can be saved goes on elsewhere with its registers; the ports that leave are cleared, a line has its old home until it has moved, and an
allotment that would exceed NETCAP is ignored. Model's choices: log entries 11, 79. -/
def Obligations.PartitionEvents : Prop :=
  ∀ (s : State) (p : Nat), let x := s.part p
    let leaving := x.cports &&& ~~~x.scports
    (x.state ≠ 0 → x.state ≠ 1 → exec (.castlingGo p) s = .next s) ∧
    (x.state = 0 → exec (.castlingGo p) s = .next (s.setPart p { x with state := 1 })) ∧
    (x.state = 1 → s.castlingRefusal p ≠ 0 → exec (.castlingGo p) s = .next (s.setPart p { x with refuse := s.castlingRefusal p, done := true, state := 0 })) ∧
    (x.state = 1 → s.castlingRefusal p = 0 →
      exec (.castlingGo p) s = .next (s.setPart p { x with refuse := 0, state := 2, matrix := x.mports ||| x.smports, moved := [] })) ∧
    (∀ k, k < 2 ^ 48 → s.homeAt (p * 2 ^ 48 + k) =
      homeOf (portsOf (if x.state < 2 ∨ x.state = 2 ∧ k / 128 ∉ x.moved then x.mports else x.smports)) k) ∧
    exec (.castlingSweepComplete p) s = .next (if x.state = 2 then s.setPart p { x with state := 3, since := s.nowNs, moved := [] } else s) ∧
    (x.state ≠ 3 ∨ s.nowNs < x.since + x.cgrace * 1000 → exec (.castlingCgraceExpiry p) s = .next s) ∧
    (x.state = 3 → x.since + x.cgrace * 1000 ≤ s.nowNs →
      ((∀ t ∈ s.departing p, ∃ y ∈ s.stores, y.task = t.id) → exec (.castlingCgraceExpiry p) s = .next (haltedOn s p)) ∧
      ∀ t c, s.departing p = [t] → t.cohort = none → t.core < 512 → (haltedOn s p).saveable false t = true → c ∈ x.cores →
        (without (haltedOn s p) t).takesBack t (s.warps.filter fun w => w.task == t.id) c = true →
        ∃ z d, exec (.castlingCgraceExpiry p) s = .next z ∧ d ∈ x.cores ∧ (∃ y ∈ z.tasks, SameTask t y d) ∧
          ∀ w ∈ s.warps, w.task = t.id → ∃ y ∈ z.warps, SameWarp w y) ∧
    (x.state ≠ 3 → x.state ≠ 4 → exec (.castlingScrub p) s = .next s) ∧
    (x.state = 3 → exec (.castlingScrub p) s = .next (if ∃ t ∈ s.tasks, t.core < 512 ∧ leaving.getLsbD (t.core / 8) = true then s
      else s.setPart p { x with state := 4, matrix := x.smports })) ∧
    (x.state = 4 → ∃ t, exec (.castlingScrub p) s = .next t ∧ t.parts = (s.setPart p { x with state := 5 }).parts ∧
      (∀ y ∈ t.l1, 512 ≤ y.core ∨ leaving.getLsbD (y.core / 8) = false) ∧ (∀ y ∈ t.icache, 512 ≤ y.core ∨ leaving.getLsbD (y.core / 8) = false) ∧
      t.dev.scrubbed = (s.dev.scrubbed.1 ||| leaving, s.dev.scrubbed.2 ||| (x.mports &&& ~~~x.smports)) ∧
      (x.mports &&& ~~~x.smports ≠ 0 → ∀ k, capOf x.smports * 65536 ≤ k → k < 2 ^ 48 → t.mem.byte (p * 2 ^ 48 + k) = 0)) ∧
    (x.state ≠ 5 → exec (.castlingCommit p) s = .next s) ∧
    (x.state = 5 → ∃ t, exec (.castlingCommit p) s = .next t ∧ t.mem = s.mem ∧ t.tasks = s.tasks ∧ t.parts = (s.setPart p { x with
      cports := x.scports, mports := x.smports, matrix := x.smports, cap := capOf x.smports, state := 0, done := true }).parts) ∧
    (∀ v : BitVec 16, exec (.allotWrite p v) s = .next (s.setPart p (if 9600 < (((List.range 16).filter fun q => q != p).map fun q => (s.part q).allot).sum + v.toNat
      then { x with allotErr := true } else { x with allot := v.toNat })))

/-! ## Events: contexts -/

namespace Sys2Proof.Slice0

/-- A context without a launch, a queue and a store in flight: no completion record and no retraction is written when it is killed. -/
def quiet (s : State) (v : Nat) : Prop :=
  (∀ l ∈ s.launches, l.ctx ≠ v) ∧ (s.ctx v).save.launches = [] ∧ (s.ctx v).queues = [] ∧ ∀ p ∈ s.stores, p.ctx ≠ v

/-- What a kill leaves of a context (R337): no task, no launch and no L1 line of it, what they held dirty at its home; it is empty, and an event of
type 6 says so. -/
def Killed (s t : State) (v : Nat) : Prop :=
  (quiet s v → s.mem.wf = true →
    (∀ x, OnlyCopy s x → x.ctx = v → WrittenBack s t x) ∧
    ∀ a, (∀ x ∈ s.l1, x.ctx = v → x.isDirty = true → x.line ≠ a / 128) → t.mem.byte a = s.mem.byte a) ∧
  t.tasks.map (fun x => x.id) = (s.tasks.filter fun x => x.ctx != v).map (fun x => x.id) ∧ t.launches = s.launches.filter (fun x => x.ctx != v) ∧ (∀ x ∈ t.l1, x.ctx ≠ v) ∧
  (t.ctx v).saveState = 0 ∧ (t.ctx v).ladder = none ∧ (t.ctx v).waiters = [] ∧ t.dev.evwait = s.dev.evwait ++ [⟨6, v, 0, 0, 0, []⟩]

/-- A pre-emption request's outcome (R337): a running context without one begins the ladder. -/
def Requested (s : State) (i : Instr) (v : Nat) : Prop :=
  ((s.ctx v).saveState = 1 → (s.ctx v).ladder = none → ∃ t, exec i s = .next t ∧ (t.ctx v).saveState = 2 ∧ (t.ctx v).ladder = some (s.nowNs, 0)) ∧
  ((s.ctx v).saveState ≠ 1 ∨ (s.ctx v).ladder ≠ none → exec i s = .next s)

/-- Whether every task of a context can be saved (R361), at its task boundaries only while the ladder is soft. -/
def allSaveable (s : State) (v : Nat) : Bool :=
  (s.ctxTasks v).all fun t => s.saveable (match (s.ctx v).ladder with | some (_, k) => k == 0 | none => false) t

end Sys2Proof.Slice0

/-- R324, R337, R338, R359 to R366: the pre-emption ladder of a context; its save, which writes its area and reports the digest; its restore, which checks them; kill and reset; the probe
of its save area page by page, and the invalidations of its translations; an event that is not enabled changes nothing. Model's choices: log entries 4, 11, 74, 75, 76, 77, 106. -/
def Obligations.ContextEvents : Prop :=
  ∀ (s : State) (v : Nat), let c := s.ctx v
    let event := fun (z : State) (e : EvRec) => ({ z with dev := { z.dev with evwait := z.dev.evwait ++ [e] } } : State)
    let page := fun (i : Nat) => c.savegpa + i * 65536
    exec (.vfEnable v) s = .next (if c.en then s else s.setCtx v { c with en := true, pinned := false, probeAt := 0, fmaskOn := c.fmask }) ∧
    (c.en = false ∨ c.pinned = true ∨ (∃ x ∈ c.waiters, ∃ g, x.2 = .probe g) → exec (.saveAreaProbe v) s = .next s) ∧
    (c.en = true → c.pinned = false → (∀ x ∈ c.waiters, ∀ g, x.2 ≠ .probe g) →
      ((∀ i, c.probeAt ≤ i → i < c.savesize → s.pageOk v true (page i) = true) → exec (.saveAreaProbe v) s = .next (s.setCtx v { c with pinned := true })) ∧
      ∀ i, c.probeAt ≤ i → i < c.savesize → s.pageOk v true (page i) = false → (∀ j, c.probeAt ≤ j → j < i → s.pageOk v true (page j) = true) →
        ∃ t, exec (.saveAreaProbe v) s = .next t ∧ t.dev.evwait = s.dev.evwait ++ [⟨2, v, s.nextId, BitVec.ofNat 64 (page i), 1, []⟩] ∧
          t.ctx v = { c with probeAt := i, waiters := c.waiters ++ [(s.nextId, .probe (page i))] } ∧ ∀ x, x ≠ v → t.ctx x = s.ctx x) ∧
    Requested s (.cmdStopSave v) v ∧
    (c.slice ≠ 0 → c.since + c.slice * 1000 ≤ s.nowNs → Requested s (.sliceExpiry v) v) ∧
    (c.slice = 0 ∨ s.nowNs < c.since + c.slice * 1000 → exec (.sliceExpiry v) s = .next s) ∧
    (∀ t, c.ladder = some (t, 0) → t + c.grace * 1000 ≤ s.nowNs → exec (.graceExpiry v) s = .next { s.setCtx v { c with ladder := some (t, 1) } with
      warps := s.warps.map fun w => if s.tasks.any (fun t => t.ctx == v && t.id == w.task) then w.halt else w }) ∧
    ((∀ t, c.ladder = some (t, 0) → s.nowNs < t + c.grace * 1000) → exec (.graceExpiry v) s = .next s) ∧
    ((∀ t k, c.ladder = some (t, k) → s.nowNs < t + c.kill * 1000) → exec (.killExpiry v) s = .next s) ∧
    ((∃ t, exec (.cmdKill v) s = .next t ∧ Killed s t v) ∧
      (∀ t k, c.ladder = some (t, k) → t + c.kill * 1000 ≤ s.nowNs → ∃ z, exec (.killExpiry v) s = .next z ∧ Killed s z v) ∧
      ∃ t, exec (.vfFlr v) s = .next t ∧ Killed s t v ∧ (t.ctx v).vqtab = 0 ∧ (t.ctx v).vqcount = 0 ∧ (t.ctx v).s1root = 0 ∧ (t.ctx v).queues = [] ∧
        (∀ e ∈ t.tlb, e.ctx ≠ v)) ∧
    (c.saveState ≠ 2 ∨ allSaveable s v = false → exec (.saveComplete v) s = .next s) ∧
    (c.saveState = 2 → allSaveable s v = true →
      let a := s.areaOf v
      let bytes := Config.areaLayout a
      let need := (bytes.length + 65535) / 65536
      let z := s.saveTasks v (s.ctxTasks v)
      (c.savesize < need → ∃ t, exec (.saveComplete v) s = .next t ∧ (t.ctx v).saveState = 4 ∧ t.tasks = s.tasks ∧ t.mem = s.mem ∧
        t.dev.evwait = s.dev.evwait ++ [⟨9, v, s.nextId, BitVec.ofNat 64 c.savegpa, BitVec.ofNat 64 need, []⟩]) ∧
      (need ≤ c.savesize → ∀ i < need, s.pageOk v true (page i) = false → (∀ j < i, s.pageOk v true (page j) = true) →
        ∃ t, exec (.saveComplete v) s = .next t ∧ (t.ctx v).saveState = 4 ∧ t.tasks = s.tasks ∧
          t.dev.evwait = s.dev.evwait ++ [⟨2, v, s.nextId, BitVec.ofNat 64 (page i), 1, []⟩]) ∧
      (need ≤ c.savesize → (∀ i < need, s.pageOk v true (page i) = true) → ∃ t, exec (.saveComplete v) s = .next t ∧ (t.ctx v).saveState = 3 ∧
        (t.ctx v).ladder = none ∧ (t.ctx v).save = a ∧ a.complete = true ∧ (t.ctx v).digest = digestOf bytes ∧ (∀ x ∈ t.tasks, x.ctx ≠ v) ∧
        t.launches = s.launches.filter (fun l => l.ctx != v) ∧ t.dev.evwait = s.dev.evwait ++ [⟨7, v, 0, 0, 0, []⟩] ∧
        (s.mem.wf = true → c.dirtyEn = false → (∀ y ∈ s.l1, y.core < 512) → ∀ i < bytes.length, ∀ k, z.guestKey v (c.savegpa + i) = some k →
          (∀ j < bytes.length, z.guestKey v (c.savegpa + j) = some k → j = i) → t.mem.byte k = bytes.getD i 0))) ∧
    (c.en = false ∨ c.pinned = false ∨ (c.saveState ≠ 0 ∧ c.saveState ≠ 3) → exec (.cmdRestore v) s = .next s) ∧
    (c.en = true → c.pinned = true → c.saveState = 0 ∨ c.saveState = 3 →
      (∀ g, (c.savePages c.savesize).find? (fun g => !s.pageOk v false g) = some g → ∃ t, exec (.cmdRestore v) s = .next t ∧ (t.ctx v).saveState = 6 ∧
        (∃ since, (t.ctx v).ladder = some (since, 2)) ∧ t.dev.evwait = s.dev.evwait ++ [⟨2, v, s.nextId, BitVec.ofNat 64 g, 0, []⟩]) ∧
      ((∀ g ∈ c.savePages c.savesize, s.pageOk v false g = true) →
        let r := s.areaRead v
        let bad := fun (d : W64) => event (s.setCtx v { c with saveState := 0, ladder := none }) ⟨10, v, 0, BitVec.ofNat 64 c.savegpa, d, []⟩
        (c.digest ≠ digestOf r.2 → exec (.cmdRestore v) s = .next (bad 1)) ∧
        (c.digest = digestOf r.2 → r.1.major ≠ s.fwMajor → exec (.cmdRestore v) s = .next (bad 2)) ∧
        (c.digest = digestOf r.2 → r.1.major = s.fwMajor → ∃ t, exec (.cmdRestore v) s = .next t ∧
          t.ctx v = { c with saveState := 5, save := r.1.rebound s.nextId v } ∧ t.mem = s.mem ∧ t.warps = s.warps ∧ t.tasks = s.tasks))) ∧
    (c.saveState ≠ 5 ∨ s.allBack c.save (s.openCores c.part) = none → exec (.restoreComplete v) s = .next s) ∧
    (∀ z, c.saveState = 5 → s.allBack c.save (s.openCores c.part) = some z → (z.ctx v).fmask.getLsbD 2 = false →
      let x := z.ctx v
      ∃ t, exec (.restoreComplete v) s = .next t ∧ t.tasks = z.tasks ∧ t.launches = z.launches ++ x.save.launches ∧ t.mem = z.mem ∧
        (x.save.answers = [] → x.answers = [] → t.warps = z.warps) ∧ t.dev.evwait = z.dev.evwait ++ [⟨8, v, 0, 0, 0, []⟩] ∧
        ∃ queues waiters, t.ctx v = { x with
          saveState := 1
          ladder := none
          since := z.nowNs
          timeO := z.nowNs
          timeB := x.save.gs + (if x.pauseIncl then x.timeadj.toNat else 0)
          fmaskOn := x.fmask
          ttab := x.save.ttab
          queues := queues
          waiters := waiters
          answers := []
          save := .empty }) ∧
    (c.saveState ≠ 4 → c.saveState ≠ 6 → exec (.cmdContinue v) s = .next s) ∧
    (c.saveState = 4 → ∃ t, exec (.cmdContinue v) s = .next t ∧ (t.ctx v).saveState = 2 ∧ t.tasks = s.tasks ∧ t.mem = s.mem) ∧
    exec (.s1inv v) s = .next { s with tlb := s.tlb.filter fun e => e.ctx != v } ∧
    (∃ t, exec (.s2Invalidate v) s = .next t ∧ t.ctxs = (s.setCtx v { c with s2busy := true }).ctxs ∧ t.mem = s.mem ∧
      (t.tlb = s.tlb ∨ t.tlb = s.tlb.filter fun e => !(e.ctx == v && c.inS2 e.tr))) ∧
    exec (.s2InvalidateComplete v) s = .next (if !c.s2busy || s.holdsS2 v c then s else
      { s.setCtx v { c with s2busy := false } with tlb := s.tlb.filter fun e => !(e.ctx == v && c.inS2 e.tr) })

namespace Sys2Proof.Slice0

/-- A context whose waiter under a REF has been answered. -/
def answer (s : State) (v ref : Nat) : State := s.setCtx v { s.ctx v with waiters := (s.ctx v).waiters.filter fun x => x.1 != ref }

/-- An answer kept for the warps of a context that have been saved (R356, R358). -/
def kept (s : State) (v : Nat) (a : Nat × Option W64) : State :=
  if (s.ctx v).save.warps = [] then s else s.setCtx v { s.ctx v with answers := (s.ctx v).answers ++ [a] }

/-- A warp with the sub-paths of a wait running again. -/
def resume (x : Wait) (w : Warp) : Warp :=
  { w with splits := w.splits.map fun sp => { sp with paths := sp.paths.map fun p => if p.wait = x then { p with wait := .run } else p } }

/-- Whether a warp is one of a context's (R358). -/
def ofCtx (s : State) (v : Nat) (w : Warp) : Bool := match s.task? w.task with | some t => t.ctx == v | none => false

/-- The warps of a context changed, those of others as they were. -/
def changed (s : State) (v : Nat) (f : Warp → Warp) : List Warp := s.warps.map fun w => if ofCtx s v w then f w else w

/-- A warp whose units that wait on stage 2 under a REF run again: its splits owe them before a halt that comes later, not before one that has come
(R348). -/
def owes (ref : Nat) (w : Warp) : Warp :=
  let mine := (w.splits.filter fun sp => sp.paths.any fun p => p.wait == .stage2 ref).map fun sp => sp.num
  { resume (.stage2 ref) w with owed := if w.held then w.owed else w.owed ++ mine.filter fun n => !w.owed.contains n }

end Sys2Proof.Slice0

/-- R331, R345, R348, R356, R358: the hypervisor's answers: a unit that waits on stage 2 is executed again, before a halt that comes later, or raises MEM_FAULT with KIND 6; a double-trapped
warp of that context tries again, an HCALL goes on with HVVAL in s56, or when its warp comes back; an answer to nothing has no effect. An event is posted while its ring has room. Model's choices: log entries 4, 11, 78, 80. -/
def Obligations.HypervisorEvents : Prop :=
  ∀ (s : State) (v ref : Nat),
    ((s.ctx v).waiter ref = none → exec (.hvActionRetry v ref) s = .next s ∧ exec (.hvActionConvert v ref) s = .next s ∧ exec (.hvActionHcall v ref) s = .next s) ∧
    (∀ va kind mask, (s.ctx v).waiter ref = some (.unit va kind mask) →
      exec (.hvActionRetry v ref) s = .next { answer s v ref with warps := changed s v (owes ref) } ∧
      (∀ u, s.waitingUnit v ref = some u → ∃ u' : U, u'.c = u.c ∧ u'.pa = u.pa ∧ u'.t = u.t ∧ u'.w = u.w.setHead u.c.split u.pa ∧
        exec (.hvActionConvert v ref) s = .next (((answer s v ref).setWarp u'.w).raise u' ⟨19, 6, false, kind % 4 == 1, kind % 4 == 2, 0, mask, va⟩)) ∧
      exec (.hvActionHcall v ref) s = .next s) ∧
    (∀ w, (s.ctx v).waiter ref = some (.doubleTrap w) → exec (.hvActionRetry v ref) s =
      .next { kept (answer s v ref) v (ref, none) with warps := changed s v fun w => if w.stopped = some ref then { w with stopped := none } else w }) ∧
    ((s.ctx v).waiter ref = some .hcall → ∃ t, exec (.hvActionHcall v ref) s = .next t ∧ t.mem = s.mem ∧
      t.ctxs = (kept (answer s v ref) v (ref, some (s.ctx v).hvval)).ctxs ∧
      t.warps = changed s v fun w => if (unitsOf w).any (fun x => x.2.2.2 == .hcall ref) then resume (.hcall ref) (w.setS 56 ⟨.int, (s.ctx v).hvval⟩) else w) ∧
    (let d := s.dev
      let full := 2 ^ d.evlog ≤ (d.evtail + 2 ^ 32 - d.evhead) % 2 ^ 32
      (d.evwait = [] ∨ d.evlog < 6 ∨ full → exec .eventRingPost s = .next s) ∧
      ∀ e es, d.evwait = e :: es → 6 ≤ d.evlog → ¬full → (∀ x ∈ s.l1, x.core < 512) → s.mem.wf = true →
        let k := 16 * 2 ^ 48 + d.evbase + 64 * (d.evtail % 2 ^ d.evlog)
        ∃ t, exec .eventRingPost s = .next t ∧ t.dev = { d with evwait := es, evtail := (d.evtail + 1) % 2 ^ 32, msix := d.msix + 1 } ∧
          t.mem.read k 8 = (e.type + e.vf * 2 ^ 8 + e.ref % 2 ^ 32 * 2 ^ 32) % 2 ^ 64 ∧ t.mem.read (k + 8) 8 = e.addr.toNat ∧
          t.mem.read (k + 16) 8 = e.detail.toNat ∧ t.mem.read (k + 56) 8 = (s.guestTime e.vf).toNat ∧
          ∀ a, a < k ∨ k + 64 ≤ a → t.mem.byte a = s.mem.byte a)

/-! ## Events: the device -/

namespace Sys2Proof.Slice0

/-- What the boot ROM asks of an image beside its header (R371): the digest of its key in a fused slot that is not revoked, the signature, the
rollback number, the digest of its body; and a release of the 3.x series (R1). -/
def Verified (img : List Byte) : Prop :=
  let key := Config.signingKey img
  (∃ k < 4, Config.revoked k = false ∧ Config.fusedKey k = sha512 key) ∧
  Config.ed25519Verifies key (sha512 (img.take 128)) ((img.drop 128).take 64) = true ∧
  Config.minRollback ≤ numLE ((img.drop 12).take 4) ∧ sha512 (img.drop 192) = (img.drop 24).take 64 ∧ numLE ((img.drop 4).take 8) / 2 ^ 32 % 2 ^ 16 = 3

/-- A request for an image refused with an error (R74, R76). -/
def imageFails (s : State) (e : ImgError) : State := { s with nextId := s.nextId + 1, dev := { s.dev with reply := none, imgErr := some e } }

/-- The cached code of an image (R77): its key is the digest of the whole image, the level and the options word. -/
def entryFor (img : List Byte) (code : List W32) (debug : Option (List (Nat × Nat × Nat × Nat))) (mask : BitVec 96) (used : Nat) : ImgEntry :=
  ⟨digestOf img, 3, numLE ((img.drop 8).take 4), code, debug, mask, false, used⟩

/-- The digest of the image that runs, in bytes 48 to 111 of a report (R372). -/
def reportsImage (t : State) (image : List Byte) : Prop :=
  ∀ i < 64, Table.get 0 t.dev.report (48 + i) = (sha512 (if image = [] then Config.factoryImage else image)).getD i 0

end Sys2Proof.Slice0

/-- R1, R11, R74 to R78, R183, R307, R324, R371, R372: accesses to registers below their level are ignored, other writes store their fields and reads give them; a device reset leaves every
register at reset and device memory 0, host memory, the inputs, the clocks and the power of the blocks as they were; a verified image runs from the next reset; a report is made of the
image that runs, or an error noted for a function that does not exist; portable images that are malformed or cannot be translated are refused with their error, known ones become visible,
new ones are translated with a JOIN at each convergence marker and at no other point, and are fetched from the cache alone, by those who see them; an L1 line's clean bytes may be read again. -/
def Sys2Proof.Slice0.RegisterAndResetEvents : Prop :=
  ∀ (s : State),
    let r : State := s.waitAt [registerPacket]
    (∀ off v pl, pl < 2 → exec (.registerWrite none off v pl) s = .next r) ∧
    (∀ vf off v pl, pl < 1 ∨ 96 ≤ vf → exec (.registerWrite (some vf) off v pl) s = .next r) ∧
    (∀ p v pl, p < 16 → 2 ≤ pl → let x := s.part p
      exec (.registerWrite none (0x100010 + 0x100 * p) v pl) s = .next (if x.state = 0 then r.setPart p { x with scports := v } else r) ∧
      exec (.registerWrite none (0x100018 + 0x100 * p) v pl) s = .next (if x.state = 0 then r.setPart p { x with smports := v } else r) ∧
      exec (.registerWrite none (0x100028 + 0x100 * p) v pl) s = .next (if v.getLsbD 12 then r.setPart p { x with done := false } else r) ∧
      exec (.registerWrite none (0x100000 + 0x100 * p) v pl) s = .next r ∧
      s.readRegister none (0x100010 + 0x100 * p) pl = some x.scports ∧ s.readRegister none (0x100018 + 0x100 * p) pl = some x.smports) ∧
    (∀ off pl, pl < 2 → s.readRegister none off pl = none) ∧
    (∀ vf v pl, vf < 96 → 1 ≤ pl → let c := s.ctx vf
      exec (.registerWrite (some vf) 0x08 v pl) s = .next (r.setCtx vf { c with vqtab := v &&& 0x01FFFFFFFFFFFFFF }) ∧
      exec (.registerWrite (some vf) 0x10 v pl) s =
        .next (if c.vqmax < v.toNat % 2 ^ 16 ∨ 65536 < ((s.ctxs.filter fun e => e.1 != vf).map fun e => e.2.vqcount).sum + v.toNat % 2 ^ 16 then r
          else r.setCtx vf { c with vqcount := v.toNat % 2 ^ 16 }) ∧
      s.readRegister (some vf) 0x08 pl = some c.vqtab ∧ s.readRegister (some vf) 0x00 pl = some 0 ∧
      exec (.registerWrite (some vf) 0x18 v pl) s = .next (r.setCtx vf { c with s1root := v.toNat / 4096 % 2 ^ 36 * 4096 }) ∧
      exec (.registerWrite (some vf) 0x20 v pl) s = .next (if v.getLsbD 0 then { r with tlb := s.tlb.filter fun e => e.ctx != vf } else r)) ∧
    (∃ t : State, exec .deviceReset s = .next t ∧ t = { State.reset with
        mem := t.mem
        dev := { Dev.reset with
          image := s.dev.nextImage.getD s.dev.image
          gated := s.dev.gated
          woke := s.dev.woke
          freq := s.dev.freq
          cxl := s.dev.cxl }
        inputs := s.inputs
        nowNs := s.nowNs
        cycles := s.cycles
        tick := s.tick
        nextId := s.nextId } ∧ (∀ k, k < 16 * 2 ^ 48 → t.mem.byte k = 0) ∧ ∀ k, 16 * 2 ^ 48 ≤ k → t.mem.byte k = s.mem.byte k) ∧
    (∀ img, (imageHeader img = true → Verified img →
        exec (.firmwareImageLoad img) s = .next { s with dev := { s.dev with nextImage := some img } }) ∧
      (imageHeader img = false ∨ ¬Verified img → exec (.firmwareImageLoad img) s = .next s)) ∧
    (∃ t, exec .attestDeviceReport s = .next t ∧ t.dev.ready = true ∧ t.dev.err = false ∧ t.mem = s.mem ∧ reportsImage t s.dev.image) ∧
    (∀ vf, vf < 96 → ∃ t, exec (.attestVfReport vf) s = .next t ∧ t.dev.ready = true ∧ t.dev.err = false ∧ t.mem = s.mem ∧ reportsImage t s.dev.image) ∧
    (∀ vf, 96 ≤ vf → exec (.attestVfReport vf) s = .next { s with dev := { s.dev with ready := false, err := true } }) ∧
    (∀ vf img, imageFormed img = false ∨ 96 < vf → exec (.swienekTranslate vf img) s = .next (imageFails s .malformed)) ∧
    (∀ vf img, imageFormed img = true → vf < 96 →
      (∀ code debug mask used, s.dev.images = [entryFor img code debug mask used] → ∃ t, exec (.swienekTranslate vf img) s = .next t ∧
        t.dev.reply = some [] ∧ t.dev.images = [entryFor img code debug (mask ||| ((1 : BitVec 96) <<< vf)) s.nextId]) ∧
      (s.dev.images = [] →
        (∀ o, translateImage img = .error o → exec (.swienekTranslate vf img) s = .next (imageFails s (.failed o))) ∧
        ∀ c, translateImage img = .ok c → ∃ t, exec (.swienekTranslate vf img) s = .next t ∧
          t.dev.reply = some [] ∧ t.dev.imgErr = none ∧ t.dev.images =
            [entryFor img c.words (if (numLE ((img.drop 8).take 4)).testBit 2 then some c.ops else none) ((1 : BitVec 96) <<< vf) s.nextId] ∧
          ∃ fs ks, Config.imageContents img = .ok (fs, ks) ∧ (∀ f ∈ fs, f.wf = true) ∧
            c.keeps fs ks (numLE ((img.drop 8).take 4)) ((Config.spillArea img).getD 0) = true ∧
            ∀ at_ : Nat, (∃ d, (at_, d) ∈ codeUnits c.words.length 0 c.words ∧ d.instr = .join) ↔ at_ ∈ c.markersAt fs)) ∧
    (∀ (k : Task) (pl : Nat) (va : W64) (e : ImgEntry) (a i : Nat), s.imageAt k.ctx va.toNat = some (e, a) → va.toNat = a + 4 * i → a % 4 = 0 →
      (∀ l ∈ s.icache, ¬(l.core = k.core ∧ l.ctx = k.ctx ∧ l.line = va.toNat / 128)) →
      ∃ t, s.fetchWord k pl va = .ok (t, e.code.getD i 0) ∧ t.mem = s.mem ∧ ∃ l, t.icache = s.icache ++ [l] ∧ l.ctx = k.ctx) ∧
    (∀ core line, ∃ t, exec (.cleanLineRefetch core line) s = .next t ∧ t.mem = s.mem ∧ t.l1.length = s.l1.length ∧
      ∀ (i : Nat) (x : L1Line), s.l1[i]? = some x → ∃ y, t.l1[i]? = some y ∧ y.core = x.core ∧ y.ctx = x.ctx ∧ y.line = x.line ∧ y.dirty = x.dirty ∧ y.scope = x.scope ∧
        (x.core ≠ core ∨ x.line ≠ line → y = x))

/-- R30, R31, R367, R368: an uncorrectable error in a register makes it POISON, in a line of memory its words POISON where it holds tags and else marks it, in a clean line of the L1 or the L2 drops it, in
a translation or an instruction line drops it or makes it bad, and in firmware state resets the device and is noted in the CXL error log; it is counted and reported by an event of type 5. A corrected one is counted alone. A core gates only without a task. -/
def Sys2Proof.Slice0.ErrorAndPowerEvents : Prop :=
  ∀ (s : State),
    (∀ w l r, s.warp? w.id = some w → l < w.width → r < w.nregs → r < 256 → ∃ t x, exec (.uncorrectableError (.vreg w.id l r)) s = .next t ∧ t.warp? w.id = some x ∧
      Table.get .nil x.v (l * 256 + r) = ⟨.poison, 1⟩ ∧ (∀ k, k ≠ l * 256 + r → Table.get .nil x.v k = Table.get .nil w.v k) ∧ x.s = w.s ∧ t.mem = s.mem ∧
      t.dev.uecnt = s.dev.uecnt + 1 ∧ ∃ f, t.dev.evwait = s.dev.evwait ++ [⟨5, f, 0, 0, 1, []⟩]) ∧
    (∀ k, k < 16 * 2 ^ 48 → s.mem.wf = true → ∃ t, exec (.uncorrectableError (.memory k)) s = .next t ∧ t.dev.uecnt = s.dev.uecnt + 1 ∧ t.dev.ueaddr = k % 2 ^ 48 ∧ t.warps = s.warps ∧
      (s.taggedLine (k / 128) = true → ∀ i, i < 16 → t.mem.word (k / 128 * 128 + 8 * i) = ⟨.poison, 2⟩) ∧
      (s.taggedLine (k / 128) = false → t.mem.marked k = true ∧ t.mem.bytes = s.mem.bytes ∧ t.mem.tags = s.mem.tags)) ∧
    (∀ x, s.l1 = [x] → x.isDirty = false → ∃ t, exec (.uncorrectableError (.cacheLine x.core x.line)) s = .next t ∧ t.l1 = [] ∧ t.mem = s.mem ∧
      t.dev.uecnt = s.dev.uecnt + 1 ∧ t.dev.ueaddr = s.dev.ueaddr) ∧
    (∀ line id, Table.get 0 s.l2 line = id + 1 → ∃ t, exec (.uncorrectableError (.l2Line line)) s = .next t ∧ Table.get 0 t.l2 line = 0 ∧ t.mem = s.mem ∧
      t.dev.uecnt = s.dev.uecnt + 1 ∧ t.dev.ueaddr = s.dev.ueaddr ∧ t.dev.evwait = s.dev.evwait ++ [⟨5, id, 0, 0, 2, []⟩]) ∧
    (∃ r, exec .deviceReset s = .next r ∧ exec (.uncorrectableError .firmware) s = .next { r with dev := { r.dev with
      cxl := s.dev.cxl ++ [9], uecnt := 1, uewhere := 9, evwait := [⟨5, 0, 0, 0, 9, []⟩] } }) ∧
    (∀ (x : TlbEntry), s.tlb = [x] → ∃ t row, exec (.uncorrectableError (.translation 0 false)) s = .next t ∧ t.mem = s.mem ∧ t.dev.uecnt = s.dev.uecnt + 1 ∧
      t.dev.evwait = s.dev.evwait ++ [⟨5, x.ctx, 0, 0, row, []⟩] ∧ (row = 2 ∧ t.tlb = [] ∨ row = 6 ∧ t.tlb = [{ x with bad := 1 }])) ∧
    (∀ (x : ILine), s.icache = [x] → ∃ t row, exec (.uncorrectableError (.instrLine x.core x.line)) s = .next t ∧ t.mem = s.mem ∧ t.dev.uecnt = s.dev.uecnt + 1 ∧
      t.dev.evwait = s.dev.evwait ++ [⟨5, x.ctx, 0, 0, row, []⟩] ∧ (row = 2 ∧ t.icache = [] ∨ row = 7 ∧ t.icache = [{ x with poisoned := true }])) ∧
    exec .correctedError s = .next { s with dev := { s.dev with cecnt := s.dev.cecnt + 1 } } ∧
    exec .patrolScrub s = .next s ∧
    (∀ b, b ∈ s.dev.gated → exec (.blockWake b) s = .next { s with dev := { s.dev with
      gated := s.dev.gated.filter fun x => x != b, woke := Table.put 0 s.dev.woke b s.cycles } }) ∧
    (∀ b, b ∉ s.dev.gated → exec (.blockWake b) s = .next s) ∧
    (∀ b, (∃ t ∈ s.tasks, t.core = b) ∨ b ∈ s.dev.gated → exec (.blockGating b) s = .next s) ∧
    (∀ b, (∀ t ∈ s.tasks, t.core ≠ b) → b ∉ s.dev.gated → ∃ t, exec (.blockGating b) s = .next t ∧ t.dev.gated = s.dev.gated ++ [b] ∧
      (∀ x ∈ t.l1, x.core = b → x.isDirty = false) ∧ t.tasks = s.tasks) ∧
    (∀ b f, exec (.frequencyChange b f) s = .next { s with dev := { s.dev with freq := Table.put 0 s.dev.freq b f } })

/-- R1, R11, R30, R31, R74 to R78, R183, R367, R368, R371, R372: the events of the device. Model's choices: log entries 7, 11, 66, 84, 86, 87, 88, 89, 90, 96, 105, 115, 117. -/
def Obligations.DeviceEvents : Prop := Sys2Proof.Slice0.RegisterAndResetEvents ∧ Sys2Proof.Slice0.ErrorAndPowerEvents

/-! ## The machine -/

/-- R32, R35, R36, R38 to R41, R48: words written out field by field (B, A, D, OP6, LS; SUB, PN, PG, A, D, OP8, LS; word 1) decode to the instructions of their rows; a
length selector 0b11, a reserved opcode, a third prefix and a unit that ends in a prefix are refused. -/
def Obligations.DecodedWords : Prop :=
  decodeWords 0 .start [0b00000011_00000010_00000001_000010_00#32] = .ok (⟨.add 1 2 3, none, none⟩, []) ∧
  decodeWords 0 .start [0b00010011_00010010_00010001_001000_00#32] = .ok (⟨.iadd 0x11 0x12 0x13, none, none⟩, []) ∧
  decodeWords 0 .start [0b10000000_00000001_00000101_010000_00#32] = .ok (⟨.movi 5 0x180, none, none⟩, []) ∧
  decodeWords 0 .start [0b00000000_00000000_00000000_010100_00#32, 7] = .ok (⟨.join, none, none⟩, [7]) ∧
  decodeWords 0 .start [0b00_1_010_00000010_00000001_00100000_01#32, 0b00000000_00000000_00000000_00000011#32] =
    .ok (⟨.imul ⟨2, true⟩ 1 2 3, none, none⟩, []) ∧
  decodeWords 0 .start [0b0000000000000000_00000_1_0_1_001_000_10#32, 0b00_0_111_00000010_00000001_00100000_01#32, 3] =
    .ok (⟨.imul .always 1 2 3, some ⟨.rz, true, false, true⟩, none⟩, []) ∧
  decodeWords 0 .start [0b11#32] = .error .lengthSelector ∧
  decodeWords 0 .start [0b00000000_00000000_00000000_100000_00#32] = .error .reserved ∧
  decodeWords 0 .start [0b000_000_10#32, 0b000_010_10#32, 0b000_000_10#32] = .error .thirdPrefix ∧
  decodeWords 0 .start [0b000_000_10#32] = .error .truncated

namespace Sys2Proof.Slice0

/-- The feature whose mask turns an instruction's encodings into ILLEGAL: transactions, host copy, predicted-shape launch (R63, R323). -/
def maskFeature : Instr → Option Nat
  | .txbegin _ _ _ | .txend | .txabort _ _ | .txstat _ _ => some 0
  | .hcpy _ _ _ _ _ _ => some 1
  | .launchp _ _ _ _ _ | .shape _ _ _ | .specq _ _ => some 2
  | _ => none

end Sys2Proof.Slice0

/-- R39 to R43, R56, R60, R63: a prefix of a kind other than 0b000 and 0b010, and a placement prefix of scope 7, are ILLEGAL wherever in its unit the word stands; a third prefix and a
second of one kind end the unit before any later word; a prefix that the instruction does not accept makes its unit an orphan, and a masked feature's
instruction is refused whatever its fields; word 1 of FENCE holds PRED, SUCC and SCOPE in bits [3:0], [7:4] and [10:8], and one with bits above them, an empty set or scope 7 is ILLEGAL, which raises KIND 0. -/
def Obligations.EncodingFates : Prop :=
  (∀ (mask : BitVec 4) (st : UnitDec) (w : W32) (rest : List W32), st.word0 = none → w.extractLsb' 0 2 = 2 →
    (w.extractLsb' 2 3 ≠ 0 → w.extractLsb' 2 3 ≠ 2 → decodeWords mask st (w :: rest) = .error .badPrefix) ∧
    (w.extractLsb' 2 3 = 2 → w.extractLsb' 5 3 = 7 → decodeWords mask st (w :: rest) = .error .badPrefix)) ∧
  (∀ (mask : BitVec 4) (st : UnitDec) (p : ArithPrefix) (rest : List W32), st.word0 = none → decodeWords mask st (p.word :: rest) =
    if st.arith.isSome && st.place.isSome then .error .thirdPrefix else if st.arith.isSome then .error .repeatedPrefix
    else decodeWords mask ⟨some p, st.place, none⟩ rest) ∧
  (∀ (mask : BitVec 4) (st : UnitDec) (p : PlacePrefix) (rest : List W32), st.word0 = none → p.scope ≠ 7 → decodeWords mask st (p.word :: rest) =
    if st.arith.isSome && st.place.isSome then .error .thirdPrefix else if st.place.isSome then .error .repeatedPrefix
    else decodeWords mask ⟨st.arith, some p, none⟩ rest) ∧
  (∀ (u : Decoded) (rest : List W32), u.instr.wf = true → encode u.instr ≠ [] → (∀ p, u.place = some p → p.scope ≠ 7) →
    (u.arith ≠ none ∧ acceptsArith u.instr = false ∨ u.place ≠ none ∧ acceptsPlace u.instr = false) →
    decodeWords 0 .start (u.words ++ rest) = .error .notAccepted) ∧
  (∀ (mask : BitVec 4) (st : UnitDec) (i : Instr) (k : Nat) (rest : List W32), st.word0 = none → Sys2Proof.Slice0.maskFeature i = some k → mask.getLsbD k = true →
    decodeWords mask st (encode i ++ rest) = .error .masked) ∧
  (∀ (mask : BitVec 4) (pn : BitVec 1) (pg : BitVec 3) (x : W32) (rest : List W32), ¬(pn = 1 ∧ pg = 7) →
    let w0 : W32 := (0 : BitVec 2) ++ pn ++ pg ++ (0 : BitVec 16) ++ (0x7D : BitVec 8) ++ (1 : BitVec 2)
    let pred := x.extractLsb' 0 4
    let succ := x.extractLsb' 4 4
    let scope := x.extractLsb' 8 3
    decodeWords mask .start (w0 :: x :: rest) =
      if pred ≠ 0 ∧ succ ≠ 0 ∧ scope ≠ 7 ∧ x.extractLsb' 11 21 = 0 then .ok (⟨.fence ⟨pg, decide (pn = 1)⟩ pred succ scope, none, none⟩, rest)
      else .error .fieldRule) ∧
  ∀ (s : State) (u : U), s.unit? = some u → exec .encodingNotInstruction s = .next (s.raise u (mkTrap 16 0 u.pa.mask 0))

/-- R32 to R64: decoding what the encoder writes gives it back: for every well-formed instruction that has words, with every operand and every prefix that it
accepts, whatever words follow. -/
def Obligations.DecodeEncode : Prop :=
  ∀ (u : Decoded) (rest : List W32), u.instr.wf = true → encode u.instr ≠ [] → (u.arith ≠ none → acceptsArith u.instr = true) →
    (∀ p, u.place = some p → acceptsPlace u.instr = true ∧ p.scope ≠ 7) →
    decodeWords 0 .start (u.words ++ rest) = .ok (u, rest)

namespace Sys2Proof.Slice0

/-- What a scheduler keeps of the warp whose unit it has issued, when that is the only ready one (R261). -/
def issuedAlone (s z : State) (w : Warp) (upper : Bool) (r : Result) : State :=
  ((s.inject (z.passOver [⟨w, upper, r⟩] ⟨w, upper, r⟩))).settleStep

/-- Whether the bytes behind an address are read as they stand, all of one line in memory: they are no translated code, no earlier word of them is left to be fetched, none is poisoned, the line stays at one
home, and its owner answers (R34, R78, R306, R333, R353). -/
def ReadsPlain (s : State) (k : Task) (pc : W64) (tr : Trans) (key : Nat) : Prop :=
  (∀ i < 16, s.imageAt k.ctx (pc.toNat + i) = none) ∧ pc.toNat % 128 + 16 ≤ 128 ∧ key % 128 = pc.toNat % 128 ∧ (∀ i < 16, s.oldWords k.ctx (pc.toNat / 128) (key / 128 * 128 + 8 * i) = []) ∧
  (s.readILine k.core k.ctx (pc.toNat / 128) key).2.poisoned = false ∧
  (tr.kind = .device → (s.part (tr.base / 2 ^ 48)).state ≠ 2) ∧ (tr.kind ≠ .device → ∀ j < 16, Config.linkError s.tick (key + j) = false)

end Sys2Proof.Slice0

/-- R33, R34, R42, R60, R63, R261, R262: where nothing but a warp's only sub-path can act, and its unit lies in one instruction line that is not held yet, one step decodes the bytes at
the program counter and runs exec of that instruction there, or, where they are refused, of ENCODING_NOT_INSTRUCTION, counted in MASKCNT where a mask refuses them,
or raises ORPHAN_PREFIX where their prefixes do; then what it sends joins the network's traffic and the device's clocks go on. Model's choices: log entries 3, 5. -/
def Obligations.StepRunsUnit : Prop :=
  ∀ (s : State) (w : Warp) (sp : Split) (p : Path) (k : Task) (tr : Trans) (key : Nat),
    let s1 : State := { s with tick := s.tick + 1 }
    let upper := w.legacy && sp.upper
    s.inputs = [] → s1.due = [] → s.warps = [w] → w.splits = [sp] → sp.paths = [p] → p.wait = .run → w.txs = [] → s.task? w.task = some k →
    s.mayIssue w = true → (w.half? upper).turn < 64 → (w.half? upper).run = sp.num → s.icache = [] → s.loads = [] → s.atoms = [] →
    s1.translate k.ctx sp.pl .fetch p.pc = .ok (tr, key) → ReadsPlain s1 k p.pc tr key →
    let ws := wordsOfBytes (((s.readILine k.core k.ctx (p.pc.toNat / 128) key).2.bytes.drop (key % 128)).take 16)
    ∃ f : State, f = { s1 with tlb := f.tlb, l2 := f.l2, parts := f.parts, icache := f.icache } ∧
      (∀ d rest, decodeWords (s.ctx k.ctx).fmaskOn .start ws = .ok (d, rest) →
        ∀ z, exec d.instr (f.atUnit w ⟨w.id, sp.num, p.pc, p.pc + BitVec.ofNat 64 (4 * (4 - rest.length)),
          d.arith.map fun a => (a.rm, a.sat, a.ftz, a.notrap), d.place.map fun a => (a.scope.toNat, a.pol.toNat), false⟩) = .next z →
        (∀ c, z.cur = some c → c.stays = false) → step s = .next (issuedAlone s z w upper (.next z))) ∧
      (∀ e, decodeWords (s.ctx k.ctx).fmaskOn .start ws = .error e → e.orphan = false → e ≠ .masked →
        ∃ z, exec .encodingNotInstruction (f.atUnit w ⟨w.id, sp.num, p.pc, p.pc, none, none, false⟩) = .next z ∧
          step s = .next (issuedAlone s z w upper (.next z))) ∧
      (decodeWords (s.ctx k.ctx).fmaskOn .start ws = .error .masked →
        let z0 := f.atUnit w ⟨w.id, sp.num, p.pc, p.pc, none, none, false⟩
        ∃ z, exec .encodingNotInstruction (z0.setCtx k.ctx { z0.ctx k.ctx with maskCnt := (z0.ctx k.ctx).maskCnt + 1 }) = .next z ∧
          step s = .next (issuedAlone s z w upper (.next z))) ∧
      ∀ e, decodeWords (s.ctx k.ctx).fmaskOn .start ws = .error e → e.orphan = true →
        let z0 := f.atUnit w ⟨w.id, sp.num, p.pc, p.pc, none, none, false⟩
        ∃ u, z0.unit? = some u ∧ step s = .next (issuedAlone s (z0.raise u (mkTrap 17 0 p.mask 0)) w upper (.next (z0.raise u (mkTrap 17 0 p.mask 0))))

/-- R183, R261, R262 (and log entries 3, 5): every step answers a next state, in which no unit is in execution: the machine does one of the things it may do, or waits; what that sends
joins the traffic, and time passes. -/
def Obligations.StepAnswers : Prop :=
  ∀ s : State, let s1 : State := { s with tick := s.tick + 1 }
    (∃ t, step s = .next t ∧ t.cur = none ∧ s.nowNs ≤ t.nowNs ∧ s.cycles ≤ t.cycles) ∧
    ∃ r, (r ∈ s1.options ∨ s1.options = [] ∧ r = .next s1) ∧ step s = afterNext r fun t => (s.inject t).settleStep

/-- R29, R83 (the form of the model's memory is log entry 2): every step keeps the memory in its canonical form: rising keys, and nothing listed that reads as unlisted. -/
def Obligations.MemoryForm : Prop := ∀ s t : State, s.mem.wf = true → step s = .next t → t.mem.wf = true

/-- R190, R307, R312, R318, R323, R324, R332, R359, R371: what reset leaves in the registers whose reset values the spec gives; the memory lists nothing, in canonical form (log entry 2), and nothing is resident. -/
def Obligations.ResetState : Prop :=
  let s := State.reset
  s.mem.wf = true ∧ s.warps = [] ∧ s.tasks = [] ∧ s.launches = [] ∧ s.l1 = [] ∧ s.tlb = [] ∧
  (∀ v, (s.ctx v).en = false ∧ (s.ctx v).part = 0 ∧ (s.ctx v).classMask = 1 ∧ (s.ctx v).qweight = 1 ∧ (s.ctx v).vqmax = 1024 ∧ (s.ctx v).grace = 100 ∧
    (s.ctx v).kill = 1000 ∧ (s.ctx v).slice = 0 ∧ (s.ctx v).s2en = false ∧ (s.ctx v).fmask = 0 ∧ (s.ctx v).vqcount = 0 ∧ (s.ctx v).saveState = 0 ∧
    (s.ctx v).pinned = false ∧ (s.ctx v).scopeLimit = 6 ∧ (s.ctx v).scopeClamp = false ∧ (s.ctx v).scopeClamped = false) ∧
  (∀ p, (s.part p).cports = 0 ∧ (s.part p).mports = 0 ∧ (s.part p).cgrace = 100 ∧ (s.part p).hdrp = 1 ∧ (s.part p).state = 0 ∧ (s.part p).allot = 0 ∧
    (s.part p).isolcnt = 0) ∧
  (∀ k, Table.get .reset s.classes k = ⟨0xFFFF, 1⟩) ∧ (s.dev.wreq, s.dev.wbulk, s.dev.wupd) = (4, 3, 1) ∧ s.dev.wen = false ∧ s.dev.evlog = 0 ∧
  s.dev.cecnt = 0 ∧ s.dev.uecnt = 0 ∧ s.dev.scrubbed = (BitVec.allOnes 64, BitVec.allOnes 64)
end

