-- ==== Sys2Proof/Laws/Mem.lean ====
section
/-!
SUPPORT. Tables and memory: reading back what was written, what a write leaves alone, and that every operation on a table or on
memory keeps the canonical form.
-/
namespace Sys2Proof.Machine

/-! ### Tables -/

section
variable {α : Type}

theorem Table.wf_iff [DecidableEq α] {d : α} {t : Table α} :
    t.wf d = true ↔ t.Pairwise (fun a b => a.1 < b.1) ∧ ∀ e ∈ t, e.2 ≠ d := by
  simp [Table.wf]

theorem Table.wf_nil [DecidableEq α] (d : α) : Table.wf d [] = true := by simp [Table.wf]

/-- A part of a canonical table is canonical. -/
theorem Table.wf_filter [DecidableEq α] {d : α} {t : Table α} (h : t.wf d = true) (p : Nat × α → Bool) :
    Table.wf d (t.filter p) = true := by
  rw [Table.wf_iff] at h ⊢
  exact ⟨h.1.sublist List.filter_sublist, fun e he => h.2 e ((List.mem_filter.1 he).1)⟩

theorem Table.mem_erase {t : Table α} {k : Nat} {e : Nat × α} (h : e ∈ t.erase k) : e ∈ t := by
  induction t with
  | nil => exact h
  | cons x t ih =>
    rw [Table.erase] at h
    split at h
    · exact List.mem_cons_of_mem _ (ih h)
    · rcases List.mem_cons.1 h with rfl | h
      · exact List.mem_cons_self
      · exact List.mem_cons_of_mem _ (ih h)

theorem Table.mem_insert {t : Table α} {k : Nat} {x : α} {e : Nat × α} (h : e ∈ t.insert k x) : e = (k, x) ∨ e ∈ t := by
  induction t with
  | nil => simpa [Table.insert] using h
  | cons y t ih =>
    rw [Table.insert] at h
    split at h
    · simpa using h
    · split at h
      · rcases List.mem_cons.1 h with h | h
        · exact .inl h
        · exact .inr (List.mem_cons_of_mem _ h)
      · rcases List.mem_cons.1 h with rfl | h
        · exact .inr List.mem_cons_self
        · rcases ih h with h | h
          · exact .inl h
          · exact .inr (List.mem_cons_of_mem _ h)

theorem Table.wf_erase [DecidableEq α] {d : α} {t : Table α} (h : t.wf d = true) (k : Nat) : Table.wf d (t.erase k) = true := by
  induction t with
  | nil => exact h
  | cons x t ih =>
    rw [Table.wf_iff, List.pairwise_cons] at h
    have ht : Table.wf d t = true := Table.wf_iff.2 ⟨h.1.2, fun e he => h.2 e (List.mem_cons_of_mem _ he)⟩
    rw [Table.erase]
    split
    · exact ih ht
    · have hi := Table.wf_iff.1 (ih ht)
      exact Table.wf_iff.2 ⟨List.pairwise_cons.2 ⟨fun e he => h.1.1 e (Table.mem_erase he), hi.1⟩,
        fun e he => (List.mem_cons.1 he).elim (fun q => h.2 e (q ▸ List.mem_cons_self)) (hi.2 e)⟩

theorem Table.wf_insert [DecidableEq α] {d : α} {t : Table α} (h : t.wf d = true) (k : Nat) {x : α} (hx : x ≠ d) :
    Table.wf d (t.insert k x) = true := by
  induction t with
  | nil => simp [Table.insert, Table.wf, hx]
  | cons y t ih =>
    have h0 := h
    rw [Table.wf_iff, List.pairwise_cons] at h
    have ht : Table.wf d t = true := Table.wf_iff.2 ⟨h.1.2, fun e he => h.2 e (List.mem_cons_of_mem _ he)⟩
    rw [Table.insert]
    split
    · rename_i hk
      rw [Table.wf_iff] at h0 ⊢
      refine ⟨List.pairwise_cons.2 ⟨fun e he => ?_, h0.1⟩, fun e he => ?_⟩
      · rcases List.mem_cons.1 he with rfl | he
        · exact hk
        · exact Nat.lt_trans hk (h.1.1 e he)
      · rcases List.mem_cons.1 he with rfl | he
        · exact hx
        · exact h0.2 e he
    · split
      · rename_i hk
        refine Table.wf_iff.2 ⟨List.pairwise_cons.2 ⟨fun e he => hk ▸ h.1.1 e he, h.1.2⟩, fun e he => ?_⟩
        rcases List.mem_cons.1 he with rfl | he
        · exact hx
        · exact h.2 e (List.mem_cons_of_mem _ he)
      · have hi := Table.wf_iff.1 (ih ht)
        refine Table.wf_iff.2 ⟨List.pairwise_cons.2 ⟨fun e he => ?_, hi.1⟩, fun e he => ?_⟩
        · rcases Table.mem_insert he with rfl | he
          · simp only; omega
          · exact h.1.1 e he
        · rcases List.mem_cons.1 he with rfl | he
          · exact h.2 _ List.mem_cons_self
          · exact hi.2 e he

/-- A write keeps the canonical form. -/
theorem Table.wf_put [DecidableEq α] {d : α} {t : Table α} (h : t.wf d = true) (k : Nat) (x : α) :
    Table.wf d (Table.put d t k x) = true := by
  unfold Table.put
  split
  · exact Table.wf_erase h k
  · rename_i hx
    exact Table.wf_insert h k hx

/-- Another key reads as before a write. -/
theorem Table.get_put_ne [DecidableEq α] (d : α) (t : Table α) {k j : Nat} (x : α) (h : j ≠ k) :
    Table.get d (Table.put d t k x) j = Table.get d t j := by
  have he : ∀ t : Table α, Table.get d (t.erase k) j = Table.get d t j := by
    intro t
    induction t with
    | nil => rfl
    | cons y t ih =>
      rw [Table.erase]
      split
      · rename_i hk
        have : y.1 ≠ j := by omega
        simp [Table.get, this, ih]
      · simp [Table.get, ih]
  have hi : ∀ t : Table α, Table.get d (t.insert k x) j = Table.get d t j := by
    intro t
    induction t with
    | nil => simp [Table.insert, Table.get, Ne.symm h]
    | cons y t ih =>
      rw [Table.insert]
      split
      · simp [Table.get, Ne.symm h]
      · split
        · rename_i hk
          have : y.1 ≠ j := by omega
          simp [Table.get, Ne.symm h, this]
        · simp [Table.get, ih]
  unfold Table.put
  split
  · exact he t
  · exact hi t

/-- A key reads as it was written. -/
theorem Table.get_put_self [DecidableEq α] (d : α) (t : Table α) (k : Nat) (x : α) : Table.get d (Table.put d t k x) k = x := by
  have hi : ∀ t : Table α, Table.get d (t.insert k x) k = x := by
    intro t
    induction t with
    | nil => simp [Table.insert, Table.get]
    | cons y t ih =>
      rw [Table.insert]
      split
      · simp [Table.get]
      · split
        · simp [Table.get]
        · rename_i hk
          simp [Table.get, hk, ih]
  have he : ∀ t : Table α, Table.get d (t.erase k) k = d := by
    intro t
    induction t with
    | nil => rfl
    | cons y t ih =>
      rw [Table.erase]
      split
      · exact ih
      · rename_i hk
        simp [Table.get, hk, ih]
  unfold Table.put
  split
  · rename_i hx
    rw [he t, hx]
  · exact hi t

/-- Reading after a write. -/
theorem Table.get_put [DecidableEq α] (d : α) (t : Table α) (k j : Nat) (x : α) :
    Table.get d (Table.put d t k x) j = if j = k then x else Table.get d t j := by
  split
  · rename_i hj
    rw [hj, Table.get_put_self]
  · rename_i hj
    exact Table.get_put_ne d t x hj

end

/-! ### Bytes -/

theorem putBytes_wf {t : Table Byte} (h : t.wf 0 = true) (k : Nat) (bs : List Byte) : Table.wf 0 (putBytes t k bs) = true := by
  induction bs generalizing t k with
  | nil => exact h
  | cons b bs ih => exact ih (Table.wf_put h k b) (k + 1)

theorem get_putBytes (t : Table Byte) (k : Nat) (bs : List Byte) (a : Nat) :
    Table.get 0 (putBytes t k bs) a = if k ≤ a ∧ a < k + bs.length then bs.getD (a - k) 0 else Table.get 0 t a := by
  induction bs generalizing t k with
  | nil =>
    rw [if_neg (by simp only [List.length_nil, Nat.add_zero]; omega)]
    rfl
  | cons b bs ih =>
    rw [putBytes, ih, Table.get_put]
    by_cases h1 : k + 1 ≤ a ∧ a < k + 1 + bs.length
    · have e : a - k = (a - (k + 1)) + 1 := by omega
      rw [if_pos h1, if_pos (by simp; omega), e, List.getD_cons_succ]
    · rw [if_neg h1]
      by_cases h2 : a = k
      · subst h2
        simp
      · rw [if_neg h2, if_neg (by simp; omega)]

@[simp] theorem bytesLE_length (v n : Nat) : (bytesLE v n).length = n := by
  induction n generalizing v with
  | zero => rfl
  | succ n ih => simp [bytesLE, ih]

/-! ### Memory -/

theorem Mem.wf_iff {m : Mem} : m.wf = true ↔ Table.wf 0 m.bytes = true ∧ Table.wf .nil m.tags = true ∧ Table.wf false m.marks = true := by
  simp [Mem.wf, and_assoc]

theorem Mem.wf_empty : Mem.empty.wf = true := by decide
/-- The memory after reset is canonical. -/
theorem reset_mem_wf : State.reset.mem.wf = true := by decide

theorem Mem.wf_write {m : Mem} (h : m.wf = true) (k : Nat) (bs : List Byte) : (m.write k bs).wf = true := by
  rw [Mem.wf_iff] at h ⊢
  exact ⟨putBytes_wf h.1 k bs, h.2.1, h.2.2⟩

theorem Mem.wf_setTag {m : Mem} (h : m.wf = true) (k : Nat) (t : Tag) : (m.setTag k t).wf = true := by
  rw [Mem.wf_iff] at h ⊢
  exact ⟨h.1, Table.wf_put h.2.1 _ _, h.2.2⟩

theorem Mem.wf_setMark {m : Mem} (h : m.wf = true) (k : Nat) (b : Bool) : (m.setMark k b).wf = true := by
  rw [Mem.wf_iff] at h ⊢
  exact ⟨h.1, h.2.1, Table.wf_put h.2.2 _ _⟩

/-- What a write of bytes leaves at each address. -/
theorem Mem.byte_write (m : Mem) (k : Nat) (bs : List Byte) (a : Nat) :
    (m.write k bs).byte a = if k ≤ a ∧ a < k + bs.length then bs.getD (a - k) 0 else m.byte a :=
  get_putBytes m.bytes k bs a

@[simp] theorem Mem.tag_write (m : Mem) (k : Nat) (bs : List Byte) (a : Nat) : (m.write k bs).tag a = m.tag a := rfl
@[simp] theorem Mem.marked_write (m : Mem) (k : Nat) (bs : List Byte) (a : Nat) : (m.write k bs).marked a = m.marked a := rfl
@[simp] theorem Mem.byte_setTag (m : Mem) (k : Nat) (t : Tag) (a : Nat) : (m.setTag k t).byte a = m.byte a := rfl
@[simp] theorem Mem.marked_setTag (m : Mem) (k : Nat) (t : Tag) (a : Nat) : (m.setTag k t).marked a = m.marked a := rfl
@[simp] theorem Mem.byte_setMark (m : Mem) (k : Nat) (b : Bool) (a : Nat) : (m.setMark k b).byte a = m.byte a := rfl
@[simp] theorem Mem.tag_setMark (m : Mem) (k : Nat) (b : Bool) (a : Nat) : (m.setMark k b).tag a = m.tag a := rfl

theorem Mem.tag_setTag (m : Mem) (k : Nat) (t : Tag) (a : Nat) :
    (m.setTag k t).tag a = if a / 8 = k / 8 then t else m.tag a := by
  rw [Mem.setTag, Mem.tag, Table.get_put]
  by_cases e : a / 8 = k / 8
  · rw [if_pos (by omega), if_pos e]
  · rw [if_neg (by omega), if_neg e]; rfl

theorem Mem.marked_setMark (m : Mem) (k : Nat) (b : Bool) (a : Nat) :
    (m.setMark k b).marked a = if a / 128 = k / 128 then b else m.marked a := by
  rw [Mem.setMark, Mem.marked, Table.get_put]
  rfl

/-- A store keeps the canonical form. -/
theorem Mem.wf_store {m : Mem} (h : m.wf = true) (it : StoreItem) : (m.store it).wf = true := by
  unfold Mem.store
  dsimp only
  repeat' split
  all_goals first
    | exact h
    | exact Mem.wf_setMark h _ _
    | exact Mem.wf_write h _ _
    | exact Mem.wf_setTag (Mem.wf_write h _ _) _ _

/-- Memory folded over a list keeps the form when each part does. -/
theorem Mem.wf_foldl {β : Type} {f : Mem → β → Mem} (hf : ∀ m b, m.wf = true → (f m b).wf = true) (bs : List β) {m : Mem}
    (h : m.wf = true) : (bs.foldl f m).wf = true := by
  induction bs generalizing m with
  | nil => exact h
  | cons b bs ih => exact ih (hf m b h)

theorem Mem.wf_storeAll {m : Mem} (h : m.wf = true) (its : List StoreItem) : (m.storeAll its).wf = true :=
  Mem.wf_foldl (fun _ it hm => Mem.wf_store hm it) its h

theorem wbByte_wf (l : L1Line) {m : Mem} (h : m.wf = true) (i : Nat) : (wbByte l m i).wf = true := by
  unfold wbByte
  dsimp only
  repeat' split
  all_goals first
    | exact h
    | exact Mem.wf_write h _ _
    | exact Mem.wf_setTag (Mem.wf_write h _ _) _ _

/-- A line written back keeps the form of its home. -/
theorem L1Line.wf_flush (l : L1Line) {m : Mem} (h : m.wf = true) : (l.flush m).wf = true := by
  have hf := Mem.wf_foldl (fun m i (hm : m.wf = true) => wbByte_wf l hm i) (List.range 128) h
  unfold L1Line.flush
  dsimp only
  split
  · exact Mem.wf_setMark hf _ _
  · exact hf

theorem Mem.wf_line {m : Mem} (h : m.wf = true) (line : Nat) : (m.line line).wf = true := by
  rw [Mem.wf_iff] at h ⊢
  exact ⟨Table.wf_filter h.1 _, Table.wf_filter h.2.1 _, Table.wf_filter h.2.2 _⟩

theorem Mem.wf_outside {m : Mem} (h : m.wf = true) : m.outside.wf = true := by
  rw [Mem.wf_iff] at h ⊢
  exact ⟨Table.wf_filter h.1 _, Table.wf_filter h.2.1 _, Table.wf_filter h.2.2 _⟩

theorem Mem.wf_clearFrom {m : Mem} (h : m.wf = true) (p pa : Nat) : (m.clearFrom p pa).wf = true := by
  rw [Mem.wf_iff] at h ⊢
  exact ⟨Table.wf_filter h.1 _, Table.wf_filter h.2.1 _, Table.wf_filter h.2.2 _⟩

theorem Mem.wf_poisonLine {m : Mem} (h : m.wf = true) (line : Nat) : (m.poisonLine line).wf = true :=
  Mem.wf_foldl (fun _ _ hm => Mem.wf_setTag (Mem.wf_write hm _ _) _ _) (List.range 16) h

/-- A line that has met an error. -/
theorem State.wf_spoilt (s : State) {m : Mem} (h : m.wf = true) (line : Nat) : (s.spoilt m line).wf = true := by
  unfold State.spoilt
  split
  · exact Mem.wf_poisonLine h line
  · exact Mem.wf_setMark h _ _

/-! ### The operations of the machine on memory -/

/-- What atomics have read is no part of memory. -/
@[simp] theorem State.unsee_mem (s : State) (lines : List Nat) : (s.unsee lines).mem = s.mem := by
  unfold State.unsee
  dsimp only
  split <;> rfl

/-- Lines written back. -/
theorem State.wf_stirPool {s : State} (h : s.mem.wf = true) (p : Nat) : (s.stirPool p).mem.wf = true := by
  unfold State.stirPool
  split
  · exact h
  · exact Mem.wf_foldl (fun _ _ h => Mem.wf_setTag h _ _) _ (Mem.wf_foldl (fun _ _ h => Mem.wf_write h _ _) _ h)

theorem State.wf_stirPools {s : State} (h : s.mem.wf = true) : s.stirPools.mem.wf = true := by
  unfold State.stirPools
  generalize s.parts = ps
  induction ps generalizing s with
  | nil => exact h
  | cons x _ ih =>
    refine ih ?_
    dsimp only
    split
    · exact h
    · exact State.wf_stirPool h _

theorem State.wf_l1WriteBack {s : State} (h : s.mem.wf = true) (p : L1Line → Bool) : (s.l1WriteBack p).mem.wf = true := by
  unfold State.l1WriteBack
  dsimp only
  split
  · exact h
  · exact Mem.wf_foldl (fun _ l hm => L1Line.wf_flush l hm) _ (by simpa using h)

theorem State.wf_l1Drop {s : State} (h : s.mem.wf = true) (p : L1Line → Bool) : (s.l1Drop p).mem.wf = true :=
  State.wf_l1WriteBack h p

theorem State.wf_l1Fill {s : State} (h : s.mem.wf = true) (core ctx line : Nat) : (s.l1Fill core ctx line).mem.wf = true := by
  unfold State.l1Fill
  split
  · exact h
  · exact State.wf_l1Drop h _

theorem State.wf_storeL1 {s : State} (h : s.mem.wf = true) (core ctx hint : Nat) (it : StoreItem) :
    (s.storeL1 core ctx hint it).mem.wf = true := State.wf_l1Fill h core ctx _

theorem State.wf_atHome {s : State} (h : s.mem.wf = true) (core ctx hint : Nat) (keys : List Nat) {f : Mem → Mem}
    (hf : ∀ m : Mem, m.wf = true → (f m).wf = true) : (s.atHome core ctx hint keys f).mem.wf = true :=
  hf _ (State.wf_l1WriteBack (State.wf_l1Drop h _) _)

/-- A store performed, at its home or in the L1. -/
theorem State.wf_performItem {s : State} (h : s.mem.wf = true) (core ctx hint : Nat) (it : StoreItem) :
    (s.performItem core ctx hint it).mem.wf = true := by
  unfold State.performItem
  split
  · exact State.wf_storeL1 h _ _ _ _
  · exact State.wf_atHome h _ _ _ _ fun m hm => Mem.wf_store hm it

theorem State.wf_fenceL1 {s : State} (h : s.mem.wf = true) (core : Nat) (wb inv : Bool) (scope : Nat) :
    (s.fenceL1 core wb inv scope).mem.wf = true := by
  unfold State.fenceL1
  cases wb <;> cases inv <;> simp <;> first
    | exact h
    | exact State.wf_l1WriteBack h _
    | exact State.wf_l1Drop h _
    | exact State.wf_l1Drop (State.wf_l1WriteBack h _) _

theorem State.wf_logDirty {s : State} (h : s.mem.wf = true) (ctx page : Nat) : (s.logDirty ctx page).mem.wf = true := by
  unfold State.logDirty
  dsimp only
  split
  · exact Mem.wf_write h _ _
  · exact h

theorem State.wf_logDirtyAll {s : State} (h : s.mem.wf = true) (ctx : Nat) (pages : List Nat) :
    (s.logDirtyAll ctx pages).mem.wf = true := by
  unfold State.logDirtyAll
  induction pages generalizing s with
  | nil => exact h
  | cons p ps ih => exact ih (State.wf_logDirty h ctx p)

@[simp] theorem State.note_mem (s : State) (core : Nat) (keys : List Nat) : (s.note core keys).mem = s.mem := rfl
@[simp] theorem State.passWords_mem (s : State) (core : Nat) (keys : List Nat) : (s.passWords core keys).mem = s.mem := rfl
@[simp] theorem State.rewriteQueues_mem (s : State) (keys : List Nat) : (s.rewriteQueues keys).mem = s.mem := by
  unfold State.rewriteQueues
  split <;> rfl
@[simp] theorem State.doomLines_mem (s : State) (writer : Option Nat) (lines : List Nat) : (s.doomLines writer lines).mem = s.mem := by
  unfold State.doomLines
  dsimp only
  split <;> simp

/-- Stores performed one after another. -/
theorem State.wf_performAll {s : State} (h : s.mem.wf = true) (core ctx hint : Nat) (items : List StoreItem) :
    (items.foldl (fun s it => s.performItem core ctx hint it) s).mem.wf = true := by
  induction items generalizing s with
  | nil => exact h
  | cons it its ih => exact ih (State.wf_performItem h core ctx hint it)

/-- A store instruction performed keeps the canonical form. -/
theorem State.wf_perform {s : State} (h : s.mem.wf = true) (writer : Option Nat) (core ctx hint : Nat) (items : List StoreItem)
    (pages : List Nat) : (s.perform writer core ctx hint items pages).mem.wf = true := by
  unfold State.perform State.performItems
  split
  · exact h
  · simp only [doomLines_mem]
    exact State.wf_performAll (by simpa using State.wf_logDirtyAll h ctx pages) _ _ _ _

end Sys2Proof.Machine
end

