-- ==== Sys2Proof/Laws/State.lean ====
section
/-!
SUPPORT. One lemma for each field of a state, a warp or a task under each of the named updates: no later proof unfolds a
record update.
-/
namespace Sys2Proof.Machine

/-! ### A warp written back -/

@[simp] theorem State.setWarp_cur (s : State) (w : Warp) : (s.setWarp w).cur = s.cur := rfl
@[simp] theorem State.setWarp_tasks (s : State) (w : Warp) : (s.setWarp w).tasks = s.tasks := rfl
@[simp] theorem State.setWarp_launches (s : State) (w : Warp) : (s.setWarp w).launches = s.launches := rfl
@[simp] theorem State.setWarp_mem (s : State) (w : Warp) : (s.setWarp w).mem = s.mem := rfl
@[simp] theorem State.setWarp_l1 (s : State) (w : Warp) : (s.setWarp w).l1 = s.l1 := rfl
@[simp] theorem State.setWarp_icache (s : State) (w : Warp) : (s.setWarp w).icache = s.icache := rfl
@[simp] theorem State.setWarp_tlb (s : State) (w : Warp) : (s.setWarp w).tlb = s.tlb := rfl
@[simp] theorem State.setWarp_loads (s : State) (w : Warp) : (s.setWarp w).loads = s.loads := rfl
@[simp] theorem State.setWarp_stores (s : State) (w : Warp) : (s.setWarp w).stores = s.stores := rfl
@[simp] theorem State.setWarp_atoms (s : State) (w : Warp) : (s.setWarp w).atoms = s.atoms := rfl
@[simp] theorem State.setWarp_tiles (s : State) (w : Warp) : (s.setWarp w).tiles = s.tiles := rfl
@[simp] theorem State.setWarp_accGen (s : State) (w : Warp) : (s.setWarp w).accGen = s.accGen := rfl
@[simp] theorem State.setWarp_history (s : State) (w : Warp) : (s.setWarp w).history = s.history := rfl
@[simp] theorem State.setWarp_ctxs (s : State) (w : Warp) : (s.setWarp w).ctxs = s.ctxs := rfl
@[simp] theorem State.setWarp_parts (s : State) (w : Warp) : (s.setWarp w).parts = s.parts := rfl
@[simp] theorem State.setWarp_classes (s : State) (w : Warp) : (s.setWarp w).classes = s.classes := rfl
@[simp] theorem State.setWarp_nets (s : State) (w : Warp) : (s.setWarp w).nets = s.nets := rfl
@[simp] theorem State.setWarp_rates (s : State) (w : Warp) : (s.setWarp w).rates = s.rates := rfl
@[simp] theorem State.setWarp_hbm (s : State) (w : Warp) : (s.setWarp w).hbm = s.hbm := rfl
@[simp] theorem State.setWarp_specIds (s : State) (w : Warp) : (s.setWarp w).specIds = s.specIds := rfl
@[simp] theorem State.setWarp_colls (s : State) (w : Warp) : (s.setWarp w).colls = s.colls := rfl
@[simp] theorem State.setWarp_dev (s : State) (w : Warp) : (s.setWarp w).dev = s.dev := rfl
@[simp] theorem State.setWarp_serials (s : State) (w : Warp) : (s.setWarp w).serials = s.serials := rfl
@[simp] theorem State.setWarp_nowNs (s : State) (w : Warp) : (s.setWarp w).nowNs = s.nowNs := rfl
@[simp] theorem State.setWarp_cycles (s : State) (w : Warp) : (s.setWarp w).cycles = s.cycles := rfl
@[simp] theorem State.setWarp_inputs (s : State) (w : Warp) : (s.setWarp w).inputs = s.inputs := rfl
@[simp] theorem State.setWarp_tick (s : State) (w : Warp) : (s.setWarp w).tick = s.tick := rfl
@[simp] theorem State.setWarp_nextId (s : State) (w : Warp) : (s.setWarp w).nextId = s.nextId := rfl
@[simp] theorem State.setWarp_regGen (s : State) (w : Warp) : (s.setWarp w).regGen = s.regGen := rfl
@[simp] theorem State.setWarp_past (s : State) (w : Warp) : (s.setWarp w).past = s.past := rfl
@[simp] theorem State.setWarp_icinvs (s : State) (w : Warp) : (s.setWarp w).icinvs = s.icinvs := rfl
@[simp] theorem State.setWarp_sources (s : State) (w : Warp) : (s.setWarp w).sources = s.sources := rfl
@[simp] theorem State.setWarp_marks (s : State) (w : Warp) : (s.setWarp w).marks = s.marks := rfl
@[simp] theorem State.setWarp_areas (s : State) (w : Warp) : (s.setWarp w).areas = s.areas := rfl

/-! ### A task written back -/

@[simp] theorem State.setTask_cur (s : State) (t : Task) : (s.setTask t).cur = s.cur := rfl
@[simp] theorem State.setTask_warps (s : State) (t : Task) : (s.setTask t).warps = s.warps := rfl
@[simp] theorem State.setTask_launches (s : State) (t : Task) : (s.setTask t).launches = s.launches := rfl
@[simp] theorem State.setTask_mem (s : State) (t : Task) : (s.setTask t).mem = s.mem := rfl
@[simp] theorem State.setTask_l1 (s : State) (t : Task) : (s.setTask t).l1 = s.l1 := rfl
@[simp] theorem State.setTask_icache (s : State) (t : Task) : (s.setTask t).icache = s.icache := rfl
@[simp] theorem State.setTask_tlb (s : State) (t : Task) : (s.setTask t).tlb = s.tlb := rfl
@[simp] theorem State.setTask_loads (s : State) (t : Task) : (s.setTask t).loads = s.loads := rfl
@[simp] theorem State.setTask_stores (s : State) (t : Task) : (s.setTask t).stores = s.stores := rfl
@[simp] theorem State.setTask_atoms (s : State) (t : Task) : (s.setTask t).atoms = s.atoms := rfl
@[simp] theorem State.setTask_tiles (s : State) (t : Task) : (s.setTask t).tiles = s.tiles := rfl
@[simp] theorem State.setTask_accGen (s : State) (t : Task) : (s.setTask t).accGen = s.accGen := rfl
@[simp] theorem State.setTask_history (s : State) (t : Task) : (s.setTask t).history = s.history := rfl
@[simp] theorem State.setTask_ctxs (s : State) (t : Task) : (s.setTask t).ctxs = s.ctxs := rfl
@[simp] theorem State.setTask_parts (s : State) (t : Task) : (s.setTask t).parts = s.parts := rfl
@[simp] theorem State.setTask_classes (s : State) (t : Task) : (s.setTask t).classes = s.classes := rfl
@[simp] theorem State.setTask_nets (s : State) (t : Task) : (s.setTask t).nets = s.nets := rfl
@[simp] theorem State.setTask_rates (s : State) (t : Task) : (s.setTask t).rates = s.rates := rfl
@[simp] theorem State.setTask_hbm (s : State) (t : Task) : (s.setTask t).hbm = s.hbm := rfl
@[simp] theorem State.setTask_specIds (s : State) (t : Task) : (s.setTask t).specIds = s.specIds := rfl
@[simp] theorem State.setTask_colls (s : State) (t : Task) : (s.setTask t).colls = s.colls := rfl
@[simp] theorem State.setTask_dev (s : State) (t : Task) : (s.setTask t).dev = s.dev := rfl
@[simp] theorem State.setTask_serials (s : State) (t : Task) : (s.setTask t).serials = s.serials := rfl
@[simp] theorem State.setTask_nowNs (s : State) (t : Task) : (s.setTask t).nowNs = s.nowNs := rfl
@[simp] theorem State.setTask_cycles (s : State) (t : Task) : (s.setTask t).cycles = s.cycles := rfl
@[simp] theorem State.setTask_inputs (s : State) (t : Task) : (s.setTask t).inputs = s.inputs := rfl
@[simp] theorem State.setTask_tick (s : State) (t : Task) : (s.setTask t).tick = s.tick := rfl
@[simp] theorem State.setTask_nextId (s : State) (t : Task) : (s.setTask t).nextId = s.nextId := rfl
@[simp] theorem State.setTask_regGen (s : State) (t : Task) : (s.setTask t).regGen = s.regGen := rfl
@[simp] theorem State.setTask_past (s : State) (t : Task) : (s.setTask t).past = s.past := rfl
@[simp] theorem State.setTask_icinvs (s : State) (t : Task) : (s.setTask t).icinvs = s.icinvs := rfl
@[simp] theorem State.setTask_sources (s : State) (t : Task) : (s.setTask t).sources = s.sources := rfl
@[simp] theorem State.setTask_marks (s : State) (t : Task) : (s.setTask t).marks = s.marks := rfl
@[simp] theorem State.setTask_areas (s : State) (t : Task) : (s.setTask t).areas = s.areas := rfl

/-! ### A task changed -/

@[simp] theorem State.onTask_cur (s : State) (id : Nat) (f : Task → Task) : (s.onTask id f).cur = s.cur := rfl
@[simp] theorem State.onTask_warps (s : State) (id : Nat) (f : Task → Task) : (s.onTask id f).warps = s.warps := rfl
@[simp] theorem State.onTask_launches (s : State) (id : Nat) (f : Task → Task) : (s.onTask id f).launches = s.launches := rfl
@[simp] theorem State.onTask_mem (s : State) (id : Nat) (f : Task → Task) : (s.onTask id f).mem = s.mem := rfl
@[simp] theorem State.onTask_l1 (s : State) (id : Nat) (f : Task → Task) : (s.onTask id f).l1 = s.l1 := rfl
@[simp] theorem State.onTask_icache (s : State) (id : Nat) (f : Task → Task) : (s.onTask id f).icache = s.icache := rfl
@[simp] theorem State.onTask_tlb (s : State) (id : Nat) (f : Task → Task) : (s.onTask id f).tlb = s.tlb := rfl
@[simp] theorem State.onTask_loads (s : State) (id : Nat) (f : Task → Task) : (s.onTask id f).loads = s.loads := rfl
@[simp] theorem State.onTask_stores (s : State) (id : Nat) (f : Task → Task) : (s.onTask id f).stores = s.stores := rfl
@[simp] theorem State.onTask_atoms (s : State) (id : Nat) (f : Task → Task) : (s.onTask id f).atoms = s.atoms := rfl
@[simp] theorem State.onTask_tiles (s : State) (id : Nat) (f : Task → Task) : (s.onTask id f).tiles = s.tiles := rfl
@[simp] theorem State.onTask_accGen (s : State) (id : Nat) (f : Task → Task) : (s.onTask id f).accGen = s.accGen := rfl
@[simp] theorem State.onTask_history (s : State) (id : Nat) (f : Task → Task) : (s.onTask id f).history = s.history := rfl
@[simp] theorem State.onTask_ctxs (s : State) (id : Nat) (f : Task → Task) : (s.onTask id f).ctxs = s.ctxs := rfl
@[simp] theorem State.onTask_parts (s : State) (id : Nat) (f : Task → Task) : (s.onTask id f).parts = s.parts := rfl
@[simp] theorem State.onTask_classes (s : State) (id : Nat) (f : Task → Task) : (s.onTask id f).classes = s.classes := rfl
@[simp] theorem State.onTask_nets (s : State) (id : Nat) (f : Task → Task) : (s.onTask id f).nets = s.nets := rfl
@[simp] theorem State.onTask_rates (s : State) (id : Nat) (f : Task → Task) : (s.onTask id f).rates = s.rates := rfl
@[simp] theorem State.onTask_hbm (s : State) (id : Nat) (f : Task → Task) : (s.onTask id f).hbm = s.hbm := rfl
@[simp] theorem State.onTask_specIds (s : State) (id : Nat) (f : Task → Task) : (s.onTask id f).specIds = s.specIds := rfl
@[simp] theorem State.onTask_colls (s : State) (id : Nat) (f : Task → Task) : (s.onTask id f).colls = s.colls := rfl
@[simp] theorem State.onTask_dev (s : State) (id : Nat) (f : Task → Task) : (s.onTask id f).dev = s.dev := rfl
@[simp] theorem State.onTask_serials (s : State) (id : Nat) (f : Task → Task) : (s.onTask id f).serials = s.serials := rfl
@[simp] theorem State.onTask_nowNs (s : State) (id : Nat) (f : Task → Task) : (s.onTask id f).nowNs = s.nowNs := rfl
@[simp] theorem State.onTask_cycles (s : State) (id : Nat) (f : Task → Task) : (s.onTask id f).cycles = s.cycles := rfl
@[simp] theorem State.onTask_inputs (s : State) (id : Nat) (f : Task → Task) : (s.onTask id f).inputs = s.inputs := rfl
@[simp] theorem State.onTask_tick (s : State) (id : Nat) (f : Task → Task) : (s.onTask id f).tick = s.tick := rfl
@[simp] theorem State.onTask_nextId (s : State) (id : Nat) (f : Task → Task) : (s.onTask id f).nextId = s.nextId := rfl
@[simp] theorem State.onTask_regGen (s : State) (id : Nat) (f : Task → Task) : (s.onTask id f).regGen = s.regGen := rfl
@[simp] theorem State.onTask_past (s : State) (id : Nat) (f : Task → Task) : (s.onTask id f).past = s.past := rfl
@[simp] theorem State.onTask_icinvs (s : State) (id : Nat) (f : Task → Task) : (s.onTask id f).icinvs = s.icinvs := rfl
@[simp] theorem State.onTask_sources (s : State) (id : Nat) (f : Task → Task) : (s.onTask id f).sources = s.sources := rfl
@[simp] theorem State.onTask_marks (s : State) (id : Nat) (f : Task → Task) : (s.onTask id f).marks = s.marks := rfl
@[simp] theorem State.onTask_areas (s : State) (id : Nat) (f : Task → Task) : (s.onTask id f).areas = s.areas := rfl

/-! ### A launch written back -/

@[simp] theorem State.setLaunch_cur (s : State) (l : Launch) : (s.setLaunch l).cur = s.cur := rfl
@[simp] theorem State.setLaunch_warps (s : State) (l : Launch) : (s.setLaunch l).warps = s.warps := rfl
@[simp] theorem State.setLaunch_tasks (s : State) (l : Launch) : (s.setLaunch l).tasks = s.tasks := rfl
@[simp] theorem State.setLaunch_mem (s : State) (l : Launch) : (s.setLaunch l).mem = s.mem := rfl
@[simp] theorem State.setLaunch_l1 (s : State) (l : Launch) : (s.setLaunch l).l1 = s.l1 := rfl
@[simp] theorem State.setLaunch_icache (s : State) (l : Launch) : (s.setLaunch l).icache = s.icache := rfl
@[simp] theorem State.setLaunch_tlb (s : State) (l : Launch) : (s.setLaunch l).tlb = s.tlb := rfl
@[simp] theorem State.setLaunch_loads (s : State) (l : Launch) : (s.setLaunch l).loads = s.loads := rfl
@[simp] theorem State.setLaunch_stores (s : State) (l : Launch) : (s.setLaunch l).stores = s.stores := rfl
@[simp] theorem State.setLaunch_atoms (s : State) (l : Launch) : (s.setLaunch l).atoms = s.atoms := rfl
@[simp] theorem State.setLaunch_tiles (s : State) (l : Launch) : (s.setLaunch l).tiles = s.tiles := rfl
@[simp] theorem State.setLaunch_accGen (s : State) (l : Launch) : (s.setLaunch l).accGen = s.accGen := rfl
@[simp] theorem State.setLaunch_history (s : State) (l : Launch) : (s.setLaunch l).history = s.history := rfl
@[simp] theorem State.setLaunch_ctxs (s : State) (l : Launch) : (s.setLaunch l).ctxs = s.ctxs := rfl
@[simp] theorem State.setLaunch_parts (s : State) (l : Launch) : (s.setLaunch l).parts = s.parts := rfl
@[simp] theorem State.setLaunch_classes (s : State) (l : Launch) : (s.setLaunch l).classes = s.classes := rfl
@[simp] theorem State.setLaunch_nets (s : State) (l : Launch) : (s.setLaunch l).nets = s.nets := rfl
@[simp] theorem State.setLaunch_rates (s : State) (l : Launch) : (s.setLaunch l).rates = s.rates := rfl
@[simp] theorem State.setLaunch_hbm (s : State) (l : Launch) : (s.setLaunch l).hbm = s.hbm := rfl
@[simp] theorem State.setLaunch_specIds (s : State) (l : Launch) : (s.setLaunch l).specIds = s.specIds := rfl
@[simp] theorem State.setLaunch_colls (s : State) (l : Launch) : (s.setLaunch l).colls = s.colls := rfl
@[simp] theorem State.setLaunch_dev (s : State) (l : Launch) : (s.setLaunch l).dev = s.dev := rfl
@[simp] theorem State.setLaunch_serials (s : State) (l : Launch) : (s.setLaunch l).serials = s.serials := rfl
@[simp] theorem State.setLaunch_nowNs (s : State) (l : Launch) : (s.setLaunch l).nowNs = s.nowNs := rfl
@[simp] theorem State.setLaunch_cycles (s : State) (l : Launch) : (s.setLaunch l).cycles = s.cycles := rfl
@[simp] theorem State.setLaunch_inputs (s : State) (l : Launch) : (s.setLaunch l).inputs = s.inputs := rfl
@[simp] theorem State.setLaunch_tick (s : State) (l : Launch) : (s.setLaunch l).tick = s.tick := rfl
@[simp] theorem State.setLaunch_nextId (s : State) (l : Launch) : (s.setLaunch l).nextId = s.nextId := rfl
@[simp] theorem State.setLaunch_regGen (s : State) (l : Launch) : (s.setLaunch l).regGen = s.regGen := rfl
@[simp] theorem State.setLaunch_past (s : State) (l : Launch) : (s.setLaunch l).past = s.past := rfl
@[simp] theorem State.setLaunch_icinvs (s : State) (l : Launch) : (s.setLaunch l).icinvs = s.icinvs := rfl
@[simp] theorem State.setLaunch_sources (s : State) (l : Launch) : (s.setLaunch l).sources = s.sources := rfl
@[simp] theorem State.setLaunch_marks (s : State) (l : Launch) : (s.setLaunch l).marks = s.marks := rfl
@[simp] theorem State.setLaunch_areas (s : State) (l : Launch) : (s.setLaunch l).areas = s.areas := rfl

/-! ### A context written -/

@[simp] theorem State.setCtx_cur (s : State) (v : Nat) (c : Ctx) : (s.setCtx v c).cur = s.cur := rfl
@[simp] theorem State.setCtx_warps (s : State) (v : Nat) (c : Ctx) : (s.setCtx v c).warps = s.warps := rfl
@[simp] theorem State.setCtx_tasks (s : State) (v : Nat) (c : Ctx) : (s.setCtx v c).tasks = s.tasks := rfl
@[simp] theorem State.setCtx_launches (s : State) (v : Nat) (c : Ctx) : (s.setCtx v c).launches = s.launches := rfl
@[simp] theorem State.setCtx_mem (s : State) (v : Nat) (c : Ctx) : (s.setCtx v c).mem = s.mem := rfl
@[simp] theorem State.setCtx_l1 (s : State) (v : Nat) (c : Ctx) : (s.setCtx v c).l1 = s.l1 := rfl
@[simp] theorem State.setCtx_icache (s : State) (v : Nat) (c : Ctx) : (s.setCtx v c).icache = s.icache := rfl
@[simp] theorem State.setCtx_tlb (s : State) (v : Nat) (c : Ctx) : (s.setCtx v c).tlb = s.tlb := rfl
@[simp] theorem State.setCtx_loads (s : State) (v : Nat) (c : Ctx) : (s.setCtx v c).loads = s.loads := rfl
@[simp] theorem State.setCtx_stores (s : State) (v : Nat) (c : Ctx) : (s.setCtx v c).stores = s.stores := rfl
@[simp] theorem State.setCtx_atoms (s : State) (v : Nat) (c : Ctx) : (s.setCtx v c).atoms = s.atoms := rfl
@[simp] theorem State.setCtx_tiles (s : State) (v : Nat) (c : Ctx) : (s.setCtx v c).tiles = s.tiles := rfl
@[simp] theorem State.setCtx_accGen (s : State) (v : Nat) (c : Ctx) : (s.setCtx v c).accGen = s.accGen := rfl
@[simp] theorem State.setCtx_history (s : State) (v : Nat) (c : Ctx) : (s.setCtx v c).history = s.history := rfl
@[simp] theorem State.setCtx_parts (s : State) (v : Nat) (c : Ctx) : (s.setCtx v c).parts = s.parts := rfl
@[simp] theorem State.setCtx_classes (s : State) (v : Nat) (c : Ctx) : (s.setCtx v c).classes = s.classes := rfl
@[simp] theorem State.setCtx_nets (s : State) (v : Nat) (c : Ctx) : (s.setCtx v c).nets = s.nets := rfl
@[simp] theorem State.setCtx_rates (s : State) (v : Nat) (c : Ctx) : (s.setCtx v c).rates = s.rates := rfl
@[simp] theorem State.setCtx_hbm (s : State) (v : Nat) (c : Ctx) : (s.setCtx v c).hbm = s.hbm := rfl
@[simp] theorem State.setCtx_specIds (s : State) (v : Nat) (c : Ctx) : (s.setCtx v c).specIds = s.specIds := rfl
@[simp] theorem State.setCtx_colls (s : State) (v : Nat) (c : Ctx) : (s.setCtx v c).colls = s.colls := rfl
@[simp] theorem State.setCtx_dev (s : State) (v : Nat) (c : Ctx) : (s.setCtx v c).dev = s.dev := rfl
@[simp] theorem State.setCtx_serials (s : State) (v : Nat) (c : Ctx) : (s.setCtx v c).serials = s.serials := rfl
@[simp] theorem State.setCtx_nowNs (s : State) (v : Nat) (c : Ctx) : (s.setCtx v c).nowNs = s.nowNs := rfl
@[simp] theorem State.setCtx_cycles (s : State) (v : Nat) (c : Ctx) : (s.setCtx v c).cycles = s.cycles := rfl
@[simp] theorem State.setCtx_inputs (s : State) (v : Nat) (c : Ctx) : (s.setCtx v c).inputs = s.inputs := rfl
@[simp] theorem State.setCtx_tick (s : State) (v : Nat) (c : Ctx) : (s.setCtx v c).tick = s.tick := rfl
@[simp] theorem State.setCtx_nextId (s : State) (v : Nat) (c : Ctx) : (s.setCtx v c).nextId = s.nextId := rfl
@[simp] theorem State.setCtx_regGen (s : State) (v : Nat) (c : Ctx) : (s.setCtx v c).regGen = s.regGen := rfl
@[simp] theorem State.setCtx_past (s : State) (v : Nat) (c : Ctx) : (s.setCtx v c).past = s.past := rfl
@[simp] theorem State.setCtx_icinvs (s : State) (v : Nat) (c : Ctx) : (s.setCtx v c).icinvs = s.icinvs := rfl
@[simp] theorem State.setCtx_sources (s : State) (v : Nat) (c : Ctx) : (s.setCtx v c).sources = s.sources := rfl
@[simp] theorem State.setCtx_marks (s : State) (v : Nat) (c : Ctx) : (s.setCtx v c).marks = s.marks := rfl
@[simp] theorem State.setCtx_areas (s : State) (v : Nat) (c : Ctx) : (s.setCtx v c).areas = s.areas := rfl

/-! ### A partition written -/

@[simp] theorem State.setPart_cur (s : State) (p : Nat) (x : Part) : (s.setPart p x).cur = s.cur := rfl
@[simp] theorem State.setPart_warps (s : State) (p : Nat) (x : Part) : (s.setPart p x).warps = s.warps := rfl
@[simp] theorem State.setPart_tasks (s : State) (p : Nat) (x : Part) : (s.setPart p x).tasks = s.tasks := rfl
@[simp] theorem State.setPart_launches (s : State) (p : Nat) (x : Part) : (s.setPart p x).launches = s.launches := rfl
@[simp] theorem State.setPart_mem (s : State) (p : Nat) (x : Part) : (s.setPart p x).mem = s.mem := rfl
@[simp] theorem State.setPart_l1 (s : State) (p : Nat) (x : Part) : (s.setPart p x).l1 = s.l1 := rfl
@[simp] theorem State.setPart_icache (s : State) (p : Nat) (x : Part) : (s.setPart p x).icache = s.icache := rfl
@[simp] theorem State.setPart_tlb (s : State) (p : Nat) (x : Part) : (s.setPart p x).tlb = s.tlb := rfl
@[simp] theorem State.setPart_loads (s : State) (p : Nat) (x : Part) : (s.setPart p x).loads = s.loads := rfl
@[simp] theorem State.setPart_stores (s : State) (p : Nat) (x : Part) : (s.setPart p x).stores = s.stores := rfl
@[simp] theorem State.setPart_atoms (s : State) (p : Nat) (x : Part) : (s.setPart p x).atoms = s.atoms := rfl
@[simp] theorem State.setPart_tiles (s : State) (p : Nat) (x : Part) : (s.setPart p x).tiles = s.tiles := rfl
@[simp] theorem State.setPart_accGen (s : State) (p : Nat) (x : Part) : (s.setPart p x).accGen = s.accGen := rfl
@[simp] theorem State.setPart_history (s : State) (p : Nat) (x : Part) : (s.setPart p x).history = s.history := rfl
@[simp] theorem State.setPart_ctxs (s : State) (p : Nat) (x : Part) : (s.setPart p x).ctxs = s.ctxs := rfl
@[simp] theorem State.setPart_classes (s : State) (p : Nat) (x : Part) : (s.setPart p x).classes = s.classes := rfl
@[simp] theorem State.setPart_nets (s : State) (p : Nat) (x : Part) : (s.setPart p x).nets = s.nets := rfl
@[simp] theorem State.setPart_rates (s : State) (p : Nat) (x : Part) : (s.setPart p x).rates = s.rates := rfl
@[simp] theorem State.setPart_hbm (s : State) (p : Nat) (x : Part) : (s.setPart p x).hbm = s.hbm := rfl
@[simp] theorem State.setPart_specIds (s : State) (p : Nat) (x : Part) : (s.setPart p x).specIds = s.specIds := rfl
@[simp] theorem State.setPart_colls (s : State) (p : Nat) (x : Part) : (s.setPart p x).colls = s.colls := rfl
@[simp] theorem State.setPart_dev (s : State) (p : Nat) (x : Part) : (s.setPart p x).dev = s.dev := rfl
@[simp] theorem State.setPart_serials (s : State) (p : Nat) (x : Part) : (s.setPart p x).serials = s.serials := rfl
@[simp] theorem State.setPart_nowNs (s : State) (p : Nat) (x : Part) : (s.setPart p x).nowNs = s.nowNs := rfl
@[simp] theorem State.setPart_cycles (s : State) (p : Nat) (x : Part) : (s.setPart p x).cycles = s.cycles := rfl
@[simp] theorem State.setPart_inputs (s : State) (p : Nat) (x : Part) : (s.setPart p x).inputs = s.inputs := rfl
@[simp] theorem State.setPart_tick (s : State) (p : Nat) (x : Part) : (s.setPart p x).tick = s.tick := rfl
@[simp] theorem State.setPart_nextId (s : State) (p : Nat) (x : Part) : (s.setPart p x).nextId = s.nextId := rfl
@[simp] theorem State.setPart_regGen (s : State) (p : Nat) (x : Part) : (s.setPart p x).regGen = s.regGen := rfl
@[simp] theorem State.setPart_past (s : State) (p : Nat) (x : Part) : (s.setPart p x).past = s.past := rfl
@[simp] theorem State.setPart_icinvs (s : State) (p : Nat) (x : Part) : (s.setPart p x).icinvs = s.icinvs := rfl
@[simp] theorem State.setPart_sources (s : State) (p : Nat) (x : Part) : (s.setPart p x).sources = s.sources := rfl
@[simp] theorem State.setPart_marks (s : State) (p : Nat) (x : Part) : (s.setPart p x).marks = s.marks := rfl
@[simp] theorem State.setPart_areas (s : State) (p : Nat) (x : Part) : (s.setPart p x).areas = s.areas := rfl

/-! ### An event for the hypervisor -/

@[simp] theorem State.postEvent_cur (s : State) (e : EvRec) : (s.postEvent e).cur = s.cur := rfl
@[simp] theorem State.postEvent_warps (s : State) (e : EvRec) : (s.postEvent e).warps = s.warps := rfl
@[simp] theorem State.postEvent_tasks (s : State) (e : EvRec) : (s.postEvent e).tasks = s.tasks := rfl
@[simp] theorem State.postEvent_launches (s : State) (e : EvRec) : (s.postEvent e).launches = s.launches := rfl
@[simp] theorem State.postEvent_mem (s : State) (e : EvRec) : (s.postEvent e).mem = s.mem := rfl
@[simp] theorem State.postEvent_l1 (s : State) (e : EvRec) : (s.postEvent e).l1 = s.l1 := rfl
@[simp] theorem State.postEvent_icache (s : State) (e : EvRec) : (s.postEvent e).icache = s.icache := rfl
@[simp] theorem State.postEvent_tlb (s : State) (e : EvRec) : (s.postEvent e).tlb = s.tlb := rfl
@[simp] theorem State.postEvent_loads (s : State) (e : EvRec) : (s.postEvent e).loads = s.loads := rfl
@[simp] theorem State.postEvent_stores (s : State) (e : EvRec) : (s.postEvent e).stores = s.stores := rfl
@[simp] theorem State.postEvent_atoms (s : State) (e : EvRec) : (s.postEvent e).atoms = s.atoms := rfl
@[simp] theorem State.postEvent_tiles (s : State) (e : EvRec) : (s.postEvent e).tiles = s.tiles := rfl
@[simp] theorem State.postEvent_accGen (s : State) (e : EvRec) : (s.postEvent e).accGen = s.accGen := rfl
@[simp] theorem State.postEvent_history (s : State) (e : EvRec) : (s.postEvent e).history = s.history := rfl
@[simp] theorem State.postEvent_ctxs (s : State) (e : EvRec) : (s.postEvent e).ctxs = s.ctxs := rfl
@[simp] theorem State.postEvent_parts (s : State) (e : EvRec) : (s.postEvent e).parts = s.parts := rfl
@[simp] theorem State.postEvent_classes (s : State) (e : EvRec) : (s.postEvent e).classes = s.classes := rfl
@[simp] theorem State.postEvent_nets (s : State) (e : EvRec) : (s.postEvent e).nets = s.nets := rfl
@[simp] theorem State.postEvent_rates (s : State) (e : EvRec) : (s.postEvent e).rates = s.rates := rfl
@[simp] theorem State.postEvent_hbm (s : State) (e : EvRec) : (s.postEvent e).hbm = s.hbm := rfl
@[simp] theorem State.postEvent_specIds (s : State) (e : EvRec) : (s.postEvent e).specIds = s.specIds := rfl
@[simp] theorem State.postEvent_colls (s : State) (e : EvRec) : (s.postEvent e).colls = s.colls := rfl
@[simp] theorem State.postEvent_serials (s : State) (e : EvRec) : (s.postEvent e).serials = s.serials := rfl
@[simp] theorem State.postEvent_nowNs (s : State) (e : EvRec) : (s.postEvent e).nowNs = s.nowNs := rfl
@[simp] theorem State.postEvent_cycles (s : State) (e : EvRec) : (s.postEvent e).cycles = s.cycles := rfl
@[simp] theorem State.postEvent_inputs (s : State) (e : EvRec) : (s.postEvent e).inputs = s.inputs := rfl
@[simp] theorem State.postEvent_tick (s : State) (e : EvRec) : (s.postEvent e).tick = s.tick := rfl
@[simp] theorem State.postEvent_nextId (s : State) (e : EvRec) : (s.postEvent e).nextId = s.nextId := rfl
@[simp] theorem State.postEvent_regGen (s : State) (e : EvRec) : (s.postEvent e).regGen = s.regGen := rfl
@[simp] theorem State.postEvent_past (s : State) (e : EvRec) : (s.postEvent e).past = s.past := rfl
@[simp] theorem State.postEvent_icinvs (s : State) (e : EvRec) : (s.postEvent e).icinvs = s.icinvs := rfl
@[simp] theorem State.postEvent_sources (s : State) (e : EvRec) : (s.postEvent e).sources = s.sources := rfl
@[simp] theorem State.postEvent_marks (s : State) (e : EvRec) : (s.postEvent e).marks = s.marks := rfl
@[simp] theorem State.postEvent_areas (s : State) (e : EvRec) : (s.postEvent e).areas = s.areas := rfl

/-! ### A waiter -/

@[simp] theorem State.addWaiter_cur (s : State) (c r : Nat) (x : Waiter) : (s.addWaiter c r x).cur = s.cur := rfl
@[simp] theorem State.addWaiter_warps (s : State) (c r : Nat) (x : Waiter) : (s.addWaiter c r x).warps = s.warps := rfl
@[simp] theorem State.addWaiter_tasks (s : State) (c r : Nat) (x : Waiter) : (s.addWaiter c r x).tasks = s.tasks := rfl
@[simp] theorem State.addWaiter_launches (s : State) (c r : Nat) (x : Waiter) : (s.addWaiter c r x).launches = s.launches := rfl
@[simp] theorem State.addWaiter_mem (s : State) (c r : Nat) (x : Waiter) : (s.addWaiter c r x).mem = s.mem := rfl
@[simp] theorem State.addWaiter_l1 (s : State) (c r : Nat) (x : Waiter) : (s.addWaiter c r x).l1 = s.l1 := rfl
@[simp] theorem State.addWaiter_icache (s : State) (c r : Nat) (x : Waiter) : (s.addWaiter c r x).icache = s.icache := rfl
@[simp] theorem State.addWaiter_tlb (s : State) (c r : Nat) (x : Waiter) : (s.addWaiter c r x).tlb = s.tlb := rfl
@[simp] theorem State.addWaiter_loads (s : State) (c r : Nat) (x : Waiter) : (s.addWaiter c r x).loads = s.loads := rfl
@[simp] theorem State.addWaiter_stores (s : State) (c r : Nat) (x : Waiter) : (s.addWaiter c r x).stores = s.stores := rfl
@[simp] theorem State.addWaiter_atoms (s : State) (c r : Nat) (x : Waiter) : (s.addWaiter c r x).atoms = s.atoms := rfl
@[simp] theorem State.addWaiter_tiles (s : State) (c r : Nat) (x : Waiter) : (s.addWaiter c r x).tiles = s.tiles := rfl
@[simp] theorem State.addWaiter_accGen (s : State) (c r : Nat) (x : Waiter) : (s.addWaiter c r x).accGen = s.accGen := rfl
@[simp] theorem State.addWaiter_history (s : State) (c r : Nat) (x : Waiter) : (s.addWaiter c r x).history = s.history := rfl
@[simp] theorem State.addWaiter_parts (s : State) (c r : Nat) (x : Waiter) : (s.addWaiter c r x).parts = s.parts := rfl
@[simp] theorem State.addWaiter_classes (s : State) (c r : Nat) (x : Waiter) : (s.addWaiter c r x).classes = s.classes := rfl
@[simp] theorem State.addWaiter_nets (s : State) (c r : Nat) (x : Waiter) : (s.addWaiter c r x).nets = s.nets := rfl
@[simp] theorem State.addWaiter_rates (s : State) (c r : Nat) (x : Waiter) : (s.addWaiter c r x).rates = s.rates := rfl
@[simp] theorem State.addWaiter_hbm (s : State) (c r : Nat) (x : Waiter) : (s.addWaiter c r x).hbm = s.hbm := rfl
@[simp] theorem State.addWaiter_specIds (s : State) (c r : Nat) (x : Waiter) : (s.addWaiter c r x).specIds = s.specIds := rfl
@[simp] theorem State.addWaiter_colls (s : State) (c r : Nat) (x : Waiter) : (s.addWaiter c r x).colls = s.colls := rfl
@[simp] theorem State.addWaiter_dev (s : State) (c r : Nat) (x : Waiter) : (s.addWaiter c r x).dev = s.dev := rfl
@[simp] theorem State.addWaiter_serials (s : State) (c r : Nat) (x : Waiter) : (s.addWaiter c r x).serials = s.serials := rfl
@[simp] theorem State.addWaiter_nowNs (s : State) (c r : Nat) (x : Waiter) : (s.addWaiter c r x).nowNs = s.nowNs := rfl
@[simp] theorem State.addWaiter_cycles (s : State) (c r : Nat) (x : Waiter) : (s.addWaiter c r x).cycles = s.cycles := rfl
@[simp] theorem State.addWaiter_inputs (s : State) (c r : Nat) (x : Waiter) : (s.addWaiter c r x).inputs = s.inputs := rfl
@[simp] theorem State.addWaiter_tick (s : State) (c r : Nat) (x : Waiter) : (s.addWaiter c r x).tick = s.tick := rfl
@[simp] theorem State.addWaiter_nextId (s : State) (c r : Nat) (x : Waiter) : (s.addWaiter c r x).nextId = s.nextId := rfl
@[simp] theorem State.addWaiter_regGen (s : State) (c r : Nat) (x : Waiter) : (s.addWaiter c r x).regGen = s.regGen := rfl
@[simp] theorem State.addWaiter_past (s : State) (c r : Nat) (x : Waiter) : (s.addWaiter c r x).past = s.past := rfl
@[simp] theorem State.addWaiter_icinvs (s : State) (c r : Nat) (x : Waiter) : (s.addWaiter c r x).icinvs = s.icinvs := rfl
@[simp] theorem State.addWaiter_sources (s : State) (c r : Nat) (x : Waiter) : (s.addWaiter c r x).sources = s.sources := rfl
@[simp] theorem State.addWaiter_marks (s : State) (c r : Nat) (x : Waiter) : (s.addWaiter c r x).marks = s.marks := rfl
@[simp] theorem State.addWaiter_areas (s : State) (c r : Nat) (x : Waiter) : (s.addWaiter c r x).areas = s.areas := rfl

/-! ### A new identity -/

@[simp] theorem State.fresh_cur (s : State) : (s.fresh.2).cur = s.cur := rfl
@[simp] theorem State.fresh_warps (s : State) : (s.fresh.2).warps = s.warps := rfl
@[simp] theorem State.fresh_tasks (s : State) : (s.fresh.2).tasks = s.tasks := rfl
@[simp] theorem State.fresh_launches (s : State) : (s.fresh.2).launches = s.launches := rfl
@[simp] theorem State.fresh_mem (s : State) : (s.fresh.2).mem = s.mem := rfl
@[simp] theorem State.fresh_l1 (s : State) : (s.fresh.2).l1 = s.l1 := rfl
@[simp] theorem State.fresh_icache (s : State) : (s.fresh.2).icache = s.icache := rfl
@[simp] theorem State.fresh_tlb (s : State) : (s.fresh.2).tlb = s.tlb := rfl
@[simp] theorem State.fresh_loads (s : State) : (s.fresh.2).loads = s.loads := rfl
@[simp] theorem State.fresh_stores (s : State) : (s.fresh.2).stores = s.stores := rfl
@[simp] theorem State.fresh_atoms (s : State) : (s.fresh.2).atoms = s.atoms := rfl
@[simp] theorem State.fresh_tiles (s : State) : (s.fresh.2).tiles = s.tiles := rfl
@[simp] theorem State.fresh_accGen (s : State) : (s.fresh.2).accGen = s.accGen := rfl
@[simp] theorem State.fresh_history (s : State) : (s.fresh.2).history = s.history := rfl
@[simp] theorem State.fresh_ctxs (s : State) : (s.fresh.2).ctxs = s.ctxs := rfl
@[simp] theorem State.fresh_parts (s : State) : (s.fresh.2).parts = s.parts := rfl
@[simp] theorem State.fresh_classes (s : State) : (s.fresh.2).classes = s.classes := rfl
@[simp] theorem State.fresh_nets (s : State) : (s.fresh.2).nets = s.nets := rfl
@[simp] theorem State.fresh_rates (s : State) : (s.fresh.2).rates = s.rates := rfl
@[simp] theorem State.fresh_hbm (s : State) : (s.fresh.2).hbm = s.hbm := rfl
@[simp] theorem State.fresh_specIds (s : State) : (s.fresh.2).specIds = s.specIds := rfl
@[simp] theorem State.fresh_colls (s : State) : (s.fresh.2).colls = s.colls := rfl
@[simp] theorem State.fresh_dev (s : State) : (s.fresh.2).dev = s.dev := rfl
@[simp] theorem State.fresh_serials (s : State) : (s.fresh.2).serials = s.serials := rfl
@[simp] theorem State.fresh_nowNs (s : State) : (s.fresh.2).nowNs = s.nowNs := rfl
@[simp] theorem State.fresh_cycles (s : State) : (s.fresh.2).cycles = s.cycles := rfl
@[simp] theorem State.fresh_inputs (s : State) : (s.fresh.2).inputs = s.inputs := rfl
@[simp] theorem State.fresh_tick (s : State) : (s.fresh.2).tick = s.tick := rfl
@[simp] theorem State.fresh_regGen (s : State) : (s.fresh.2).regGen = s.regGen := rfl
@[simp] theorem State.fresh_past (s : State) : (s.fresh.2).past = s.past := rfl
@[simp] theorem State.fresh_icinvs (s : State) : (s.fresh.2).icinvs = s.icinvs := rfl
@[simp] theorem State.fresh_sources (s : State) : (s.fresh.2).sources = s.sources := rfl
@[simp] theorem State.fresh_marks (s : State) : (s.fresh.2).marks = s.marks := rfl
@[simp] theorem State.fresh_areas (s : State) : (s.fresh.2).areas = s.areas := rfl

/-! ### An access completed -/

@[simp] theorem State.completeAcc_cur (s : State) (id : Nat) : (s.completeAcc id).cur = s.cur := rfl
@[simp] theorem State.completeAcc_tasks (s : State) (id : Nat) : (s.completeAcc id).tasks = s.tasks := rfl
@[simp] theorem State.completeAcc_launches (s : State) (id : Nat) : (s.completeAcc id).launches = s.launches := rfl
@[simp] theorem State.completeAcc_mem (s : State) (id : Nat) : (s.completeAcc id).mem = s.mem := rfl
@[simp] theorem State.completeAcc_l1 (s : State) (id : Nat) : (s.completeAcc id).l1 = s.l1 := rfl
@[simp] theorem State.completeAcc_icache (s : State) (id : Nat) : (s.completeAcc id).icache = s.icache := rfl
@[simp] theorem State.completeAcc_tlb (s : State) (id : Nat) : (s.completeAcc id).tlb = s.tlb := rfl
@[simp] theorem State.completeAcc_loads (s : State) (id : Nat) : (s.completeAcc id).loads = s.loads := rfl
@[simp] theorem State.completeAcc_stores (s : State) (id : Nat) : (s.completeAcc id).stores = s.stores := rfl
@[simp] theorem State.completeAcc_atoms (s : State) (id : Nat) : (s.completeAcc id).atoms = s.atoms := rfl
@[simp] theorem State.completeAcc_tiles (s : State) (id : Nat) : (s.completeAcc id).tiles = s.tiles := rfl
@[simp] theorem State.completeAcc_accGen (s : State) (id : Nat) : (s.completeAcc id).accGen = s.accGen := rfl
@[simp] theorem State.completeAcc_history (s : State) (id : Nat) : (s.completeAcc id).history = s.history := rfl
@[simp] theorem State.completeAcc_ctxs (s : State) (id : Nat) : (s.completeAcc id).ctxs = s.ctxs := rfl
@[simp] theorem State.completeAcc_parts (s : State) (id : Nat) : (s.completeAcc id).parts = s.parts := rfl
@[simp] theorem State.completeAcc_classes (s : State) (id : Nat) : (s.completeAcc id).classes = s.classes := rfl
@[simp] theorem State.completeAcc_nets (s : State) (id : Nat) : (s.completeAcc id).nets = s.nets := rfl
@[simp] theorem State.completeAcc_rates (s : State) (id : Nat) : (s.completeAcc id).rates = s.rates := rfl
@[simp] theorem State.completeAcc_hbm (s : State) (id : Nat) : (s.completeAcc id).hbm = s.hbm := rfl
@[simp] theorem State.completeAcc_specIds (s : State) (id : Nat) : (s.completeAcc id).specIds = s.specIds := rfl
@[simp] theorem State.completeAcc_colls (s : State) (id : Nat) : (s.completeAcc id).colls = s.colls := rfl
@[simp] theorem State.completeAcc_dev (s : State) (id : Nat) : (s.completeAcc id).dev = s.dev := rfl
@[simp] theorem State.completeAcc_serials (s : State) (id : Nat) : (s.completeAcc id).serials = s.serials := rfl
@[simp] theorem State.completeAcc_nowNs (s : State) (id : Nat) : (s.completeAcc id).nowNs = s.nowNs := rfl
@[simp] theorem State.completeAcc_cycles (s : State) (id : Nat) : (s.completeAcc id).cycles = s.cycles := rfl
@[simp] theorem State.completeAcc_inputs (s : State) (id : Nat) : (s.completeAcc id).inputs = s.inputs := rfl
@[simp] theorem State.completeAcc_tick (s : State) (id : Nat) : (s.completeAcc id).tick = s.tick := rfl
@[simp] theorem State.completeAcc_nextId (s : State) (id : Nat) : (s.completeAcc id).nextId = s.nextId := rfl
@[simp] theorem State.completeAcc_regGen (s : State) (id : Nat) : (s.completeAcc id).regGen = s.regGen := rfl
@[simp] theorem State.completeAcc_past (s : State) (id : Nat) : (s.completeAcc id).past = s.past := rfl
@[simp] theorem State.completeAcc_icinvs (s : State) (id : Nat) : (s.completeAcc id).icinvs = s.icinvs := rfl
@[simp] theorem State.completeAcc_sources (s : State) (id : Nat) : (s.completeAcc id).sources = s.sources := rfl
@[simp] theorem State.completeAcc_marks (s : State) (id : Nat) : (s.completeAcc id).marks = s.marks := rfl
@[simp] theorem State.completeAcc_areas (s : State) (id : Nat) : (s.completeAcc id).areas = s.areas := rfl

/-! ### A unit done -/

@[simp] theorem U.done_cur (s : State) (u : U) (w : Warp) : (u.done s w).cur = s.cur := rfl
@[simp] theorem U.done_tasks (s : State) (u : U) (w : Warp) : (u.done s w).tasks = s.tasks := rfl
@[simp] theorem U.done_launches (s : State) (u : U) (w : Warp) : (u.done s w).launches = s.launches := rfl
@[simp] theorem U.done_mem (s : State) (u : U) (w : Warp) : (u.done s w).mem = s.mem := rfl
@[simp] theorem U.done_l1 (s : State) (u : U) (w : Warp) : (u.done s w).l1 = s.l1 := rfl
@[simp] theorem U.done_icache (s : State) (u : U) (w : Warp) : (u.done s w).icache = s.icache := rfl
@[simp] theorem U.done_tlb (s : State) (u : U) (w : Warp) : (u.done s w).tlb = s.tlb := rfl
@[simp] theorem U.done_loads (s : State) (u : U) (w : Warp) : (u.done s w).loads = s.loads := rfl
@[simp] theorem U.done_stores (s : State) (u : U) (w : Warp) : (u.done s w).stores = s.stores := rfl
@[simp] theorem U.done_atoms (s : State) (u : U) (w : Warp) : (u.done s w).atoms = s.atoms := rfl
@[simp] theorem U.done_tiles (s : State) (u : U) (w : Warp) : (u.done s w).tiles = s.tiles := rfl
@[simp] theorem U.done_accGen (s : State) (u : U) (w : Warp) : (u.done s w).accGen = s.accGen := rfl
@[simp] theorem U.done_history (s : State) (u : U) (w : Warp) : (u.done s w).history = s.history := rfl
@[simp] theorem U.done_ctxs (s : State) (u : U) (w : Warp) : (u.done s w).ctxs = s.ctxs := rfl
@[simp] theorem U.done_parts (s : State) (u : U) (w : Warp) : (u.done s w).parts = s.parts := rfl
@[simp] theorem U.done_classes (s : State) (u : U) (w : Warp) : (u.done s w).classes = s.classes := rfl
@[simp] theorem U.done_nets (s : State) (u : U) (w : Warp) : (u.done s w).nets = s.nets := rfl
@[simp] theorem U.done_rates (s : State) (u : U) (w : Warp) : (u.done s w).rates = s.rates := rfl
@[simp] theorem U.done_hbm (s : State) (u : U) (w : Warp) : (u.done s w).hbm = s.hbm := rfl
@[simp] theorem U.done_specIds (s : State) (u : U) (w : Warp) : (u.done s w).specIds = s.specIds := rfl
@[simp] theorem U.done_colls (s : State) (u : U) (w : Warp) : (u.done s w).colls = s.colls := rfl
@[simp] theorem U.done_dev (s : State) (u : U) (w : Warp) : (u.done s w).dev = s.dev := rfl
@[simp] theorem U.done_serials (s : State) (u : U) (w : Warp) : (u.done s w).serials = s.serials := rfl
@[simp] theorem U.done_nowNs (s : State) (u : U) (w : Warp) : (u.done s w).nowNs = s.nowNs := rfl
@[simp] theorem U.done_cycles (s : State) (u : U) (w : Warp) : (u.done s w).cycles = s.cycles := rfl
@[simp] theorem U.done_inputs (s : State) (u : U) (w : Warp) : (u.done s w).inputs = s.inputs := rfl
@[simp] theorem U.done_tick (s : State) (u : U) (w : Warp) : (u.done s w).tick = s.tick := rfl
@[simp] theorem U.done_nextId (s : State) (u : U) (w : Warp) : (u.done s w).nextId = s.nextId := rfl
@[simp] theorem U.done_regGen (s : State) (u : U) (w : Warp) : (u.done s w).regGen = s.regGen := rfl
@[simp] theorem U.done_past (s : State) (u : U) (w : Warp) : (u.done s w).past = s.past := rfl
@[simp] theorem U.done_icinvs (s : State) (u : U) (w : Warp) : (u.done s w).icinvs = s.icinvs := rfl
@[simp] theorem U.done_sources (s : State) (u : U) (w : Warp) : (u.done s w).sources = s.sources := rfl
@[simp] theorem U.done_marks (s : State) (u : U) (w : Warp) : (u.done s w).marks = s.marks := rfl
@[simp] theorem U.done_areas (s : State) (u : U) (w : Warp) : (u.done s w).areas = s.areas := rfl

/-! ### A unit done that changes nothing -/

@[simp] theorem U.skip_cur (s : State) (u : U) : (u.skip s).cur = s.cur := rfl
@[simp] theorem U.skip_tasks (s : State) (u : U) : (u.skip s).tasks = s.tasks := rfl
@[simp] theorem U.skip_launches (s : State) (u : U) : (u.skip s).launches = s.launches := rfl
@[simp] theorem U.skip_mem (s : State) (u : U) : (u.skip s).mem = s.mem := rfl
@[simp] theorem U.skip_l1 (s : State) (u : U) : (u.skip s).l1 = s.l1 := rfl
@[simp] theorem U.skip_icache (s : State) (u : U) : (u.skip s).icache = s.icache := rfl
@[simp] theorem U.skip_tlb (s : State) (u : U) : (u.skip s).tlb = s.tlb := rfl
@[simp] theorem U.skip_loads (s : State) (u : U) : (u.skip s).loads = s.loads := rfl
@[simp] theorem U.skip_stores (s : State) (u : U) : (u.skip s).stores = s.stores := rfl
@[simp] theorem U.skip_atoms (s : State) (u : U) : (u.skip s).atoms = s.atoms := rfl
@[simp] theorem U.skip_tiles (s : State) (u : U) : (u.skip s).tiles = s.tiles := rfl
@[simp] theorem U.skip_accGen (s : State) (u : U) : (u.skip s).accGen = s.accGen := rfl
@[simp] theorem U.skip_history (s : State) (u : U) : (u.skip s).history = s.history := rfl
@[simp] theorem U.skip_ctxs (s : State) (u : U) : (u.skip s).ctxs = s.ctxs := rfl
@[simp] theorem U.skip_parts (s : State) (u : U) : (u.skip s).parts = s.parts := rfl
@[simp] theorem U.skip_classes (s : State) (u : U) : (u.skip s).classes = s.classes := rfl
@[simp] theorem U.skip_nets (s : State) (u : U) : (u.skip s).nets = s.nets := rfl
@[simp] theorem U.skip_rates (s : State) (u : U) : (u.skip s).rates = s.rates := rfl
@[simp] theorem U.skip_hbm (s : State) (u : U) : (u.skip s).hbm = s.hbm := rfl
@[simp] theorem U.skip_specIds (s : State) (u : U) : (u.skip s).specIds = s.specIds := rfl
@[simp] theorem U.skip_colls (s : State) (u : U) : (u.skip s).colls = s.colls := rfl
@[simp] theorem U.skip_dev (s : State) (u : U) : (u.skip s).dev = s.dev := rfl
@[simp] theorem U.skip_serials (s : State) (u : U) : (u.skip s).serials = s.serials := rfl
@[simp] theorem U.skip_nowNs (s : State) (u : U) : (u.skip s).nowNs = s.nowNs := rfl
@[simp] theorem U.skip_cycles (s : State) (u : U) : (u.skip s).cycles = s.cycles := rfl
@[simp] theorem U.skip_inputs (s : State) (u : U) : (u.skip s).inputs = s.inputs := rfl
@[simp] theorem U.skip_tick (s : State) (u : U) : (u.skip s).tick = s.tick := rfl
@[simp] theorem U.skip_nextId (s : State) (u : U) : (u.skip s).nextId = s.nextId := rfl
@[simp] theorem U.skip_regGen (s : State) (u : U) : (u.skip s).regGen = s.regGen := rfl
@[simp] theorem U.skip_past (s : State) (u : U) : (u.skip s).past = s.past := rfl
@[simp] theorem U.skip_icinvs (s : State) (u : U) : (u.skip s).icinvs = s.icinvs := rfl
@[simp] theorem U.skip_sources (s : State) (u : U) : (u.skip s).sources = s.sources := rfl
@[simp] theorem U.skip_marks (s : State) (u : U) : (u.skip s).marks = s.marks := rfl
@[simp] theorem U.skip_areas (s : State) (u : U) : (u.skip s).areas = s.areas := rfl

/-! ### A split written back -/

@[simp] theorem Warp.setSplit_id (w : Warp) (sp : Split) : (w.setSplit sp).id = w.id := rfl
@[simp] theorem Warp.setSplit_task (w : Warp) (sp : Split) : (w.setSplit sp).task = w.task := rfl
@[simp] theorem Warp.setSplit_role (w : Warp) (sp : Split) : (w.setSplit sp).role = w.role := rfl
@[simp] theorem Warp.setSplit_first (w : Warp) (sp : Split) : (w.setSplit sp).first = w.first := rfl
@[simp] theorem Warp.setSplit_width (w : Warp) (sp : Split) : (w.setSplit sp).width = w.width := rfl
@[simp] theorem Warp.setSplit_nregs (w : Warp) (sp : Split) : (w.setSplit sp).nregs = w.nregs := rfl
@[simp] theorem Warp.setSplit_slot (w : Warp) (sp : Split) : (w.setSplit sp).slot = w.slot := rfl
@[simp] theorem Warp.setSplit_legacy (w : Warp) (sp : Split) : (w.setSplit sp).legacy = w.legacy := rfl
@[simp] theorem Warp.setSplit_v (w : Warp) (sp : Split) : (w.setSplit sp).v = w.v := rfl
@[simp] theorem Warp.setSplit_p (w : Warp) (sp : Split) : (w.setSplit sp).p = w.p := rfl
@[simp] theorem Warp.setSplit_s (w : Warp) (sp : Split) : (w.setSplit sp).s = w.s := rfl
@[simp] theorem Warp.setSplit_live (w : Warp) (sp : Split) : (w.setSplit sp).live = w.live := rfl
@[simp] theorem Warp.setSplit_nbase (w : Warp) (sp : Split) : (w.setSplit sp).nbase = w.nbase := rfl
@[simp] theorem Warp.setSplit_nlim (w : Warp) (sp : Split) : (w.setSplit sp).nlim = w.nlim := rfl
@[simp] theorem Warp.setSplit_gang (w : Warp) (sp : Split) : (w.setSplit sp).gang = w.gang := rfl
@[simp] theorem Warp.setSplit_run (w : Warp) (sp : Split) : (w.setSplit sp).run = w.run := rfl
@[simp] theorem Warp.setSplit_turn (w : Warp) (sp : Split) : (w.setSplit sp).turn = w.turn := rfl
@[simp] theorem Warp.setSplit_passed (w : Warp) (sp : Split) : (w.setSplit sp).passed = w.passed := rfl
@[simp] theorem Warp.setSplit_nest (w : Warp) (sp : Split) : (w.setSplit sp).nest = w.nest := rfl
@[simp] theorem Warp.setSplit_recs (w : Warp) (sp : Split) : (w.setSplit sp).recs = w.recs := rfl
@[simp] theorem Warp.setSplit_regions (w : Warp) (sp : Split) : (w.setSplit sp).regions = w.regions := rfl
@[simp] theorem Warp.setSplit_gates (w : Warp) (sp : Split) : (w.setSplit sp).gates = w.gates := rfl
@[simp] theorem Warp.setSplit_txs (w : Warp) (sp : Split) : (w.setSplit sp).txs = w.txs := rfl
@[simp] theorem Warp.setSplit_interval (w : Warp) (sp : Split) : (w.setSplit sp).interval = w.interval := rfl
@[simp] theorem Warp.setSplit_staged (w : Warp) (sp : Split) : (w.setSplit sp).staged = w.staged := rfl
@[simp] theorem Warp.setSplit_perf (w : Warp) (sp : Split) : (w.setSplit sp).perf = w.perf := rfl
@[simp] theorem Warp.setSplit_stopped (w : Warp) (sp : Split) : (w.setSplit sp).stopped = w.stopped := rfl
@[simp] theorem Warp.setSplit_held (w : Warp) (sp : Split) : (w.setSplit sp).held = w.held := rfl
@[simp] theorem Warp.setSplit_pos (w : Warp) (sp : Split) : (w.setSplit sp).pos = w.pos := rfl
@[simp] theorem Warp.setSplit_store (w : Warp) (sp : Split) : (w.setSplit sp).store = w.store := rfl
@[simp] theorem Warp.setSplit_age (w : Warp) (sp : Split) : (w.setSplit sp).age = w.age := rfl
@[simp] theorem Warp.setSplit_rows (w : Warp) (sp : Split) : (w.setSplit sp).rows = w.rows := rfl
@[simp] theorem Warp.setSplit_up (w : Warp) (sp : Split) : (w.setSplit sp).up = w.up := rfl
@[simp] theorem Warp.setSplit_owed (w : Warp) (sp : Split) : (w.setSplit sp).owed = w.owed := rfl

/-! ### The running sub-path written back -/

@[simp] theorem Warp.setHead_id (w : Warp) (n : Nat) (p : Path) : (w.setHead n p).id = w.id := rfl
@[simp] theorem Warp.setHead_task (w : Warp) (n : Nat) (p : Path) : (w.setHead n p).task = w.task := rfl
@[simp] theorem Warp.setHead_role (w : Warp) (n : Nat) (p : Path) : (w.setHead n p).role = w.role := rfl
@[simp] theorem Warp.setHead_first (w : Warp) (n : Nat) (p : Path) : (w.setHead n p).first = w.first := rfl
@[simp] theorem Warp.setHead_width (w : Warp) (n : Nat) (p : Path) : (w.setHead n p).width = w.width := rfl
@[simp] theorem Warp.setHead_nregs (w : Warp) (n : Nat) (p : Path) : (w.setHead n p).nregs = w.nregs := rfl
@[simp] theorem Warp.setHead_slot (w : Warp) (n : Nat) (p : Path) : (w.setHead n p).slot = w.slot := rfl
@[simp] theorem Warp.setHead_legacy (w : Warp) (n : Nat) (p : Path) : (w.setHead n p).legacy = w.legacy := rfl
@[simp] theorem Warp.setHead_v (w : Warp) (n : Nat) (p : Path) : (w.setHead n p).v = w.v := rfl
@[simp] theorem Warp.setHead_p (w : Warp) (n : Nat) (p : Path) : (w.setHead n p).p = w.p := rfl
@[simp] theorem Warp.setHead_s (w : Warp) (n : Nat) (p : Path) : (w.setHead n p).s = w.s := rfl
@[simp] theorem Warp.setHead_live (w : Warp) (n : Nat) (p : Path) : (w.setHead n p).live = w.live := rfl
@[simp] theorem Warp.setHead_nbase (w : Warp) (n : Nat) (p : Path) : (w.setHead n p).nbase = w.nbase := rfl
@[simp] theorem Warp.setHead_nlim (w : Warp) (n : Nat) (p : Path) : (w.setHead n p).nlim = w.nlim := rfl
@[simp] theorem Warp.setHead_gang (w : Warp) (n : Nat) (p : Path) : (w.setHead n p).gang = w.gang := rfl
@[simp] theorem Warp.setHead_run (w : Warp) (n : Nat) (p : Path) : (w.setHead n p).run = w.run := rfl
@[simp] theorem Warp.setHead_turn (w : Warp) (n : Nat) (p : Path) : (w.setHead n p).turn = w.turn := rfl
@[simp] theorem Warp.setHead_passed (w : Warp) (n : Nat) (p : Path) : (w.setHead n p).passed = w.passed := rfl
@[simp] theorem Warp.setHead_nest (w : Warp) (n : Nat) (p : Path) : (w.setHead n p).nest = w.nest := rfl
@[simp] theorem Warp.setHead_recs (w : Warp) (n : Nat) (p : Path) : (w.setHead n p).recs = w.recs := rfl
@[simp] theorem Warp.setHead_regions (w : Warp) (n : Nat) (p : Path) : (w.setHead n p).regions = w.regions := rfl
@[simp] theorem Warp.setHead_gates (w : Warp) (n : Nat) (p : Path) : (w.setHead n p).gates = w.gates := rfl
@[simp] theorem Warp.setHead_txs (w : Warp) (n : Nat) (p : Path) : (w.setHead n p).txs = w.txs := rfl
@[simp] theorem Warp.setHead_interval (w : Warp) (n : Nat) (p : Path) : (w.setHead n p).interval = w.interval := rfl
@[simp] theorem Warp.setHead_staged (w : Warp) (n : Nat) (p : Path) : (w.setHead n p).staged = w.staged := rfl
@[simp] theorem Warp.setHead_perf (w : Warp) (n : Nat) (p : Path) : (w.setHead n p).perf = w.perf := rfl
@[simp] theorem Warp.setHead_stopped (w : Warp) (n : Nat) (p : Path) : (w.setHead n p).stopped = w.stopped := rfl
@[simp] theorem Warp.setHead_held (w : Warp) (n : Nat) (p : Path) : (w.setHead n p).held = w.held := rfl
@[simp] theorem Warp.setHead_pos (w : Warp) (n : Nat) (p : Path) : (w.setHead n p).pos = w.pos := rfl
@[simp] theorem Warp.setHead_store (w : Warp) (n : Nat) (p : Path) : (w.setHead n p).store = w.store := rfl
@[simp] theorem Warp.setHead_age (w : Warp) (n : Nat) (p : Path) : (w.setHead n p).age = w.age := rfl
@[simp] theorem Warp.setHead_rows (w : Warp) (n : Nat) (p : Path) : (w.setHead n p).rows = w.rows := rfl
@[simp] theorem Warp.setHead_up (w : Warp) (n : Nat) (p : Path) : (w.setHead n p).up = w.up := rfl
@[simp] theorem Warp.setHead_owed (w : Warp) (n : Nat) (p : Path) : (w.setHead n p).owed = w.owed := rfl

/-! ### The running sub-path at an address -/

@[simp] theorem U.at_id (w : Warp) (u : U) (pc : W64) : (u.at w pc).id = w.id := rfl
@[simp] theorem U.at_task (w : Warp) (u : U) (pc : W64) : (u.at w pc).task = w.task := rfl
@[simp] theorem U.at_role (w : Warp) (u : U) (pc : W64) : (u.at w pc).role = w.role := rfl
@[simp] theorem U.at_first (w : Warp) (u : U) (pc : W64) : (u.at w pc).first = w.first := rfl
@[simp] theorem U.at_width (w : Warp) (u : U) (pc : W64) : (u.at w pc).width = w.width := rfl
@[simp] theorem U.at_nregs (w : Warp) (u : U) (pc : W64) : (u.at w pc).nregs = w.nregs := rfl
@[simp] theorem U.at_slot (w : Warp) (u : U) (pc : W64) : (u.at w pc).slot = w.slot := rfl
@[simp] theorem U.at_legacy (w : Warp) (u : U) (pc : W64) : (u.at w pc).legacy = w.legacy := rfl
@[simp] theorem U.at_v (w : Warp) (u : U) (pc : W64) : (u.at w pc).v = w.v := rfl
@[simp] theorem U.at_p (w : Warp) (u : U) (pc : W64) : (u.at w pc).p = w.p := rfl
@[simp] theorem U.at_s (w : Warp) (u : U) (pc : W64) : (u.at w pc).s = w.s := rfl
@[simp] theorem U.at_live (w : Warp) (u : U) (pc : W64) : (u.at w pc).live = w.live := rfl
@[simp] theorem U.at_nbase (w : Warp) (u : U) (pc : W64) : (u.at w pc).nbase = w.nbase := rfl
@[simp] theorem U.at_nlim (w : Warp) (u : U) (pc : W64) : (u.at w pc).nlim = w.nlim := rfl
@[simp] theorem U.at_gang (w : Warp) (u : U) (pc : W64) : (u.at w pc).gang = w.gang := rfl
@[simp] theorem U.at_run (w : Warp) (u : U) (pc : W64) : (u.at w pc).run = w.run := rfl
@[simp] theorem U.at_turn (w : Warp) (u : U) (pc : W64) : (u.at w pc).turn = w.turn := rfl
@[simp] theorem U.at_passed (w : Warp) (u : U) (pc : W64) : (u.at w pc).passed = w.passed := rfl
@[simp] theorem U.at_nest (w : Warp) (u : U) (pc : W64) : (u.at w pc).nest = w.nest := rfl
@[simp] theorem U.at_recs (w : Warp) (u : U) (pc : W64) : (u.at w pc).recs = w.recs := rfl
@[simp] theorem U.at_regions (w : Warp) (u : U) (pc : W64) : (u.at w pc).regions = w.regions := rfl
@[simp] theorem U.at_gates (w : Warp) (u : U) (pc : W64) : (u.at w pc).gates = w.gates := rfl
@[simp] theorem U.at_txs (w : Warp) (u : U) (pc : W64) : (u.at w pc).txs = w.txs := rfl
@[simp] theorem U.at_interval (w : Warp) (u : U) (pc : W64) : (u.at w pc).interval = w.interval := rfl
@[simp] theorem U.at_staged (w : Warp) (u : U) (pc : W64) : (u.at w pc).staged = w.staged := rfl
@[simp] theorem U.at_perf (w : Warp) (u : U) (pc : W64) : (u.at w pc).perf = w.perf := rfl
@[simp] theorem U.at_stopped (w : Warp) (u : U) (pc : W64) : (u.at w pc).stopped = w.stopped := rfl
@[simp] theorem U.at_held (w : Warp) (u : U) (pc : W64) : (u.at w pc).held = w.held := rfl
@[simp] theorem U.at_pos (w : Warp) (u : U) (pc : W64) : (u.at w pc).pos = w.pos := rfl
@[simp] theorem U.at_store (w : Warp) (u : U) (pc : W64) : (u.at w pc).store = w.store := rfl
@[simp] theorem U.at_age (w : Warp) (u : U) (pc : W64) : (u.at w pc).age = w.age := rfl
@[simp] theorem U.at_rows (w : Warp) (u : U) (pc : W64) : (u.at w pc).rows = w.rows := rfl
@[simp] theorem U.at_up (w : Warp) (u : U) (pc : W64) : (u.at w pc).up = w.up := rfl
@[simp] theorem U.at_owed (w : Warp) (u : U) (pc : W64) : (u.at w pc).owed = w.owed := rfl

/-! ### A scalar register written -/

@[simp] theorem Warp.setS_id (w : Warp) (r : Reg) (x : Word) : (w.setS r x).id = w.id := rfl
@[simp] theorem Warp.setS_task (w : Warp) (r : Reg) (x : Word) : (w.setS r x).task = w.task := rfl
@[simp] theorem Warp.setS_role (w : Warp) (r : Reg) (x : Word) : (w.setS r x).role = w.role := rfl
@[simp] theorem Warp.setS_first (w : Warp) (r : Reg) (x : Word) : (w.setS r x).first = w.first := rfl
@[simp] theorem Warp.setS_width (w : Warp) (r : Reg) (x : Word) : (w.setS r x).width = w.width := rfl
@[simp] theorem Warp.setS_nregs (w : Warp) (r : Reg) (x : Word) : (w.setS r x).nregs = w.nregs := rfl
@[simp] theorem Warp.setS_slot (w : Warp) (r : Reg) (x : Word) : (w.setS r x).slot = w.slot := rfl
@[simp] theorem Warp.setS_legacy (w : Warp) (r : Reg) (x : Word) : (w.setS r x).legacy = w.legacy := rfl
@[simp] theorem Warp.setS_v (w : Warp) (r : Reg) (x : Word) : (w.setS r x).v = w.v := rfl
@[simp] theorem Warp.setS_p (w : Warp) (r : Reg) (x : Word) : (w.setS r x).p = w.p := rfl
@[simp] theorem Warp.setS_live (w : Warp) (r : Reg) (x : Word) : (w.setS r x).live = w.live := rfl
@[simp] theorem Warp.setS_nbase (w : Warp) (r : Reg) (x : Word) : (w.setS r x).nbase = w.nbase := rfl
@[simp] theorem Warp.setS_nlim (w : Warp) (r : Reg) (x : Word) : (w.setS r x).nlim = w.nlim := rfl
@[simp] theorem Warp.setS_gang (w : Warp) (r : Reg) (x : Word) : (w.setS r x).gang = w.gang := rfl
@[simp] theorem Warp.setS_splits (w : Warp) (r : Reg) (x : Word) : (w.setS r x).splits = w.splits := rfl
@[simp] theorem Warp.setS_run (w : Warp) (r : Reg) (x : Word) : (w.setS r x).run = w.run := rfl
@[simp] theorem Warp.setS_turn (w : Warp) (r : Reg) (x : Word) : (w.setS r x).turn = w.turn := rfl
@[simp] theorem Warp.setS_passed (w : Warp) (r : Reg) (x : Word) : (w.setS r x).passed = w.passed := rfl
@[simp] theorem Warp.setS_nest (w : Warp) (r : Reg) (x : Word) : (w.setS r x).nest = w.nest := rfl
@[simp] theorem Warp.setS_recs (w : Warp) (r : Reg) (x : Word) : (w.setS r x).recs = w.recs := rfl
@[simp] theorem Warp.setS_regions (w : Warp) (r : Reg) (x : Word) : (w.setS r x).regions = w.regions := rfl
@[simp] theorem Warp.setS_gates (w : Warp) (r : Reg) (x : Word) : (w.setS r x).gates = w.gates := rfl
@[simp] theorem Warp.setS_txs (w : Warp) (r : Reg) (x : Word) : (w.setS r x).txs = w.txs := rfl
@[simp] theorem Warp.setS_interval (w : Warp) (r : Reg) (x : Word) : (w.setS r x).interval = w.interval := rfl
@[simp] theorem Warp.setS_staged (w : Warp) (r : Reg) (x : Word) : (w.setS r x).staged = w.staged := rfl
@[simp] theorem Warp.setS_perf (w : Warp) (r : Reg) (x : Word) : (w.setS r x).perf = w.perf := rfl
@[simp] theorem Warp.setS_stopped (w : Warp) (r : Reg) (x : Word) : (w.setS r x).stopped = w.stopped := rfl
@[simp] theorem Warp.setS_held (w : Warp) (r : Reg) (x : Word) : (w.setS r x).held = w.held := rfl
@[simp] theorem Warp.setS_pos (w : Warp) (r : Reg) (x : Word) : (w.setS r x).pos = w.pos := rfl
@[simp] theorem Warp.setS_store (w : Warp) (r : Reg) (x : Word) : (w.setS r x).store = w.store := rfl
@[simp] theorem Warp.setS_age (w : Warp) (r : Reg) (x : Word) : (w.setS r x).age = w.age := rfl
@[simp] theorem Warp.setS_rows (w : Warp) (r : Reg) (x : Word) : (w.setS r x).rows = w.rows := rfl
@[simp] theorem Warp.setS_up (w : Warp) (r : Reg) (x : Word) : (w.setS r x).up = w.up := rfl
@[simp] theorem Warp.setS_owed (w : Warp) (r : Reg) (x : Word) : (w.setS r x).owed = w.owed := rfl

/-! ### A lane register written -/

@[simp] theorem Warp.setV_id (w : Warp) (l : Nat) (r : Reg) (x : Word) : (w.setV l r x).id = w.id := by unfold Warp.setV; split <;> rfl
@[simp] theorem Warp.setV_task (w : Warp) (l : Nat) (r : Reg) (x : Word) : (w.setV l r x).task = w.task := by unfold Warp.setV; split <;> rfl
@[simp] theorem Warp.setV_role (w : Warp) (l : Nat) (r : Reg) (x : Word) : (w.setV l r x).role = w.role := by unfold Warp.setV; split <;> rfl
@[simp] theorem Warp.setV_first (w : Warp) (l : Nat) (r : Reg) (x : Word) : (w.setV l r x).first = w.first := by unfold Warp.setV; split <;> rfl
@[simp] theorem Warp.setV_width (w : Warp) (l : Nat) (r : Reg) (x : Word) : (w.setV l r x).width = w.width := by unfold Warp.setV; split <;> rfl
@[simp] theorem Warp.setV_nregs (w : Warp) (l : Nat) (r : Reg) (x : Word) : (w.setV l r x).nregs = w.nregs := by unfold Warp.setV; split <;> rfl
@[simp] theorem Warp.setV_slot (w : Warp) (l : Nat) (r : Reg) (x : Word) : (w.setV l r x).slot = w.slot := by unfold Warp.setV; split <;> rfl
@[simp] theorem Warp.setV_legacy (w : Warp) (l : Nat) (r : Reg) (x : Word) : (w.setV l r x).legacy = w.legacy := by unfold Warp.setV; split <;> rfl
@[simp] theorem Warp.setV_p (w : Warp) (l : Nat) (r : Reg) (x : Word) : (w.setV l r x).p = w.p := by unfold Warp.setV; split <;> rfl
@[simp] theorem Warp.setV_s (w : Warp) (l : Nat) (r : Reg) (x : Word) : (w.setV l r x).s = w.s := by unfold Warp.setV; split <;> rfl
@[simp] theorem Warp.setV_live (w : Warp) (l : Nat) (r : Reg) (x : Word) : (w.setV l r x).live = w.live := by unfold Warp.setV; split <;> rfl
@[simp] theorem Warp.setV_nbase (w : Warp) (l : Nat) (r : Reg) (x : Word) : (w.setV l r x).nbase = w.nbase := by unfold Warp.setV; split <;> rfl
@[simp] theorem Warp.setV_nlim (w : Warp) (l : Nat) (r : Reg) (x : Word) : (w.setV l r x).nlim = w.nlim := by unfold Warp.setV; split <;> rfl
@[simp] theorem Warp.setV_gang (w : Warp) (l : Nat) (r : Reg) (x : Word) : (w.setV l r x).gang = w.gang := by unfold Warp.setV; split <;> rfl
@[simp] theorem Warp.setV_splits (w : Warp) (l : Nat) (r : Reg) (x : Word) : (w.setV l r x).splits = w.splits := by unfold Warp.setV; split <;> rfl
@[simp] theorem Warp.setV_run (w : Warp) (l : Nat) (r : Reg) (x : Word) : (w.setV l r x).run = w.run := by unfold Warp.setV; split <;> rfl
@[simp] theorem Warp.setV_turn (w : Warp) (l : Nat) (r : Reg) (x : Word) : (w.setV l r x).turn = w.turn := by unfold Warp.setV; split <;> rfl
@[simp] theorem Warp.setV_passed (w : Warp) (l : Nat) (r : Reg) (x : Word) : (w.setV l r x).passed = w.passed := by unfold Warp.setV; split <;> rfl
@[simp] theorem Warp.setV_nest (w : Warp) (l : Nat) (r : Reg) (x : Word) : (w.setV l r x).nest = w.nest := by unfold Warp.setV; split <;> rfl
@[simp] theorem Warp.setV_recs (w : Warp) (l : Nat) (r : Reg) (x : Word) : (w.setV l r x).recs = w.recs := by unfold Warp.setV; split <;> rfl
@[simp] theorem Warp.setV_regions (w : Warp) (l : Nat) (r : Reg) (x : Word) : (w.setV l r x).regions = w.regions := by unfold Warp.setV; split <;> rfl
@[simp] theorem Warp.setV_gates (w : Warp) (l : Nat) (r : Reg) (x : Word) : (w.setV l r x).gates = w.gates := by unfold Warp.setV; split <;> rfl
@[simp] theorem Warp.setV_txs (w : Warp) (l : Nat) (r : Reg) (x : Word) : (w.setV l r x).txs = w.txs := by unfold Warp.setV; split <;> rfl
@[simp] theorem Warp.setV_interval (w : Warp) (l : Nat) (r : Reg) (x : Word) : (w.setV l r x).interval = w.interval := by unfold Warp.setV; split <;> rfl
@[simp] theorem Warp.setV_staged (w : Warp) (l : Nat) (r : Reg) (x : Word) : (w.setV l r x).staged = w.staged := by unfold Warp.setV; split <;> rfl
@[simp] theorem Warp.setV_perf (w : Warp) (l : Nat) (r : Reg) (x : Word) : (w.setV l r x).perf = w.perf := by unfold Warp.setV; split <;> rfl
@[simp] theorem Warp.setV_stopped (w : Warp) (l : Nat) (r : Reg) (x : Word) : (w.setV l r x).stopped = w.stopped := by unfold Warp.setV; split <;> rfl
@[simp] theorem Warp.setV_held (w : Warp) (l : Nat) (r : Reg) (x : Word) : (w.setV l r x).held = w.held := by unfold Warp.setV; split <;> rfl
@[simp] theorem Warp.setV_pos (w : Warp) (l : Nat) (r : Reg) (x : Word) : (w.setV l r x).pos = w.pos := by unfold Warp.setV; split <;> rfl
@[simp] theorem Warp.setV_store (w : Warp) (l : Nat) (r : Reg) (x : Word) : (w.setV l r x).store = w.store := by unfold Warp.setV; split <;> rfl
@[simp] theorem Warp.setV_age (w : Warp) (l : Nat) (r : Reg) (x : Word) : (w.setV l r x).age = w.age := by unfold Warp.setV; split <;> rfl
@[simp] theorem Warp.setV_rows (w : Warp) (l : Nat) (r : Reg) (x : Word) : (w.setV l r x).rows = w.rows := by unfold Warp.setV; split <;> rfl
@[simp] theorem Warp.setV_up (w : Warp) (l : Nat) (r : Reg) (x : Word) : (w.setV l r x).up = w.up := by unfold Warp.setV; split <;> rfl
@[simp] theorem Warp.setV_owed (w : Warp) (l : Nat) (r : Reg) (x : Word) : (w.setV l r x).owed = w.owed := by unfold Warp.setV; split <;> rfl

/-! ### A predicate written -/

@[simp] theorem Warp.setP_id (w : Warp) (l : Nat) (r : Reg) (b : Bool) : (w.setP l r b).id = w.id := by unfold Warp.setP; split <;> rfl
@[simp] theorem Warp.setP_task (w : Warp) (l : Nat) (r : Reg) (b : Bool) : (w.setP l r b).task = w.task := by unfold Warp.setP; split <;> rfl
@[simp] theorem Warp.setP_role (w : Warp) (l : Nat) (r : Reg) (b : Bool) : (w.setP l r b).role = w.role := by unfold Warp.setP; split <;> rfl
@[simp] theorem Warp.setP_first (w : Warp) (l : Nat) (r : Reg) (b : Bool) : (w.setP l r b).first = w.first := by unfold Warp.setP; split <;> rfl
@[simp] theorem Warp.setP_width (w : Warp) (l : Nat) (r : Reg) (b : Bool) : (w.setP l r b).width = w.width := by unfold Warp.setP; split <;> rfl
@[simp] theorem Warp.setP_nregs (w : Warp) (l : Nat) (r : Reg) (b : Bool) : (w.setP l r b).nregs = w.nregs := by unfold Warp.setP; split <;> rfl
@[simp] theorem Warp.setP_slot (w : Warp) (l : Nat) (r : Reg) (b : Bool) : (w.setP l r b).slot = w.slot := by unfold Warp.setP; split <;> rfl
@[simp] theorem Warp.setP_legacy (w : Warp) (l : Nat) (r : Reg) (b : Bool) : (w.setP l r b).legacy = w.legacy := by unfold Warp.setP; split <;> rfl
@[simp] theorem Warp.setP_v (w : Warp) (l : Nat) (r : Reg) (b : Bool) : (w.setP l r b).v = w.v := by unfold Warp.setP; split <;> rfl
@[simp] theorem Warp.setP_s (w : Warp) (l : Nat) (r : Reg) (b : Bool) : (w.setP l r b).s = w.s := by unfold Warp.setP; split <;> rfl
@[simp] theorem Warp.setP_live (w : Warp) (l : Nat) (r : Reg) (b : Bool) : (w.setP l r b).live = w.live := by unfold Warp.setP; split <;> rfl
@[simp] theorem Warp.setP_nbase (w : Warp) (l : Nat) (r : Reg) (b : Bool) : (w.setP l r b).nbase = w.nbase := by unfold Warp.setP; split <;> rfl
@[simp] theorem Warp.setP_nlim (w : Warp) (l : Nat) (r : Reg) (b : Bool) : (w.setP l r b).nlim = w.nlim := by unfold Warp.setP; split <;> rfl
@[simp] theorem Warp.setP_gang (w : Warp) (l : Nat) (r : Reg) (b : Bool) : (w.setP l r b).gang = w.gang := by unfold Warp.setP; split <;> rfl
@[simp] theorem Warp.setP_splits (w : Warp) (l : Nat) (r : Reg) (b : Bool) : (w.setP l r b).splits = w.splits := by unfold Warp.setP; split <;> rfl
@[simp] theorem Warp.setP_run (w : Warp) (l : Nat) (r : Reg) (b : Bool) : (w.setP l r b).run = w.run := by unfold Warp.setP; split <;> rfl
@[simp] theorem Warp.setP_turn (w : Warp) (l : Nat) (r : Reg) (b : Bool) : (w.setP l r b).turn = w.turn := by unfold Warp.setP; split <;> rfl
@[simp] theorem Warp.setP_passed (w : Warp) (l : Nat) (r : Reg) (b : Bool) : (w.setP l r b).passed = w.passed := by unfold Warp.setP; split <;> rfl
@[simp] theorem Warp.setP_nest (w : Warp) (l : Nat) (r : Reg) (b : Bool) : (w.setP l r b).nest = w.nest := by unfold Warp.setP; split <;> rfl
@[simp] theorem Warp.setP_recs (w : Warp) (l : Nat) (r : Reg) (b : Bool) : (w.setP l r b).recs = w.recs := by unfold Warp.setP; split <;> rfl
@[simp] theorem Warp.setP_regions (w : Warp) (l : Nat) (r : Reg) (b : Bool) : (w.setP l r b).regions = w.regions := by unfold Warp.setP; split <;> rfl
@[simp] theorem Warp.setP_gates (w : Warp) (l : Nat) (r : Reg) (b : Bool) : (w.setP l r b).gates = w.gates := by unfold Warp.setP; split <;> rfl
@[simp] theorem Warp.setP_txs (w : Warp) (l : Nat) (r : Reg) (b : Bool) : (w.setP l r b).txs = w.txs := by unfold Warp.setP; split <;> rfl
@[simp] theorem Warp.setP_interval (w : Warp) (l : Nat) (r : Reg) (b : Bool) : (w.setP l r b).interval = w.interval := by unfold Warp.setP; split <;> rfl
@[simp] theorem Warp.setP_staged (w : Warp) (l : Nat) (r : Reg) (b : Bool) : (w.setP l r b).staged = w.staged := by unfold Warp.setP; split <;> rfl
@[simp] theorem Warp.setP_perf (w : Warp) (l : Nat) (r : Reg) (b : Bool) : (w.setP l r b).perf = w.perf := by unfold Warp.setP; split <;> rfl
@[simp] theorem Warp.setP_stopped (w : Warp) (l : Nat) (r : Reg) (b : Bool) : (w.setP l r b).stopped = w.stopped := by unfold Warp.setP; split <;> rfl
@[simp] theorem Warp.setP_held (w : Warp) (l : Nat) (r : Reg) (b : Bool) : (w.setP l r b).held = w.held := by unfold Warp.setP; split <;> rfl
@[simp] theorem Warp.setP_pos (w : Warp) (l : Nat) (r : Reg) (b : Bool) : (w.setP l r b).pos = w.pos := by unfold Warp.setP; split <;> rfl
@[simp] theorem Warp.setP_store (w : Warp) (l : Nat) (r : Reg) (b : Bool) : (w.setP l r b).store = w.store := by unfold Warp.setP; split <;> rfl
@[simp] theorem Warp.setP_age (w : Warp) (l : Nat) (r : Reg) (b : Bool) : (w.setP l r b).age = w.age := by unfold Warp.setP; split <;> rfl
@[simp] theorem Warp.setP_rows (w : Warp) (l : Nat) (r : Reg) (b : Bool) : (w.setP l r b).rows = w.rows := by unfold Warp.setP; split <;> rfl
@[simp] theorem Warp.setP_up (w : Warp) (l : Nat) (r : Reg) (b : Bool) : (w.setP l r b).up = w.up := by unfold Warp.setP; split <;> rfl
@[simp] theorem Warp.setP_owed (w : Warp) (l : Nat) (r : Reg) (b : Bool) : (w.setP l r b).owed = w.owed := by unfold Warp.setP; split <;> rfl

/-! ### A lane write -/

@[simp] theorem Warp.write_id (w : Warp) (l : Nat) (x : LaneWrite) : (w.write l x).id = w.id := by cases x <;> simp [Warp.write]
@[simp] theorem Warp.write_task (w : Warp) (l : Nat) (x : LaneWrite) : (w.write l x).task = w.task := by cases x <;> simp [Warp.write]
@[simp] theorem Warp.write_role (w : Warp) (l : Nat) (x : LaneWrite) : (w.write l x).role = w.role := by cases x <;> simp [Warp.write]
@[simp] theorem Warp.write_first (w : Warp) (l : Nat) (x : LaneWrite) : (w.write l x).first = w.first := by cases x <;> simp [Warp.write]
@[simp] theorem Warp.write_width (w : Warp) (l : Nat) (x : LaneWrite) : (w.write l x).width = w.width := by cases x <;> simp [Warp.write]
@[simp] theorem Warp.write_nregs (w : Warp) (l : Nat) (x : LaneWrite) : (w.write l x).nregs = w.nregs := by cases x <;> simp [Warp.write]
@[simp] theorem Warp.write_slot (w : Warp) (l : Nat) (x : LaneWrite) : (w.write l x).slot = w.slot := by cases x <;> simp [Warp.write]
@[simp] theorem Warp.write_legacy (w : Warp) (l : Nat) (x : LaneWrite) : (w.write l x).legacy = w.legacy := by cases x <;> simp [Warp.write]
@[simp] theorem Warp.write_s (w : Warp) (l : Nat) (x : LaneWrite) : (w.write l x).s = w.s := by cases x <;> simp [Warp.write]
@[simp] theorem Warp.write_live (w : Warp) (l : Nat) (x : LaneWrite) : (w.write l x).live = w.live := by cases x <;> simp [Warp.write]
@[simp] theorem Warp.write_nbase (w : Warp) (l : Nat) (x : LaneWrite) : (w.write l x).nbase = w.nbase := by cases x <;> simp [Warp.write]
@[simp] theorem Warp.write_nlim (w : Warp) (l : Nat) (x : LaneWrite) : (w.write l x).nlim = w.nlim := by cases x <;> simp [Warp.write]
@[simp] theorem Warp.write_gang (w : Warp) (l : Nat) (x : LaneWrite) : (w.write l x).gang = w.gang := by cases x <;> simp [Warp.write]
@[simp] theorem Warp.write_splits (w : Warp) (l : Nat) (x : LaneWrite) : (w.write l x).splits = w.splits := by cases x <;> simp [Warp.write]
@[simp] theorem Warp.write_run (w : Warp) (l : Nat) (x : LaneWrite) : (w.write l x).run = w.run := by cases x <;> simp [Warp.write]
@[simp] theorem Warp.write_turn (w : Warp) (l : Nat) (x : LaneWrite) : (w.write l x).turn = w.turn := by cases x <;> simp [Warp.write]
@[simp] theorem Warp.write_passed (w : Warp) (l : Nat) (x : LaneWrite) : (w.write l x).passed = w.passed := by cases x <;> simp [Warp.write]
@[simp] theorem Warp.write_nest (w : Warp) (l : Nat) (x : LaneWrite) : (w.write l x).nest = w.nest := by cases x <;> simp [Warp.write]
@[simp] theorem Warp.write_recs (w : Warp) (l : Nat) (x : LaneWrite) : (w.write l x).recs = w.recs := by cases x <;> simp [Warp.write]
@[simp] theorem Warp.write_regions (w : Warp) (l : Nat) (x : LaneWrite) : (w.write l x).regions = w.regions := by cases x <;> simp [Warp.write]
@[simp] theorem Warp.write_gates (w : Warp) (l : Nat) (x : LaneWrite) : (w.write l x).gates = w.gates := by cases x <;> simp [Warp.write]
@[simp] theorem Warp.write_txs (w : Warp) (l : Nat) (x : LaneWrite) : (w.write l x).txs = w.txs := by cases x <;> simp [Warp.write]
@[simp] theorem Warp.write_interval (w : Warp) (l : Nat) (x : LaneWrite) : (w.write l x).interval = w.interval := by cases x <;> simp [Warp.write]
@[simp] theorem Warp.write_staged (w : Warp) (l : Nat) (x : LaneWrite) : (w.write l x).staged = w.staged := by cases x <;> simp [Warp.write]
@[simp] theorem Warp.write_perf (w : Warp) (l : Nat) (x : LaneWrite) : (w.write l x).perf = w.perf := by cases x <;> simp [Warp.write]
@[simp] theorem Warp.write_stopped (w : Warp) (l : Nat) (x : LaneWrite) : (w.write l x).stopped = w.stopped := by cases x <;> simp [Warp.write]
@[simp] theorem Warp.write_held (w : Warp) (l : Nat) (x : LaneWrite) : (w.write l x).held = w.held := by cases x <;> simp [Warp.write]
@[simp] theorem Warp.write_pos (w : Warp) (l : Nat) (x : LaneWrite) : (w.write l x).pos = w.pos := by cases x <;> simp [Warp.write]
@[simp] theorem Warp.write_store (w : Warp) (l : Nat) (x : LaneWrite) : (w.write l x).store = w.store := by cases x <;> simp [Warp.write]
@[simp] theorem Warp.write_age (w : Warp) (l : Nat) (x : LaneWrite) : (w.write l x).age = w.age := by cases x <;> simp [Warp.write]
@[simp] theorem Warp.write_rows (w : Warp) (l : Nat) (x : LaneWrite) : (w.write l x).rows = w.rows := by cases x <;> simp [Warp.write]
@[simp] theorem Warp.write_up (w : Warp) (l : Nat) (x : LaneWrite) : (w.write l x).up = w.up := by cases x <;> simp [Warp.write]
@[simp] theorem Warp.write_owed (w : Warp) (l : Nat) (x : LaneWrite) : (w.write l x).owed = w.owed := by cases x <;> simp [Warp.write]

/-! ### A performance counter raised -/

@[simp] theorem Warp.bump_id (w : Warp) (i n : Nat) : (w.bump i n).id = w.id := rfl
@[simp] theorem Warp.bump_task (w : Warp) (i n : Nat) : (w.bump i n).task = w.task := rfl
@[simp] theorem Warp.bump_role (w : Warp) (i n : Nat) : (w.bump i n).role = w.role := rfl
@[simp] theorem Warp.bump_first (w : Warp) (i n : Nat) : (w.bump i n).first = w.first := rfl
@[simp] theorem Warp.bump_width (w : Warp) (i n : Nat) : (w.bump i n).width = w.width := rfl
@[simp] theorem Warp.bump_nregs (w : Warp) (i n : Nat) : (w.bump i n).nregs = w.nregs := rfl
@[simp] theorem Warp.bump_slot (w : Warp) (i n : Nat) : (w.bump i n).slot = w.slot := rfl
@[simp] theorem Warp.bump_legacy (w : Warp) (i n : Nat) : (w.bump i n).legacy = w.legacy := rfl
@[simp] theorem Warp.bump_v (w : Warp) (i n : Nat) : (w.bump i n).v = w.v := rfl
@[simp] theorem Warp.bump_p (w : Warp) (i n : Nat) : (w.bump i n).p = w.p := rfl
@[simp] theorem Warp.bump_s (w : Warp) (i n : Nat) : (w.bump i n).s = w.s := rfl
@[simp] theorem Warp.bump_live (w : Warp) (i n : Nat) : (w.bump i n).live = w.live := rfl
@[simp] theorem Warp.bump_nbase (w : Warp) (i n : Nat) : (w.bump i n).nbase = w.nbase := rfl
@[simp] theorem Warp.bump_nlim (w : Warp) (i n : Nat) : (w.bump i n).nlim = w.nlim := rfl
@[simp] theorem Warp.bump_gang (w : Warp) (i n : Nat) : (w.bump i n).gang = w.gang := rfl
@[simp] theorem Warp.bump_splits (w : Warp) (i n : Nat) : (w.bump i n).splits = w.splits := rfl
@[simp] theorem Warp.bump_run (w : Warp) (i n : Nat) : (w.bump i n).run = w.run := rfl
@[simp] theorem Warp.bump_turn (w : Warp) (i n : Nat) : (w.bump i n).turn = w.turn := rfl
@[simp] theorem Warp.bump_passed (w : Warp) (i n : Nat) : (w.bump i n).passed = w.passed := rfl
@[simp] theorem Warp.bump_nest (w : Warp) (i n : Nat) : (w.bump i n).nest = w.nest := rfl
@[simp] theorem Warp.bump_recs (w : Warp) (i n : Nat) : (w.bump i n).recs = w.recs := rfl
@[simp] theorem Warp.bump_regions (w : Warp) (i n : Nat) : (w.bump i n).regions = w.regions := rfl
@[simp] theorem Warp.bump_gates (w : Warp) (i n : Nat) : (w.bump i n).gates = w.gates := rfl
@[simp] theorem Warp.bump_txs (w : Warp) (i n : Nat) : (w.bump i n).txs = w.txs := rfl
@[simp] theorem Warp.bump_interval (w : Warp) (i n : Nat) : (w.bump i n).interval = w.interval := rfl
@[simp] theorem Warp.bump_staged (w : Warp) (i n : Nat) : (w.bump i n).staged = w.staged := rfl
@[simp] theorem Warp.bump_stopped (w : Warp) (i n : Nat) : (w.bump i n).stopped = w.stopped := rfl
@[simp] theorem Warp.bump_held (w : Warp) (i n : Nat) : (w.bump i n).held = w.held := rfl
@[simp] theorem Warp.bump_pos (w : Warp) (i n : Nat) : (w.bump i n).pos = w.pos := rfl
@[simp] theorem Warp.bump_store (w : Warp) (i n : Nat) : (w.bump i n).store = w.store := rfl
@[simp] theorem Warp.bump_age (w : Warp) (i n : Nat) : (w.bump i n).age = w.age := rfl
@[simp] theorem Warp.bump_rows (w : Warp) (i n : Nat) : (w.bump i n).rows = w.rows := rfl
@[simp] theorem Warp.bump_up (w : Warp) (i n : Nat) : (w.bump i n).up = w.up := rfl
@[simp] theorem Warp.bump_owed (w : Warp) (i n : Nat) : (w.bump i n).owed = w.owed := rfl

/-! ### A counter of accesses raised -/

@[simp] theorem U.addAcc_id (w : Warp) (u : U) (id path : Nat) : (u.addAcc w id path).id = w.id := rfl
@[simp] theorem U.addAcc_task (w : Warp) (u : U) (id path : Nat) : (u.addAcc w id path).task = w.task := rfl
@[simp] theorem U.addAcc_role (w : Warp) (u : U) (id path : Nat) : (u.addAcc w id path).role = w.role := rfl
@[simp] theorem U.addAcc_first (w : Warp) (u : U) (id path : Nat) : (u.addAcc w id path).first = w.first := rfl
@[simp] theorem U.addAcc_width (w : Warp) (u : U) (id path : Nat) : (u.addAcc w id path).width = w.width := rfl
@[simp] theorem U.addAcc_nregs (w : Warp) (u : U) (id path : Nat) : (u.addAcc w id path).nregs = w.nregs := rfl
@[simp] theorem U.addAcc_slot (w : Warp) (u : U) (id path : Nat) : (u.addAcc w id path).slot = w.slot := rfl
@[simp] theorem U.addAcc_legacy (w : Warp) (u : U) (id path : Nat) : (u.addAcc w id path).legacy = w.legacy := rfl
@[simp] theorem U.addAcc_v (w : Warp) (u : U) (id path : Nat) : (u.addAcc w id path).v = w.v := rfl
@[simp] theorem U.addAcc_p (w : Warp) (u : U) (id path : Nat) : (u.addAcc w id path).p = w.p := rfl
@[simp] theorem U.addAcc_s (w : Warp) (u : U) (id path : Nat) : (u.addAcc w id path).s = w.s := rfl
@[simp] theorem U.addAcc_live (w : Warp) (u : U) (id path : Nat) : (u.addAcc w id path).live = w.live := rfl
@[simp] theorem U.addAcc_nbase (w : Warp) (u : U) (id path : Nat) : (u.addAcc w id path).nbase = w.nbase := rfl
@[simp] theorem U.addAcc_nlim (w : Warp) (u : U) (id path : Nat) : (u.addAcc w id path).nlim = w.nlim := rfl
@[simp] theorem U.addAcc_gang (w : Warp) (u : U) (id path : Nat) : (u.addAcc w id path).gang = w.gang := rfl
@[simp] theorem U.addAcc_run (w : Warp) (u : U) (id path : Nat) : (u.addAcc w id path).run = w.run := rfl
@[simp] theorem U.addAcc_turn (w : Warp) (u : U) (id path : Nat) : (u.addAcc w id path).turn = w.turn := rfl
@[simp] theorem U.addAcc_passed (w : Warp) (u : U) (id path : Nat) : (u.addAcc w id path).passed = w.passed := rfl
@[simp] theorem U.addAcc_nest (w : Warp) (u : U) (id path : Nat) : (u.addAcc w id path).nest = w.nest := rfl
@[simp] theorem U.addAcc_recs (w : Warp) (u : U) (id path : Nat) : (u.addAcc w id path).recs = w.recs := rfl
@[simp] theorem U.addAcc_regions (w : Warp) (u : U) (id path : Nat) : (u.addAcc w id path).regions = w.regions := rfl
@[simp] theorem U.addAcc_gates (w : Warp) (u : U) (id path : Nat) : (u.addAcc w id path).gates = w.gates := rfl
@[simp] theorem U.addAcc_txs (w : Warp) (u : U) (id path : Nat) : (u.addAcc w id path).txs = w.txs := rfl
@[simp] theorem U.addAcc_interval (w : Warp) (u : U) (id path : Nat) : (u.addAcc w id path).interval = w.interval := rfl
@[simp] theorem U.addAcc_staged (w : Warp) (u : U) (id path : Nat) : (u.addAcc w id path).staged = w.staged := rfl
@[simp] theorem U.addAcc_perf (w : Warp) (u : U) (id path : Nat) : (u.addAcc w id path).perf = w.perf := rfl
@[simp] theorem U.addAcc_stopped (w : Warp) (u : U) (id path : Nat) : (u.addAcc w id path).stopped = w.stopped := rfl
@[simp] theorem U.addAcc_held (w : Warp) (u : U) (id path : Nat) : (u.addAcc w id path).held = w.held := rfl
@[simp] theorem U.addAcc_pos (w : Warp) (u : U) (id path : Nat) : (u.addAcc w id path).pos = w.pos := rfl
@[simp] theorem U.addAcc_store (w : Warp) (u : U) (id path : Nat) : (u.addAcc w id path).store = w.store := rfl
@[simp] theorem U.addAcc_age (w : Warp) (u : U) (id path : Nat) : (u.addAcc w id path).age = w.age := rfl
@[simp] theorem U.addAcc_rows (w : Warp) (u : U) (id path : Nat) : (u.addAcc w id path).rows = w.rows := rfl
@[simp] theorem U.addAcc_up (w : Warp) (u : U) (id path : Nat) : (u.addAcc w id path).up = w.up := rfl
@[simp] theorem U.addAcc_owed (w : Warp) (u : U) (id path : Nat) : (u.addAcc w id path).owed = w.owed := rfl

/-! ### A transaction written back -/

@[simp] theorem Warp.setTx_id (w : Warp) (x : Tx) : (w.setTx x).id = w.id := rfl
@[simp] theorem Warp.setTx_task (w : Warp) (x : Tx) : (w.setTx x).task = w.task := rfl
@[simp] theorem Warp.setTx_role (w : Warp) (x : Tx) : (w.setTx x).role = w.role := rfl
@[simp] theorem Warp.setTx_first (w : Warp) (x : Tx) : (w.setTx x).first = w.first := rfl
@[simp] theorem Warp.setTx_width (w : Warp) (x : Tx) : (w.setTx x).width = w.width := rfl
@[simp] theorem Warp.setTx_nregs (w : Warp) (x : Tx) : (w.setTx x).nregs = w.nregs := rfl
@[simp] theorem Warp.setTx_slot (w : Warp) (x : Tx) : (w.setTx x).slot = w.slot := rfl
@[simp] theorem Warp.setTx_legacy (w : Warp) (x : Tx) : (w.setTx x).legacy = w.legacy := rfl
@[simp] theorem Warp.setTx_v (w : Warp) (x : Tx) : (w.setTx x).v = w.v := rfl
@[simp] theorem Warp.setTx_p (w : Warp) (x : Tx) : (w.setTx x).p = w.p := rfl
@[simp] theorem Warp.setTx_s (w : Warp) (x : Tx) : (w.setTx x).s = w.s := rfl
@[simp] theorem Warp.setTx_live (w : Warp) (x : Tx) : (w.setTx x).live = w.live := rfl
@[simp] theorem Warp.setTx_nbase (w : Warp) (x : Tx) : (w.setTx x).nbase = w.nbase := rfl
@[simp] theorem Warp.setTx_nlim (w : Warp) (x : Tx) : (w.setTx x).nlim = w.nlim := rfl
@[simp] theorem Warp.setTx_gang (w : Warp) (x : Tx) : (w.setTx x).gang = w.gang := rfl
@[simp] theorem Warp.setTx_splits (w : Warp) (x : Tx) : (w.setTx x).splits = w.splits := rfl
@[simp] theorem Warp.setTx_run (w : Warp) (x : Tx) : (w.setTx x).run = w.run := rfl
@[simp] theorem Warp.setTx_turn (w : Warp) (x : Tx) : (w.setTx x).turn = w.turn := rfl
@[simp] theorem Warp.setTx_passed (w : Warp) (x : Tx) : (w.setTx x).passed = w.passed := rfl
@[simp] theorem Warp.setTx_nest (w : Warp) (x : Tx) : (w.setTx x).nest = w.nest := rfl
@[simp] theorem Warp.setTx_recs (w : Warp) (x : Tx) : (w.setTx x).recs = w.recs := rfl
@[simp] theorem Warp.setTx_regions (w : Warp) (x : Tx) : (w.setTx x).regions = w.regions := rfl
@[simp] theorem Warp.setTx_gates (w : Warp) (x : Tx) : (w.setTx x).gates = w.gates := rfl
@[simp] theorem Warp.setTx_interval (w : Warp) (x : Tx) : (w.setTx x).interval = w.interval := rfl
@[simp] theorem Warp.setTx_staged (w : Warp) (x : Tx) : (w.setTx x).staged = w.staged := rfl
@[simp] theorem Warp.setTx_perf (w : Warp) (x : Tx) : (w.setTx x).perf = w.perf := rfl
@[simp] theorem Warp.setTx_stopped (w : Warp) (x : Tx) : (w.setTx x).stopped = w.stopped := rfl
@[simp] theorem Warp.setTx_held (w : Warp) (x : Tx) : (w.setTx x).held = w.held := rfl
@[simp] theorem Warp.setTx_pos (w : Warp) (x : Tx) : (w.setTx x).pos = w.pos := rfl
@[simp] theorem Warp.setTx_store (w : Warp) (x : Tx) : (w.setTx x).store = w.store := rfl
@[simp] theorem Warp.setTx_age (w : Warp) (x : Tx) : (w.setTx x).age = w.age := rfl
@[simp] theorem Warp.setTx_rows (w : Warp) (x : Tx) : (w.setTx x).rows = w.rows := rfl
@[simp] theorem Warp.setTx_up (w : Warp) (x : Tx) : (w.setTx x).up = w.up := rfl
@[simp] theorem Warp.setTx_owed (w : Warp) (x : Tx) : (w.setTx x).owed = w.owed := rfl

/-! ### A transaction doomed -/

@[simp] theorem Warp.doomTx_id (w : Warp) (l : Nat) (c : W64) : (w.doomTx l c).id = w.id := rfl
@[simp] theorem Warp.doomTx_task (w : Warp) (l : Nat) (c : W64) : (w.doomTx l c).task = w.task := rfl
@[simp] theorem Warp.doomTx_role (w : Warp) (l : Nat) (c : W64) : (w.doomTx l c).role = w.role := rfl
@[simp] theorem Warp.doomTx_first (w : Warp) (l : Nat) (c : W64) : (w.doomTx l c).first = w.first := rfl
@[simp] theorem Warp.doomTx_width (w : Warp) (l : Nat) (c : W64) : (w.doomTx l c).width = w.width := rfl
@[simp] theorem Warp.doomTx_nregs (w : Warp) (l : Nat) (c : W64) : (w.doomTx l c).nregs = w.nregs := rfl
@[simp] theorem Warp.doomTx_slot (w : Warp) (l : Nat) (c : W64) : (w.doomTx l c).slot = w.slot := rfl
@[simp] theorem Warp.doomTx_legacy (w : Warp) (l : Nat) (c : W64) : (w.doomTx l c).legacy = w.legacy := rfl
@[simp] theorem Warp.doomTx_v (w : Warp) (l : Nat) (c : W64) : (w.doomTx l c).v = w.v := rfl
@[simp] theorem Warp.doomTx_p (w : Warp) (l : Nat) (c : W64) : (w.doomTx l c).p = w.p := rfl
@[simp] theorem Warp.doomTx_s (w : Warp) (l : Nat) (c : W64) : (w.doomTx l c).s = w.s := rfl
@[simp] theorem Warp.doomTx_live (w : Warp) (l : Nat) (c : W64) : (w.doomTx l c).live = w.live := rfl
@[simp] theorem Warp.doomTx_nbase (w : Warp) (l : Nat) (c : W64) : (w.doomTx l c).nbase = w.nbase := rfl
@[simp] theorem Warp.doomTx_nlim (w : Warp) (l : Nat) (c : W64) : (w.doomTx l c).nlim = w.nlim := rfl
@[simp] theorem Warp.doomTx_gang (w : Warp) (l : Nat) (c : W64) : (w.doomTx l c).gang = w.gang := rfl
@[simp] theorem Warp.doomTx_splits (w : Warp) (l : Nat) (c : W64) : (w.doomTx l c).splits = w.splits := rfl
@[simp] theorem Warp.doomTx_run (w : Warp) (l : Nat) (c : W64) : (w.doomTx l c).run = w.run := rfl
@[simp] theorem Warp.doomTx_turn (w : Warp) (l : Nat) (c : W64) : (w.doomTx l c).turn = w.turn := rfl
@[simp] theorem Warp.doomTx_passed (w : Warp) (l : Nat) (c : W64) : (w.doomTx l c).passed = w.passed := rfl
@[simp] theorem Warp.doomTx_nest (w : Warp) (l : Nat) (c : W64) : (w.doomTx l c).nest = w.nest := rfl
@[simp] theorem Warp.doomTx_recs (w : Warp) (l : Nat) (c : W64) : (w.doomTx l c).recs = w.recs := rfl
@[simp] theorem Warp.doomTx_regions (w : Warp) (l : Nat) (c : W64) : (w.doomTx l c).regions = w.regions := rfl
@[simp] theorem Warp.doomTx_gates (w : Warp) (l : Nat) (c : W64) : (w.doomTx l c).gates = w.gates := rfl
@[simp] theorem Warp.doomTx_interval (w : Warp) (l : Nat) (c : W64) : (w.doomTx l c).interval = w.interval := rfl
@[simp] theorem Warp.doomTx_staged (w : Warp) (l : Nat) (c : W64) : (w.doomTx l c).staged = w.staged := rfl
@[simp] theorem Warp.doomTx_perf (w : Warp) (l : Nat) (c : W64) : (w.doomTx l c).perf = w.perf := rfl
@[simp] theorem Warp.doomTx_stopped (w : Warp) (l : Nat) (c : W64) : (w.doomTx l c).stopped = w.stopped := rfl
@[simp] theorem Warp.doomTx_held (w : Warp) (l : Nat) (c : W64) : (w.doomTx l c).held = w.held := rfl
@[simp] theorem Warp.doomTx_pos (w : Warp) (l : Nat) (c : W64) : (w.doomTx l c).pos = w.pos := rfl
@[simp] theorem Warp.doomTx_store (w : Warp) (l : Nat) (c : W64) : (w.doomTx l c).store = w.store := rfl
@[simp] theorem Warp.doomTx_age (w : Warp) (l : Nat) (c : W64) : (w.doomTx l c).age = w.age := rfl
@[simp] theorem Warp.doomTx_rows (w : Warp) (l : Nat) (c : W64) : (w.doomTx l c).rows = w.rows := rfl
@[simp] theorem Warp.doomTx_up (w : Warp) (l : Nat) (c : W64) : (w.doomTx l c).up = w.up := rfl
@[simp] theorem Warp.doomTx_owed (w : Warp) (l : Nat) (c : W64) : (w.doomTx l c).owed = w.owed := rfl

/-! ### An engine context written -/

@[simp] theorem Task.setEng_id (t : Task) (k : Nat) (e : EngCtx) : (t.setEng k e).id = t.id := rfl
@[simp] theorem Task.setEng_serial (t : Task) (k : Nat) (e : EngCtx) : (t.setEng k e).serial = t.serial := rfl
@[simp] theorem Task.setEng_launch (t : Task) (k : Nat) (e : EngCtx) : (t.setEng k e).launch = t.launch := rfl
@[simp] theorem Task.setEng_ctx (t : Task) (k : Nat) (e : EngCtx) : (t.setEng k e).ctx = t.ctx := rfl
@[simp] theorem Task.setEng_core (t : Task) (k : Nat) (e : EngCtx) : (t.setEng k e).core = t.core := rfl
@[simp] theorem Task.setEng_block (t : Task) (k : Nat) (e : EngCtx) : (t.setEng k e).block = t.block := rfl
@[simp] theorem Task.setEng_kind (t : Task) (k : Nat) (e : EngCtx) : (t.setEng k e).kind = t.kind := rfl
@[simp] theorem Task.setEng_rank (t : Task) (k : Nat) (e : EngCtx) : (t.setEng k e).rank = t.rank := rfl
@[simp] theorem Task.setEng_cohort (t : Task) (k : Nat) (e : EngCtx) : (t.setEng k e).cohort = t.cohort := rfl
@[simp] theorem Task.setEng_depth (t : Task) (k : Nat) (e : EngCtx) : (t.setEng k e).depth = t.depth := rfl
@[simp] theorem Task.setEng_htab (t : Task) (k : Nat) (e : EngCtx) : (t.setEng k e).htab = t.htab := rfl
@[simp] theorem Task.setEng_scratchSize (t : Task) (k : Nat) (e : EngCtx) : (t.setEng k e).scratchSize = t.scratchSize := rfl
@[simp] theorem Task.setEng_scratch (t : Task) (k : Nat) (e : EngCtx) : (t.setEng k e).scratch = t.scratch := rfl
@[simp] theorem Task.setEng_smarks (t : Task) (k : Nat) (e : EngCtx) : (t.setEng k e).smarks = t.smarks := rfl
@[simp] theorem Task.setEng_bregs (t : Task) (k : Nat) (e : EngCtx) : (t.setEng k e).bregs = t.bregs := rfl
@[simp] theorem Task.setEng_breg (t : Task) (k : Nat) (e : EngCtx) : (t.setEng k e).breg = t.breg := rfl
@[simp] theorem Task.setEng_bpast (t : Task) (k : Nat) (e : EngCtx) : (t.setEng k e).bpast = t.bpast := rfl
@[simp] theorem Task.setEng_owners (t : Task) (k : Nat) (e : EngCtx) : (t.setEng k e).owners = t.owners := rfl
@[simp] theorem Task.setEng_slots (t : Task) (k : Nat) (e : EngCtx) : (t.setEng k e).slots = t.slots := rfl
@[simp] theorem Task.setEng_tl (t : Task) (k : Nat) (e : EngCtx) : (t.setEng k e).tl = t.tl := rfl
@[simp] theorem Task.setEng_bars (t : Task) (k : Nat) (e : EngCtx) : (t.setEng k e).bars = t.bars := rfl
@[simp] theorem Task.setEng_spec (t : Task) (k : Nat) (e : EngCtx) : (t.setEng k e).spec = t.spec := rfl
@[simp] theorem Task.setEng_specId (t : Task) (k : Nat) (e : EngCtx) : (t.setEng k e).specId = t.specId := rfl
@[simp] theorem Task.setEng_specStores (t : Task) (k : Nat) (e : EngCtx) : (t.setEng k e).specStores = t.specStores := rfl
@[simp] theorem Task.setEng_specPages (t : Task) (k : Nat) (e : EngCtx) : (t.setEng k e).specPages = t.specPages := rfl
@[simp] theorem Task.setEng_nsets (t : Task) (k : Nat) (e : EngCtx) : (t.setEng k e).nsets = t.nsets := rfl
@[simp] theorem Task.setEng_colls (t : Task) (k : Nat) (e : EngCtx) : (t.setEng k e).colls = t.colls := rfl
@[simp] theorem Task.setEng_dcolls (t : Task) (k : Nat) (e : EngCtx) : (t.setEng k e).dcolls = t.dcolls := rfl
@[simp] theorem Task.setEng_pri (t : Task) (k : Nat) (e : EngCtx) : (t.setEng k e).pri = t.pri := rfl
@[simp] theorem Task.setEng_age (t : Task) (k : Nat) (e : EngCtx) : (t.setEng k e).age = t.age := rfl
@[simp] theorem Task.setEng_ended (t : Task) (k : Nat) (e : EngCtx) : (t.setEng k e).ended = t.ended := rfl

/-! ### An accumulator slot written -/

@[simp] theorem Task.setSlot_id (t : Task) (x : AccSlot) : (t.setSlot x).id = t.id := rfl
@[simp] theorem Task.setSlot_serial (t : Task) (x : AccSlot) : (t.setSlot x).serial = t.serial := rfl
@[simp] theorem Task.setSlot_launch (t : Task) (x : AccSlot) : (t.setSlot x).launch = t.launch := rfl
@[simp] theorem Task.setSlot_ctx (t : Task) (x : AccSlot) : (t.setSlot x).ctx = t.ctx := rfl
@[simp] theorem Task.setSlot_core (t : Task) (x : AccSlot) : (t.setSlot x).core = t.core := rfl
@[simp] theorem Task.setSlot_block (t : Task) (x : AccSlot) : (t.setSlot x).block = t.block := rfl
@[simp] theorem Task.setSlot_kind (t : Task) (x : AccSlot) : (t.setSlot x).kind = t.kind := rfl
@[simp] theorem Task.setSlot_rank (t : Task) (x : AccSlot) : (t.setSlot x).rank = t.rank := rfl
@[simp] theorem Task.setSlot_cohort (t : Task) (x : AccSlot) : (t.setSlot x).cohort = t.cohort := rfl
@[simp] theorem Task.setSlot_depth (t : Task) (x : AccSlot) : (t.setSlot x).depth = t.depth := rfl
@[simp] theorem Task.setSlot_htab (t : Task) (x : AccSlot) : (t.setSlot x).htab = t.htab := rfl
@[simp] theorem Task.setSlot_scratchSize (t : Task) (x : AccSlot) : (t.setSlot x).scratchSize = t.scratchSize := rfl
@[simp] theorem Task.setSlot_scratch (t : Task) (x : AccSlot) : (t.setSlot x).scratch = t.scratch := rfl
@[simp] theorem Task.setSlot_smarks (t : Task) (x : AccSlot) : (t.setSlot x).smarks = t.smarks := rfl
@[simp] theorem Task.setSlot_bregs (t : Task) (x : AccSlot) : (t.setSlot x).bregs = t.bregs := rfl
@[simp] theorem Task.setSlot_breg (t : Task) (x : AccSlot) : (t.setSlot x).breg = t.breg := rfl
@[simp] theorem Task.setSlot_bpast (t : Task) (x : AccSlot) : (t.setSlot x).bpast = t.bpast := rfl
@[simp] theorem Task.setSlot_owners (t : Task) (x : AccSlot) : (t.setSlot x).owners = t.owners := rfl
@[simp] theorem Task.setSlot_tl (t : Task) (x : AccSlot) : (t.setSlot x).tl = t.tl := rfl
@[simp] theorem Task.setSlot_eng (t : Task) (x : AccSlot) : (t.setSlot x).eng = t.eng := rfl
@[simp] theorem Task.setSlot_bars (t : Task) (x : AccSlot) : (t.setSlot x).bars = t.bars := rfl
@[simp] theorem Task.setSlot_spec (t : Task) (x : AccSlot) : (t.setSlot x).spec = t.spec := rfl
@[simp] theorem Task.setSlot_specId (t : Task) (x : AccSlot) : (t.setSlot x).specId = t.specId := rfl
@[simp] theorem Task.setSlot_specStores (t : Task) (x : AccSlot) : (t.setSlot x).specStores = t.specStores := rfl
@[simp] theorem Task.setSlot_specPages (t : Task) (x : AccSlot) : (t.setSlot x).specPages = t.specPages := rfl
@[simp] theorem Task.setSlot_nsets (t : Task) (x : AccSlot) : (t.setSlot x).nsets = t.nsets := rfl
@[simp] theorem Task.setSlot_colls (t : Task) (x : AccSlot) : (t.setSlot x).colls = t.colls := rfl
@[simp] theorem Task.setSlot_dcolls (t : Task) (x : AccSlot) : (t.setSlot x).dcolls = t.dcolls := rfl
@[simp] theorem Task.setSlot_pri (t : Task) (x : AccSlot) : (t.setSlot x).pri = t.pri := rfl
@[simp] theorem Task.setSlot_age (t : Task) (x : AccSlot) : (t.setSlot x).age = t.age := rfl
@[simp] theorem Task.setSlot_ended (t : Task) (x : AccSlot) : (t.setSlot x).ended = t.ended := rfl

end Sys2Proof.Machine
end

