-- ==== Sys2Proof/Laws/Ops.lean ====
section
/-!
SUPPORT. What each shared operation comes to: lane instructions, instructions that act once, the unit in execution, traps.
-/
namespace Sys2Proof.Machine

/-! ### The unit in execution -/

theorem State.onUnit_of_unit {s : State} {u : U} (h : s.unit? = some u) (f : U → State) : s.onUnit f = .next (f u) := by
  simp [State.onUnit, h]

theorem State.onUnit_none {s : State} (h : s.unit? = none) (f : U → State) : s.onUnit f = .fault .noExecutingSplit := by
  simp [State.onUnit, h]

/-- A meaning over the executing unit answers a next state or stops for want of a unit; it never refuses. -/
theorem State.onUnit_cases (s : State) (f : U → State) :
    (∃ u, s.unit? = some u ∧ s.onUnit f = .next (f u)) ∨ (s.unit? = none ∧ s.onUnit f = .fault .noExecutingSplit) := by
  cases h : s.unit? with
  | none => exact .inr ⟨rfl, State.onUnit_none h f⟩
  | some u => exact .inl ⟨u, rfl, State.onUnit_of_unit h f⟩

theorem State.onUnit_next {s t : State} {f : U → State} (h : s.onUnit f = .next t) : ∃ u, s.unit? = some u ∧ t = f u := by
  rcases State.onUnit_cases s f with ⟨u, hu, hf⟩ | ⟨_, hf⟩
  · exact ⟨u, hu, by rw [hf] at h; cases h; rfl⟩
  · rw [hf] at h; cases h

/-- What the executing unit is made of. -/
theorem State.unit?_eq {s : State} {u : U} (h : s.unit? = some u) :
    s.cur = some u.c ∧ s.warp? u.c.warp = some u.w ∧ u.w.split? u.c.split = some u.sp ∧ s.task? u.w.task = some u.t ∧
      u.sp.paths.head? = some u.pa := by
  unfold State.unit? at h
  split at h
  · cases h
  · split at h
    · cases h
    · split at h
      · split at h
        · cases h
        · rename_i hp
          cases h
          exact ⟨by assumption, by assumption, by assumption, by assumption, by simp [hp]⟩
      · cases h

theorem State.unit?_warp_id {s : State} {u : U} (h : s.unit? = some u) : u.w.id = u.c.warp := by
  have h2 := (State.unit?_eq h).2.1
  simpa using List.find?_some h2

/-- An unguarded instruction acts in every active lane (R37). -/
@[simp] theorem U.acting_always (u : U) : u.acting .always = u.active := by
  simp [U.acting, Warp.guardAt, Warp.getP, Guard.always]

/-! ### Lane outcomes -/

theorem filterMap_none {α β : Type} (ls : List α) : ls.filterMap (fun _ => (none : Option β)) = [] := by
  induction ls <;> simp_all

theorem doneLanes_map_ok {α : Type} (ls : List Nat) (g : Nat → α) :
    doneLanes (ls.map fun l => (l, (.ok (g l) : LaneRes α))) = ls.map fun l => (l, g l) := by
  simp [doneLanes, List.filterMap_map, Function.comp_def]

theorem worstFault_map_ok {α : Type} (ls : List Nat) (g : Nat → α) :
    worstFault (ls.map fun l => (l, (.ok (g l) : LaneRes α))) = none := by
  simp [worstFault, List.filterMap_map, Function.comp_def, filterMap_none]

theorem firstStage2_map_ok {α : Type} (ls : List Nat) (g : Nat → α) :
    firstStage2 (ls.map fun l => (l, (.ok (g l) : LaneRes α))) = none := by
  simp [firstStage2, List.filterMap_map, Function.comp_def, filterMap_none]

theorem trapLanes_map_ok {α : Type} (ls : List Nat) (g : Nat → α) :
    trapLanes (ls.map fun l => (l, (.ok (g l) : LaneRes α))) = [] := by
  simp [trapLanes, List.filterMap_map, Function.comp_def, filterMap_none]

/-- Lanes that all complete: the unit is done with their effects. -/
theorem State.settle_ok {α : Type} (s : State) (u : U) (i : OpInfo) (hint : Nat) (ls : List Nat) (g : Nat → α)
    (k : List (Nat × α) → State × Warp) :
    s.settle u i hint (ls.map fun l => (l, .ok (g l))) k =
      u.done (k (ls.map fun l => (l, g l))).1 (k (ls.map fun l => (l, g l))).2 := by
  simp only [State.settle, worstFault_map_ok, firstStage2_map_ok, trapLanes_map_ok, doneLanes_map_ok]

/-- Everything the outcome of an instruction can be. -/
theorem State.settle_cases {α : Type} (s : State) (u : U) (i : OpInfo) (hint : Nat) (outs : List (Nat × LaneRes α))
    (k : List (Nat × α) → State × Warp) :
    (∃ x, worstFault outs = some x ∧ s.settle u i hint outs k = s.raise u x) ∨
    (∃ g kd va m, worstFault outs = none ∧ firstStage2 outs = some (g, kd, va, m) ∧
      s.settle u i hint outs k = s.stage2Wait u g kd va m) ∨
    (worstFault outs = none ∧ firstStage2 outs = none ∧ trapLanes outs = [] ∧
      s.settle u i hint outs k = u.done (k (doneLanes outs)).1 (k (doneLanes outs)).2) ∨
    (worstFault outs = none ∧ firstStage2 outs = none ∧ trapLanes outs ≠ [] ∧
      s.settle u i hint outs k = s.laneTraps u u k (doneLanes outs) i hint none (trapLanes outs)) := by
  unfold State.settle
  cases h1 : worstFault outs with
  | some x => exact .inl ⟨x, rfl, rfl⟩
  | none =>
    cases h2 : firstStage2 outs with
    | some x => exact .inr (.inl ⟨x.1, x.2.1, x.2.2.1, x.2.2.2, rfl, rfl, rfl⟩)
    | none =>
      cases h3 : trapLanes outs with
      | nil => exact .inr (.inr (.inl ⟨rfl, rfl, rfl, rfl⟩))
      | cons a b => exact .inr (.inr (.inr ⟨rfl, rfl, by simp, rfl⟩))

/-- A lane instruction whose names reach, whose sources hold no POISON and whose acting lanes all complete. -/
theorem State.lanes_ok {s : State} {u : U} {named srcs : List Reg} {acting : List Nat} {f : Nat → LaneOut}
    {ws : Nat → List LaneWrite} (i : OpInfo)
    (hn : ∀ r ∈ named, (regIndex u.w.nregs r).isSome = true)
    (hp : ∀ l ∈ acting, ∀ r ∈ srcs, (u.w.getV l r).tag ≠ .poison)
    (hf : ∀ l ∈ acting, f l = .ok (ws l)) :
    s.lanes u i named srcs acting f = u.done s (acting.foldl (fun w l => w.writes l (ws l)) u.w) := by
  have h1 : (named.any fun r => (regIndex u.w.nregs r).isNone) = false := by
    simp only [List.any_eq_false]
    intro r hr
    have := hn r hr
    cases h : regIndex u.w.nregs r <;> simp_all
  have h2 : ∀ l ∈ acting, u.w.poisonIn l srcs = none := by
    intro l hl
    simp only [Warp.poisonIn, List.find?_eq_none]
    intro r hr
    simpa using hp l hl r hr
  simp only [State.lanes, h1, State.combine, Bool.false_eq_true, if_false]
  rw [List.map_congr_left (g := fun l => (l, (.ok (ws l) : LaneOut)))]
  · rw [State.settle_ok]
    simp [List.foldl_map]
  · intro l hl
    simp [h2 l hl, hf l hl]

/-- A name that the role does not reach raises ILLEGAL at issue (R106). -/
theorem State.lanes_unreached {s : State} {u : U} {named srcs : List Reg} {acting : List Nat} {f : Nat → LaneOut} (i : OpInfo)
    {r : Reg} (hr : r ∈ named) (h : regIndex u.w.nregs r = none) : s.lanes u i named srcs acting f = s.illegal u := by
  have : (named.any fun r => (regIndex u.w.nregs r).isNone) = true := by
    simp only [List.any_eq_true]
    exact ⟨r, hr, by simp [h]⟩
  simp [State.lanes, this]

/-! ### Instructions that act once -/

/-- Names that all reach. -/
theorem State.named_ok {s : State} {u : U} {rs : List Reg} {k : State}
    (h : ∀ r ∈ rs, (regIndex u.w.nregs r).isSome = true) : s.named u rs k = k := by
  have h1 : (rs.any fun r => (regIndex u.w.nregs r).isNone) = false := by
    simp only [List.any_eq_false]
    intro r hr
    have := h r hr
    cases h : regIndex u.w.nregs r <;> simp_all
  simp [State.named, h1]

/-- Without a lane whose guard is true the instruction does nothing. -/
theorem State.once_skip {s : State} {u : U} {g : Guard} {srcs : List Reg} {f : State} (h : u.acting g = []) :
    s.once u g srcs f = u.skip s := by
  simp [State.once, h]

/-- With one, and no POISON among its scalar sources, it acts. -/
theorem State.once_ok {s : State} {u : U} {g : Guard} {srcs : List Reg} {f : State} (h : u.acting g ≠ [])
    (hp : ∀ r ∈ srcs, (u.w.getS r).tag ≠ .poison) : s.once u g srcs f = f := by
  have : u.w.poisonS srcs = none := by
    simp only [Warp.poisonS, List.find?_eq_none]
    intro r hr
    simpa using hp r hr
  simp [State.once, h, this]

/-- A POISON scalar source raises POISON_READ in the whole unit (R344). -/
theorem State.once_poison {s : State} {u : U} {g : Guard} {srcs : List Reg} {f : State} {r : Reg} (h : u.acting g ≠ [])
    (hp : u.w.poisonS srcs = some r) : s.once u g srcs f = s.raise u (mkTrap codePoisonRead 0 u.pa.mask (r.setWidth 64)) := by
  simp [State.once, h, hp]

/-! ### Traps -/

/-- Outside a transaction a thread trap is delivered (R345); a packet that the crossbar has refused is counted first (R306). -/
theorem State.raise_plain {s : State} {u : U} {x : Trap} (h : u.w.txs = []) :
    s.raise u x = (if x.code = codeMemFault ∧ x.kind = 4 then s.isolatedIn (s.ctx u.t.ctx).part else s).deliver u x := by
  simp [State.raise, Warp.tx?, h]

/-- The warps a unit leaves: its own changed, every other as it was. -/
theorem State.mem_setWarp_of_ne {s : State} {w x : Warp} (hx : x ∈ s.warps) (h : x.id ≠ w.id) : x ∈ (s.setWarp w).warps := by
  simp only [State.setWarp, List.mem_map]
  exact ⟨x, hx, by simp [h]⟩

theorem State.find_setWarp {s : State} {w : Warp} (h : s.warp? w.id ≠ none) : (s.setWarp w).warp? w.id = some w := by
  unfold State.warp? at h
  unfold State.warp? State.setWarp
  simp only
  generalize s.warps = ws at h
  induction ws with
  | nil => simp at h
  | cons x xs ih =>
    by_cases hx : x.id = w.id
    · simp [hx]
    · have hb : (x.id == w.id) = false := by simpa using hx
      rw [List.find?_cons_of_neg (by simp [hx])] at h
      rw [List.map_cons, List.find?_cons_of_neg (by simp [hx])]
      exact ih h

end Sys2Proof.Machine
end

