-- ==== Sys2Proof/Laws/PerInstr.lean ====
section
/-!
SUPPORT. Per instruction: how many words the encoder gives it, and that the length selector of the first word says so (R32).
-/
namespace Sys2Proof.Laws.Words

/-- An event has no words; an instruction has one word of selector 0 or two of which the first has selector 1 (R32). -/
def Statement (i : Instr) : Prop :=
  encode i = [] ∨ (∃ w, encode i = [w] ∧ w.extractLsb' 0 2 = 0) ∨ (∃ w x, encode i = [w, x] ∧ w.extractLsb' 0 2 = 1)

theorem short_selector (op : BitVec 6) (d a b : Byte) : (shortWord op d a b).extractLsb' 0 2 = 0 := by
  unfold shortWord; exact BitVec.extractLsb'_append_eq_right ..

theorem long_selector (op : Byte) (g : Guard) (sub : BitVec 2) (d a : Byte) : (longWord op g sub d a).extractLsb' 0 2 = 1 := by
  unfold longWord; exact BitVec.extractLsb'_append_eq_right ..

theorem one {i : Instr} {op : BitVec 6} {d a b : Byte} (h : encode i = [shortWord op d a b]) : Statement i :=
  .inr (.inl ⟨_, h, short_selector op d a b⟩)

theorem two {i : Instr} {op : Byte} {g : Guard} {sub : BitVec 2} {d a : Byte} {x : W32} (h : encode i = [longWord op g sub d a, x]) :
    Statement i := .inr (.inr ⟨_, _, h, long_selector op g sub d a⟩)

theorem event {i : Instr} (h : encode i = []) : Statement i := .inl h

theorem nop : Statement (.nop) := one rfl
theorem mov (d a : Reg) : Statement (.mov d a) := one rfl
theorem add (d a b : Reg) : Statement (.add d a b) := one rfl
theorem sub (d a b : Reg) : Statement (.sub d a b) := one rfl
theorem mul (d a b : Reg) : Statement (.mul d a b) := one rfl
theorem min (d a b : Reg) : Statement (.min d a b) := one rfl
theorem max (d a b : Reg) : Statement (.max d a b) := one rfl
theorem neg (d a : Reg) : Statement (.neg d a) := one rfl
theorem iadd (d a b : Reg) : Statement (.iadd d a b) := one rfl
theorem isub (d a b : Reg) : Statement (.isub d a b) := one rfl
theorem and (d a b : Reg) : Statement (.and d a b) := one rfl
theorem or (d a b : Reg) : Statement (.or d a b) := one rfl
theorem xor (d a b : Reg) : Statement (.xor d a b) := one rfl
theorem shl (d a b : Reg) : Statement (.shl d a b) := one rfl
theorem shr (d a b : Reg) : Statement (.shr d a b) := one rfl
theorem sar (d a b : Reg) : Statement (.sar d a b) := one rfl
theorem movi (d : Reg) (imm : BitVec 16) : Statement (.movi d imm) := one rfl
theorem addi (d a : Reg) (imm : Byte) : Statement (.addi d a imm) := one rfl
theorem tagof (d a : Reg) : Statement (.tagof d a) := one rfl
theorem laneid (d : Reg) : Statement (.laneid d) := one rfl
theorem join : Statement (.join) := one rfl
theorem yield : Statement (.yield) := one rfl
theorem exit : Statement (.exit) := one rfl
theorem bar (n : Byte) : Statement (.bar n) := one rfl
theorem serb : Statement (.serb) := one rfl
theorem sere : Statement (.sere) := one rfl
theorem ret (a : Reg) : Statement (.ret a) := one rfl
theorem retl (a : Reg) : Statement (.retl a) := one rfl
theorem txend : Statement (.txend) := one rfl
theorem shflx (d a : Reg) (m : Byte) : Statement (.shflx d a m) := one rfl
theorem not (d a : Reg) : Statement (.not d a) := one rfl
theorem abs (d a : Reg) : Statement (.abs d a) := one rfl
theorem iadd32 (d a b : Reg) : Statement (.iadd32 d a b) := one rfl
theorem isub32 (d a b : Reg) : Statement (.isub32 d a b) := one rfl
theorem imul32 (d a b : Reg) : Statement (.imul32 d a b) := one rfl
theorem movt (d a : Reg) : Statement (.movt d a) := one rfl
theorem syncw : Statement (.syncw) := one rfl
theorem ballot32 (d a : Reg) : Statement (.ballot32 d a) := one rfl
theorem shfl32 (d a b : Reg) : Statement (.shfl32 d a b) := one rfl
theorem tageq (d a b : Reg) : Statement (.tageq d a b) := one rfl
theorem movk (g : Guard) (k : MovkK) (d : Reg) (imm : W32) : Statement (.movk g k d imm) := two rfl
theorem movh (g : Guard) (k : MovhK) (d : Reg) (imm : W32) : Statement (.movh g k d imm) := two rfl
theorem retag (g : Guard) (d a : Reg) (t : Tag) : Statement (.retag g d a t) := two rfl
theorem chktag (g : Guard) (a : Reg) (t : Tag) (m : Byte) : Statement (.chktag g a t m) := two rfl
theorem testtag (g : Guard) (d a : Reg) (t : Tag) (m : Byte) : Statement (.testtag g d a t m) := two rfl
theorem sel (g : Guard) (d a b c : Reg) : Statement (.sel g d a b c) := two rfl
theorem fma (g : Guard) (d a b c : Reg) : Statement (.fma g d a b c) := two rfl
theorem div (g : Guard) (d a b : Reg) : Statement (.div g d a b) := two rfl
theorem rem (g : Guard) (d a b : Reg) : Statement (.rem g d a b) := two rfl
theorem cmp (g : Guard) (cc : Cond) (d a b : Reg) : Statement (.cmp g cc d a b) := two rfl
theorem eqv (g : Guard) (d a b : Reg) : Statement (.eqv g d a b) := two rfl
theorem cvt (g : Guard) (d a : Reg) (t : Tag) : Statement (.cvt g d a t) := two rfl
theorem hashv (g : Guard) (d a : Reg) : Statement (.hashv g d a) := two rfl
theorem imul (g : Guard) (d a b : Reg) : Statement (.imul g d a b) := two rfl
theorem imulh (g : Guard) (sg : Sgn) (d a b : Reg) : Statement (.imulh g sg d a b) := two rfl
theorem imad (g : Guard) (d a b c : Reg) : Statement (.imad g d a b c) := two rfl
theorem idiv (g : Guard) (sg : Sgn) (d a b : Reg) : Statement (.idiv g sg d a b) := two rfl
theorem irem (g : Guard) (sg : Sgn) (d a b : Reg) : Statement (.irem g sg d a b) := two rfl
theorem imin (g : Guard) (sg : Sgn) (d a b : Reg) : Statement (.imin g sg d a b) := two rfl
theorem imax (g : Guard) (sg : Sgn) (d a b : Reg) : Statement (.imax g sg d a b) := two rfl
theorem icmp (g : Guard) (sg : Sgn) (cc : Cond) (d a b : Reg) : Statement (.icmp g sg cc d a b) := two rfl
theorem iaddi (g : Guard) (d a : Reg) (imm : W32) : Statement (.iaddi g d a imm) := two rfl
theorem andi (g : Guard) (d a : Reg) (imm : W32) : Statement (.andi g d a imm) := two rfl
theorem ori (g : Guard) (d a : Reg) (imm : W32) : Statement (.ori g d a imm) := two rfl
theorem xori (g : Guard) (d a : Reg) (imm : W32) : Statement (.xori g d a imm) := two rfl
theorem shi (g : Guard) (k : ShiftK) (d a : Reg) (n : Byte) : Statement (.shi g k d a n) := two rfl
theorem rot (g : Guard) (k : Side) (d a b : Reg) : Statement (.rot g k d a b) := two rfl
theorem popc (g : Guard) (d a : Reg) : Statement (.popc g d a) := two rfl
theorem clz (g : Guard) (d a : Reg) : Statement (.clz g d a) := two rfl
theorem bfx (g : Guard) (sx : Bool) (d a : Reg) (pos len : Byte) : Statement (.bfx g sx d a pos len) := two rfl
theorem bfi (g : Guard) (d a : Reg) (pos len : Byte) : Statement (.bfi g d a pos len) := two rfl
theorem lea (g : Guard) (d a b : Reg) (sh : BitVec 3) : Statement (.lea g d a b sh) := two rfl
theorem iaddc (g : Guard) (d a b c : Reg) : Statement (.iaddc g d a b c) := two rfl
theorem brev (g : Guard) (d a : Reg) : Statement (.brev g d a) := two rfl
theorem isat (g : Guard) (w : SatW) (u : Bool) (d a : Reg) : Statement (.isat g w u d a) := two rfl
theorem fadd (g : Guard) (f : FFmt) (d a b : Reg) : Statement (.fadd g f d a b) := two rfl
theorem fsub (g : Guard) (f : FFmt) (d a b : Reg) : Statement (.fsub g f d a b) := two rfl
theorem fmul (g : Guard) (f : FFmt) (d a b : Reg) : Statement (.fmul g f d a b) := two rfl
theorem ffma (g : Guard) (f : FFmt) (d a b c : Reg) : Statement (.ffma g f d a b c) := two rfl
theorem fdiv (g : Guard) (f : FFmt) (d a b : Reg) : Statement (.fdiv g f d a b) := two rfl
theorem fsqrt (g : Guard) (f : FFmt) (d a : Reg) : Statement (.fsqrt g f d a) := two rfl
theorem frcp (g : Guard) (f : FFmt) (d a : Reg) : Statement (.frcp g f d a) := two rfl
theorem frsq (g : Guard) (f : FFmt) (d a : Reg) : Statement (.frsq g f d a) := two rfl
theorem fmin (g : Guard) (f : FFmt) (d a b : Reg) : Statement (.fmin g f d a b) := two rfl
theorem fmax (g : Guard) (f : FFmt) (d a b : Reg) : Statement (.fmax g f d a b) := two rfl
theorem fcmp (g : Guard) (f : FFmt) (cc : Cond) (d a b : Reg) : Statement (.fcmp g f cc d a b) := two rfl
theorem fclass (g : Guard) (f : FFmt) (d a : Reg) : Statement (.fclass g f d a) := two rfl
theorem fexp2 (g : Guard) (f : FFmt) (d a : Reg) : Statement (.fexp2 g f d a) := two rfl
theorem flog2 (g : Guard) (f : FFmt) (d a : Reg) : Statement (.flog2 g f d a) := two rfl
theorem fsin (g : Guard) (f : FFmt) (d a : Reg) : Statement (.fsin g f d a) := two rfl
theorem fcos (g : Guard) (f : FFmt) (d a : Reg) : Statement (.fcos g f d a) := two rfl
theorem fcvt (g : Guard) (f : FFmt) (src : SrcFmt) (d a : Reg) : Statement (.fcvt g f src d a) := two rfl
theorem i2f (g : Guard) (f : FFmt) (u : Bool) (d a : Reg) : Statement (.i2f g f u d a) := two rfl
theorem f2i (g : Guard) (f : FFmt) (u : Bool) (d a : Reg) : Statement (.f2i g f u d a) := two rfl
theorem frnd (g : Guard) (f : FFmt) (m : RMode) (d a : Reg) : Statement (.frnd g f m d a) := two rfl
theorem padd (g : Guard) (k : PkFmt) (d a b : Reg) : Statement (.padd g k d a b) := two rfl
theorem pmul (g : Guard) (k : PkFmt) (d a b : Reg) : Statement (.pmul g k d a b) := two rfl
theorem pfma (g : Guard) (k : PkFmt) (d a b c : Reg) : Statement (.pfma g k d a b c) := two rfl
theorem pdot (g : Guard) (bf : Bool) (d a b c : Reg) : Statement (.pdot g bf d a b c) := two rfl
theorem pmax (g : Guard) (k : PkFmt) (d a b : Reg) : Statement (.pmax g k d a b) := two rfl
theorem pcvt (g : Guard) (src dst : PcFmt) (d a : Reg) : Statement (.pcvt g src dst d a) := two rfl
theorem qpack (g : Guard) (k : GxFmt) (d a : Reg) : Statement (.qpack g k d a) := two rfl
theorem qunpk (g : Guard) (k : GxFmt) (d a : Reg) : Statement (.qunpk g k d a) := two rfl
theorem shfl (g : Guard) (k : ShflK) (imm : Bool) (d a b : Reg) : Statement (.shfl g k imm d a b) := two rfl
theorem vote (g : Guard) (k : VoteK) (d a : Reg) : Statement (.vote g k d a) := two rfl
theorem rdx (g : Guard) (op : RedOp) (d a : Reg) : Statement (.rdx g op d a) := two rfl
theorem scan (g : Guard) (op : RedOp) (excl : Bool) (d a : Reg) : Statement (.scan g op excl d a) := two rfl
theorem segrdx (g : Guard) (op : RedOp) (d a c : Reg) : Statement (.segrdx g op d a c) := two rfl
theorem matchv (g : Guard) (d a : Reg) : Statement (.matchv g d a) := two rfl
theorem bcast (g : Guard) (d a : Reg) (lane : Byte) : Statement (.bcast g d a lane) := two rfl
theorem smov (g : Guard) (d a : Reg) : Statement (.smov g d a) := two rfl
theorem smovFromLane (g : Guard) (d a : Reg) (lane : Byte) : Statement (.smovFromLane g d a lane) := two rfl
theorem smovToLanes (g : Guard) (d a : Reg) : Statement (.smovToLanes g d a) := two rfl
theorem salu (g : Guard) (op : SaluOp) (d a b : Reg) : Statement (.salu g op d a b) := two rfl
theorem scmp (g : Guard) (sg : Sgn) (cc : Cond) (d a b : Reg) : Statement (.scmp g sg cc d a b) := two rfl
theorem brd (g : Guard) (toV : Bool) (d a : Reg) : Statement (.brd g toV d a) := two rfl
theorem bwr (g : Guard) (d a : Reg) : Statement (.bwr g d a) := two rfl
theorem lanesel (g : Guard) (d a : Reg) : Statement (.lanesel g d a) := two rfl
theorem ld (g : Guard) (ty : MemTy) (d : Reg) (base : MBase) (imm : BitVec 24) : Statement (.ld g ty d base imm) := two rfl
theorem st (g : Guard) (ty : MemTy) (d : Reg) (base : MBase) (imm : BitVec 24) : Statement (.st g ty d base imm) := two rfl
theorem ldinv (g : Guard) (ty : MemTy) (d : Reg) (base : MBase) (imm : BitVec 24) : Statement (.ldinv g ty d base imm) := two rfl
theorem lds (g : Guard) (ty : MemTy) (d : Reg) (base : MBase) (imm : BitVec 24) : Statement (.lds g ty d base imm) := two rfl
theorem sts (g : Guard) (ty : MemTy) (d : Reg) (base : MBase) (imm : BitVec 24) : Statement (.sts g ty d base imm) := two rfl
theorem ldref (g : Guard) (d : Reg) (base : MBase) (imm : BitVec 24) : Statement (.ldref g d base imm) := two rfl
theorem ldf (g : Guard) (d a : Reg) (idx : BitVec 24) : Statement (.ldf g d a idx) := two rfl
theorem stf (g : Guard) (d a : Reg) (idx : BitVec 24) : Statement (.stf g d a idx) := two rfl
theorem hdrld (g : Guard) (d a : Reg) : Statement (.hdrld g d a) := two rfl
theorem nalloc (g : Guard) (d a b : Reg) : Statement (.nalloc g d a b) := two rfl
theorem nset (g : Guard) (a b : Reg) : Statement (.nset g a b) := two rfl
theorem atom (g : Guard) (op : AtomOp) (sz : ASize) (a b : Reg) (imm : BitVec 24) : Statement (.atom g op sz a b imm) := two rfl
theorem cas (g : Guard) (sz : ASize) (d a b : Reg) (imm : BitVec 24) : Statement (.cas g sz d a b imm) := two rfl
theorem fence (g : Guard) (pred succ : BitVec 4) (scope : BitVec 3) : Statement (.fence g pred succ scope) := two rfl
theorem waitc (g : Guard) (ld st cp tile : Byte) : Statement (.waitc g ld st cp tile) := two rfl
theorem waitp (g : Guard) (a : Reg) (path : Byte) : Statement (.waitp g a path) := two rfl
theorem pref (g : Guard) (l2 : Bool) (base : MBase) (imm : BitVec 24) : Statement (.pref g l2 base imm) := two rfl
theorem cctl (g : Guard) (op : CctlOp) (base : MBase) (imm : BitVec 24) : Statement (.cctl g op base imm) := two rfl
theorem txbegin (g : Guard) (d : Reg) (off : W32) : Statement (.txbegin g d off) := two rfl
theorem txabort (g : Guard) (code : Byte) : Statement (.txabort g code) := two rfl
theorem txstat (g : Guard) (d : Reg) : Statement (.txstat g d) := two rfl
theorem ldx (g : Guard) (ty : MemTy) (d a b : Reg) (sh : BitVec 3) : Statement (.ldx g ty d a b sh) := two rfl
theorem acpy (g : Guard) (dir : CopyDir) (d a b c : Reg) : Statement (.acpy g dir d a b c) := two rfl
theorem amcast (g : Guard) (d a b c : Reg) : Statement (.amcast g d a b c) := two rfl
theorem agath (g : Guard) (esz : BitVec 2) (d a b c : Reg) : Statement (.agath g esz d a b c) := two rfl
theorem ascat (g : Guard) (esz : BitVec 2) (d a b c : Reg) : Statement (.ascat g esz d a b c) := two rfl
theorem hcpy (g : Guard) (dir : HDir) (d a b c : Reg) : Statement (.hcpy g dir d a b c) := two rfl
theorem acoll (g : Guard) (dom : Bool) (op : CollOp) (ty : CollTy) (d a b c : Reg) : Statement (.acoll g dom op ty d a b c) := two rfl
theorem tlbind (g : Guard) (d a : Reg) : Statement (.tlbind g d a) := two rfl
theorem tlwait (g : Guard) (d a : Reg) : Statement (.tlwait g d a) := two rfl
theorem tlread (g : Guard) (d a : Reg) : Statement (.tlread g d a) := two rfl
theorem tlsig (g : Guard) (d a : Reg) : Statement (.tlsig g d a) := two rfl
theorem acancel (g : Guard) (d a : Reg) : Statement (.acancel g d a) := two rfl
theorem sxpd (g : Guard) (f : TFmt) (d a b c : Reg) : Statement (.sxpd g f d a b c) := two rfl
theorem spack (g : Guard) (f : TFmt) (d a b c : Reg) : Statement (.spack g f d a b c) := two rfl
theorem tdesc (g : Guard) (k : Kind) (rot : BitVec 4) (d a b : Reg) : Statement (.tdesc g k rot d a b) := two rfl
theorem talloc (g : Guard) (d : Reg) : Statement (.talloc g d) := two rfl
theorem tfree (g : Guard) (a : Reg) : Statement (.tfree g a) := two rfl
theorem mmaz (g : Guard) (ad bd : Bool) (d a b : Reg) : Statement (.mmaz g ad bd d a b) := two rfl
theorem mma (g : Guard) (ad bd : Bool) (d a b : Reg) : Statement (.mma g ad bd d a b) := two rfl
theorem mmag (g : Guard) (ad bd : Bool) (d a b : Reg) : Statement (.mmag g ad bd d a b) := two rfl
theorem gangset (g : Guard) (a : Reg) : Statement (.gangset g a) := two rfl
theorem drain (g : Guard) (f : TFmt) (mem : Bool) (d a : Reg) : Statement (.drain g f mem d a) := two rfl
theorem drainT (g : Guard) (f : TFmt) (mem : Bool) (d a b : Reg) : Statement (.drainT g f mem d a b) := two rfl
theorem drainAdd (g : Guard) (f : TFmt) (mem : Bool) (d a : Reg) : Statement (.drainAdd g f mem d a) := two rfl
theorem accld (g : Guard) (d a : Reg) : Statement (.accld g d a) := two rfl
theorem accrd (g : Guard) (d a : Reg) (blk : Byte) : Statement (.accrd g d a blk) := two rfl
theorem bra (g : Guard) (off : W32) : Statement (.bra g off) := two rfl
theorem brx (g : Guard) (a : Reg) : Statement (.brx g a) := two rfl
theorem call (g : Guard) (d : Reg) (off : W32) : Statement (.call g d off) := two rfl
theorem callx (g : Guard) (d a : Reg) : Statement (.callx g d a) := two rfl
theorem interval (g : Guard) (d : Reg) (m : W32) : Statement (.interval g d m) := two rfl
theorem splitw (g : Guard) (w : Width) (d : Reg) : Statement (.splitw g w d) := two rfl
theorem fusew (g : Guard) (w : Width) (d : Reg) : Statement (.fusew g w d) := two rfl
theorem width (g : Guard) (d : Reg) : Statement (.width g d) := two rfl
theorem legacyEnter (g : Guard) : Statement (.legacyEnter g) := two rfl
theorem legacyLeave (g : Guard) : Statement (.legacyLeave g) := two rfl
theorem barc (g : Guard) (n : Byte) (a : Reg) : Statement (.barc g n a) := two rfl
theorem spawn (g : Guard) (uni : Bool) (d a b : Reg) : Statement (.spawn g uni d a b) := two rfl
theorem launchp (g : Guard) (d a b c : Reg) : Statement (.launchp g d a b c) := two rfl
theorem shape (g : Guard) (a b : Reg) : Statement (.shape g a b) := two rfl
theorem specq (g : Guard) (d : Reg) : Statement (.specq g d) := two rfl
theorem trap (g : Guard) (code : W32) : Statement (.trap g code) := two rfl
theorem bru (g : Guard) (off : W32) : Statement (.bru g off) := two rfl
theorem sysrd (g : Guard) (d : Reg) (num : BitVec 12) : Statement (.sysrd g d num) := two rfl
theorem syswr (g : Guard) (a : Reg) (num : BitVec 12) : Statement (.syswr g a num) := two rfl
theorem time (g : Guard) (d : Reg) : Statement (.time g d) := two rfl
theorem clock (g : Guard) (d : Reg) : Statement (.clock g d) := two rfl
theorem icinv (g : Guard) (a : Reg) : Statement (.icinv g a) := two rfl
theorem icinvAll (g : Guard) : Statement (.icinvAll g) := two rfl
theorem vqpush (g : Guard) (a b : Reg) : Statement (.vqpush g a b) := two rfl
theorem rett (g : Guard) : Statement (.rett g) := two rfl
theorem hcall (g : Guard) (n : W32) : Statement (.hcall g n) := two rfl
theorem perf (g : Guard) (d : Reg) (n : Byte) : Statement (.perf g d n) := two rfl
theorem fmad (g : Guard) (d a b c : Reg) : Statement (.fmad g d a b c) := two rfl
theorem mma16 (g : Guard) (d a b : Reg) : Statement (.mma16 g d a b) := two rfl
theorem mma32 (g : Guard) (d a b : Reg) : Statement (.mma32 g d a b) := two rfl
theorem xpand (g : Guard) (d a : Reg) : Statement (.xpand g d a) := two rfl
theorem allocw (g : Guard) (d a b : Reg) : Statement (.allocw g d a b) := two rfl
theorem ldbar (g : Guard) (d : Reg) (base : MBase) (imm : BitVec 24) : Statement (.ldbar g d base imm) := two rfl
theorem gcmark (g : Guard) (a : Reg) : Statement (.gcmark g a) := two rfl
theorem fenceg (g : Guard) : Statement (.fenceg g) := two rfl
theorem fences (g : Guard) : Statement (.fences g) := two rfl
theorem spawn1 (g : Guard) (d a b : Reg) : Statement (.spawn1 g d a b) := two rfl
theorem waitall (g : Guard) : Statement (.waitall g) := two rfl
theorem cvtq8 (g : Guard) (d a : Reg) : Statement (.cvtq8 g d a) := two rfl
theorem sqrt64 (g : Guard) (d a : Reg) : Statement (.sqrt64 g d a) := two rfl
theorem ldg32 (g : Guard) (d : Reg) (base : MBase) (imm : BitVec 24) : Statement (.ldg32 g d base imm) := two rfl
theorem stg32 (g : Guard) (d : Reg) (base : MBase) (imm : BitVec 24) : Statement (.stg32 g d base imm) := two rfl
theorem bcastw (g : Guard) (d a : Reg) : Statement (.bcastw g d a) := two rfl
theorem fusewTimeout (w : Nat) : Statement (.fusewTimeout w) := event rfl
theorem taskPlace (p : Nat) : Statement (.taskPlace p) := event rfl
theorem taskEnd (t : Nat) : Statement (.taskEnd t) := event rfl
theorem loadComplete (id : Nat) (marked : Bool) : Statement (.loadComplete id marked) := event rfl
theorem storePerformed (id : Nat) : Statement (.storePerformed id) := event rfl
theorem atomicComplete (id : Nat) : Statement (.atomicComplete id) := event rfl
theorem engineCommandStart (t e : Nat) : Statement (.engineCommandStart t e) := event rfl
theorem engineCommandComplete (t e n : Nat) : Statement (.engineCommandComplete t e n) := event rfl
theorem tileOpAccept (id : Nat) : Statement (.tileOpAccept id) := event rfl
theorem tileOpComplete (id : Nat) : Statement (.tileOpComplete id) := event rfl
theorem trowelUpdate (id : Nat) : Statement (.trowelUpdate id) := event rfl
theorem launchResolutionComplete (l : Nat) : Statement (.launchResolutionComplete l) := event rfl
theorem launchComplete (l : Nat) : Statement (.launchComplete l) := event rfl
theorem queueEntryAccept (vf n : Nat) : Statement (.queueEntryAccept vf n) := event rfl
theorem queueMap (vf n : Nat) : Statement (.queueMap vf n) := event rfl
theorem packetSend (o : Nat) : Statement (.packetSend o) := event rfl
theorem hbmRequestServe (m : Nat) : Statement (.hbmRequestServe m) := event rfl
theorem castlingSweepComplete (p : Nat) : Statement (.castlingSweepComplete p) := event rfl
theorem castlingCgraceExpiry (p : Nat) : Statement (.castlingCgraceExpiry p) := event rfl
theorem castlingScrub (p : Nat) : Statement (.castlingScrub p) := event rfl
theorem castlingCommit (p : Nat) : Statement (.castlingCommit p) := event rfl
theorem saveAreaProbe (vf : Nat) : Statement (.saveAreaProbe vf) := event rfl
theorem sliceExpiry (vf : Nat) : Statement (.sliceExpiry vf) := event rfl
theorem graceExpiry (vf : Nat) : Statement (.graceExpiry vf) := event rfl
theorem killExpiry (vf : Nat) : Statement (.killExpiry vf) := event rfl
theorem saveComplete (vf : Nat) : Statement (.saveComplete vf) := event rfl
theorem restoreComplete (vf : Nat) : Statement (.restoreComplete vf) := event rfl
theorem s2InvalidateComplete (vf : Nat) : Statement (.s2InvalidateComplete vf) := event rfl
theorem eventRingPost : Statement (.eventRingPost) := event rfl
theorem blockWake (b : Nat) : Statement (.blockWake b) := event rfl
theorem encodingNotInstruction : Statement (.encodingNotInstruction) := event rfl
theorem unitFetchFault (addr : W64) (kind : Nat) : Statement (.unitFetchFault addr kind) := event rfl
theorem workingSetStaged (w : Nat) : Statement (.workingSetStaged w) := event rfl
theorem splitTurnExpiry (w : Nat) : Statement (.splitTurnExpiry w) := event rfl
theorem warpDue (w : Nat) : Statement (.warpDue w) := event rfl
theorem engineCommandFail (t e n : Nat) (addr : W64) : Statement (.engineCommandFail t e n addr) := event rfl
theorem doorbell (vf n : Nat) : Statement (.doorbell vf n) := event rfl
theorem s1inv (vf : Nat) : Statement (.s1inv vf) := event rfl
theorem packetAdmit (pkt : Packet) : Statement (.packetAdmit pkt) := event rfl
theorem rateRecovery : Statement (.rateRecovery) := event rfl
theorem allotWrite (p : Nat) (v : BitVec 16) : Statement (.allotWrite p v) := event rfl
theorem castlingGo (p : Nat) : Statement (.castlingGo p) := event rfl
theorem vfEnable (vf : Nat) : Statement (.vfEnable vf) := event rfl
theorem cmdStopSave (vf : Nat) : Statement (.cmdStopSave vf) := event rfl
theorem cmdRestore (vf : Nat) : Statement (.cmdRestore vf) := event rfl
theorem cmdKill (vf : Nat) : Statement (.cmdKill vf) := event rfl
theorem cmdContinue (vf : Nat) : Statement (.cmdContinue vf) := event rfl
theorem s2Invalidate (vf : Nat) : Statement (.s2Invalidate vf) := event rfl
theorem hvActionRetry (vf ref : Nat) : Statement (.hvActionRetry vf ref) := event rfl
theorem hvActionConvert (vf ref : Nat) : Statement (.hvActionConvert vf ref) := event rfl
theorem hvActionHcall (vf ref : Nat) : Statement (.hvActionHcall vf ref) := event rfl
theorem hostWindowAccess (off len : Nat) (wr : Option (List Byte)) : Statement (.hostWindowAccess off len wr) := event rfl
theorem fabricMemoryAccess (dom gpa len : Nat) (op : FabricOp) : Statement (.fabricMemoryAccess dom gpa len op) := event rfl
theorem fabricLaunchPacket (dom : Nat) (desc : W64) (pkg blocks : Nat) : Statement (.fabricLaunchPacket dom desc pkg blocks) := event rfl
theorem vfFlr (vf : Nat) : Statement (.vfFlr vf) := event rfl
theorem deviceReset : Statement (.deviceReset) := event rfl
theorem firmwareImageLoad (img : List Byte) : Statement (.firmwareImageLoad img) := event rfl
theorem attestDeviceReport : Statement (.attestDeviceReport) := event rfl
theorem attestVfReport (vf : Nat) : Statement (.attestVfReport vf) := event rfl
theorem uncorrectableError (loc : ErrLoc) : Statement (.uncorrectableError loc) := event rfl
theorem correctedError : Statement (.correctedError) := event rfl
theorem patrolScrub : Statement (.patrolScrub) := event rfl
theorem frequencyChange (b f : Nat) : Statement (.frequencyChange b f) := event rfl
theorem swienekTranslate (vf : Nat) (img : List Byte) : Statement (.swienekTranslate vf img) := event rfl
theorem registerWrite (bar : Option Nat) (off : Nat) (v : W64) (pl : Nat) : Statement (.registerWrite bar off v pl) := event rfl
theorem cleanLineRefetch (core line : Nat) : Statement (.cleanLineRefetch core line) := event rfl
theorem blockGating (b : Nat) : Statement (.blockGating b) := event rfl
theorem fabricCollectiveTraffic (msg : CollMsg) : Statement (.fabricCollectiveTraffic msg) := event rfl

end Sys2Proof.Laws.Words
end

