-- ==== Sys2Proof/Machine/SwienekRun.lean ====
section
/-!
DEFINITION. What a Swienek function does (spec 02, R75): each operation has the meaning of its native instruction, applied to the lanes
of the threads that execute it, and threads that diverged at a branch merge at its convergence marker. The step does not use these
definitions: the device executes translated code (R78); they say what a translation preserves (R76).
-/
namespace Sys2Proof.Machine

/-- The values that a thread has defined. -/
abbrev SwEnv := List (Nat × SwVal)

/-- A value of a thread as a word; one it has not defined is NIL. -/
def envWord (e : SwEnv) (x : Nat) : Word :=
  match e.find? fun y => y.1 == x with
  | some (_, .word w) => w
  | some (_, .bool _) | none => .nil

/-- A value of a thread as a predicate. -/
def envPred (e : SwEnv) (x : Nat) : Bool :=
  match e.find? fun y => y.1 == x with
  | some (_, .bool b) => b
  | some (_, .word _) | none => false

/-- A thread: the lane it runs in, where it stands, its values, and the branches at which it has diverged (R75). -/
structure SwThread where
  lane : Nat
  blk : Nat
  at_ : Nat
  env : SwEnv
  diverged : List Nat
  deriving DecidableEq, Repr

/-- The values that an operation uses, put where its instruction reads them in the lane of a thread. -/
def SwOp.load (o : SwOp) (w : Warp) (t : SwThread) : Warp :=
  let w := o.uses.foldl (fun w x => w.setV t.lane x.1 (envWord t.env x.2)) w
  o.preds.foldl (fun w x => w.setP t.lane x.1 (envPred t.env x.2)) w

/-- The lanes of some threads. -/
def threadMask (ts : List SwThread) : LaneMask := ts.foldl (fun m t => m ||| laneBit t.lane) 0

/-- An operation executed by some threads that stand in lanes from `base` on of a warp of a width: its instruction, in their lanes, with
its modifiers and its hint (R75). -/
def SwOp.run (o : SwOp) (options width base : Nat) (ts : List SwThread) (s : State) : Host.Outcome State Fault Refusal :=
  match s.unit? with
  | none => .fault .noExecutingSplit
  | some u =>
    let ts := ts.map fun t => { t with lane := t.lane - base }
    let w := (ts.foldl o.load { u.w with width := width }).setHead u.c.split { u.pa with mask := threadMask ts }
    exec o.instr { (s.setWarp w) with cur := some { u.c with
      arith := (o.modifiers options).map fun p => (p.rm, p.sat, p.ftz, p.notrap)
      place := o.place.map fun p => (p.scope.toNat, p.pol.toNat) } }

/-- What an operation has defined for a thread, once its results stand in a warp. -/
def SwOp.results (o : SwOp) (w : Warp) (t : SwThread) : SwEnv :=
  o.defs.map (fun d => (d.2.1, .word (w.getV t.lane d.1))) ++ o.pdefs.map fun d => (d.2, .bool (w.getP t.lane d.1))

/-- Whether what an operation has defined is of the types it names (R75). -/
def SwOp.typed (o : SwOp) (w : Warp) (t : SwThread) : Bool := o.defs.all fun d => d.2.2.admits (.word (w.getV t.lane d.1))

/-- A thread behind an operation. -/
def SwThread.behind (t : SwThread) (o : SwOp) (w : Warp) : SwThread := { t with at_ := t.at_ + 1, env := o.results w t ++ t.env }

/-- A thread at the start of another block, whose parameters take the values handed over. -/
def SwThread.enter (t : SwThread) (f : SwFn) (b : Nat) (args : List Nat) : SwThread :=
  let ps := ((f.blocks[b]?).map fun x => x.params).getD []
  let val := fun (x : Nat) => ((t.env.find? fun y => y.1 == x).map fun y => y.2).getD (.word .nil)
  { t with blk := b, at_ := 0, env := (ps.zip args).map (fun p => (p.1.1, val p.2)) ++ t.env }

/-- A thread that has come to the end of its block; none when it ends. -/
def SwThread.leave (t : SwThread) (f : SwFn) : Option SwThread :=
  (f.blocks[t.blk]?).bind fun (x : SwBlock) => match x.ending with
    | .jump b xs => some (t.enter f b xs)
    | .branch p y ys n ns =>
      let t : SwThread := { t with diverged := t.blk :: t.diverged }
      some (if envPred t.env p then t.enter f y ys else t.enter f n ns)
    | .exit => none

/-- Whether two threads merge where they stand (R75, R76): at the start of a block whose convergence marker names a branch at which
both diverged, and nowhere else. -/
def SwFn.merges (f : SwFn) (a b : SwThread) : Bool :=
  a.blk == b.blk && a.at_ == 0 && b.at_ == 0 &&
  (match (f.blocks[a.blk]?).bind fun x => x.marker with
    | some m => a.diverged.contains m && b.diverged.contains m
    | none => false)

/-! ### A function run (R75) -/

/-- The parts in which some threads execute an operation: those of the lanes of one group of the width that a cross-lane operation names,
else all together. -/
def SwOp.parts (o : SwOp) (width : Nat) (ts : List SwThread) : List (Nat × Nat × List SwThread) :=
  match o.width with
  | none => [(width, 0, ts)]
  | some n => (distinct (ts.map fun t => t.lane / n)).map fun g => (n, g * n, ts.filter fun t => t.lane / n == g)

/-- An operation executed by some threads that stand before it: the machine behind it, and the threads with what it has defined, each
value of its type; none where its instruction does not come to a next state, or gives a value of another type. -/
def SwOp.step (o : SwOp) (options width : Nat) (ts : List SwThread) (s : State) : Option (State × List SwThread) :=
  (o.parts width ts).foldl (fun r p => r.bind fun x =>
    match o.run options p.1 p.2.1 p.2.2 x.1 with
    | .next s' =>
      match s'.unit? with
      | none => none
      | some u =>
        let at_ := fun (t : SwThread) => { t with lane := t.lane - p.2.1 }
        if p.2.2.all fun t => o.typed u.w (at_ t) then
          some (s', x.2 ++ p.2.2.map fun t => { t.behind o u.w with env := o.results u.w (at_ t) ++ t.env })
        else none
    | .fault _ | .refused _ => none) (some (s, []))

/-- Threads added to the groups that run together: to the group with which they merge, else as a group of their own. -/
def SwFn.regroup (f : SwFn) (gs : List (List SwThread)) (ts : List SwThread) : List (List SwThread) :=
  match ts.head? with
  | none => gs
  | some t =>
    if gs.any fun g => g.any fun x => f.merges x t then gs.map fun g => if g.any fun x => f.merges x t then g ++ ts else g
    else gs ++ [ts]

/-- A group of threads goes on: it executes its next operation, or leaves its block, parting where the threads go on at different blocks and
merging where a marker says so. -/
def SwFn.advance (f : SwFn) (options width : Nat) (gs : List (List SwThread)) (i : Nat) (s : State) : Option (State × List (List SwThread)) :=
  match gs[i]? with
  | none => none
  | some g =>
    match g.head? with
    | none => none
    | some t =>
      let others := gs.eraseIdx i
      match (f.blocks[t.blk]?).bind fun b => b.ops[t.at_]? with
      | some o => (o.step options width g s).map fun r => (r.1, others ++ [r.2])
      | none =>
        let went := g.filterMap fun x => x.leave f
        some (s, (distinct (went.map fun x => x.blk)).foldl (fun gs b => f.regroup gs (went.filter fun x => x.blk == b)) others)

/-- A function run for at most n steps, `pick` choosing the group that goes on: the threads begin together at the first block. -/
def SwFn.run (f : SwFn) (options width : Nat) (pick : Nat → Nat) : Nat → List (List SwThread) → State → Option (State × List (List SwThread))
  | 0, gs, s => some (s, gs)
  | n + 1, gs, s =>
    if gs.isEmpty then some (s, [])
    else (f.advance options width gs (pick n % gs.length) s).bind fun r => f.run options width pick n r.2 r.1

end Sys2Proof.Machine
end

