-- ==== Sys2Proof/Tests/Slice0.lean ====
section
/-!
SUPPORT. Tests: terms that break each field rule, words of the spec's encodings, results of single instructions, and a witness for the
hypotheses of each obligation. The expected words and values are worked out by hand from the rules named beside them.
-/
set_option Elab.async false

namespace Sys2Proof.Tests

open Sys2Proof Sys2Proof.Machine Sys2Proof.Slice0

/-! ### Ill-formed terms -/

theorem test_wf_guard : (Instr.movk ⟨7, true⟩ .int 1 0).wf = false := by decide
theorem test_wf_guard_ok : (Instr.movk ⟨6, true⟩ .int 1 0).wf = true := by decide
theorem test_wf_scalar : (Instr.ret 64).wf = false := by decide
theorem test_wf_scalar_ok : (Instr.ret 63).wf = true := by decide
theorem test_wf_block_register : (Instr.bwr .always 64 0).wf = false := by decide
theorem test_wf_predicate_source : (Instr.sel .always 1 2 3 8).wf = false := by decide
theorem test_wf_predicate_source_ok : (Instr.sel .always 1 2 3 7).wf = true := by decide
theorem test_wf_predicate_destination : (Instr.eqv .always 7 1 2).wf = false := by decide
theorem test_wf_timeline : (Instr.tlread .always 1 16).wf = false := by decide
theorem test_wf_pair : (Instr.lanesel .always 0 3).wf = false := by decide
theorem test_wf_group : (Instr.accrd .always 17 0 0).wf = false := by decide
theorem test_wf_block_number : (Instr.accrd .always 16 0 4).wf = false := by decide
theorem test_wf_run : (Instr.qpack .always .gx9 254 0).wf = false := by decide
theorem test_wf_run_ok : (Instr.qpack .always .gx9 253 0).wf = true := by decide
theorem test_wf_field : (Instr.bfx .always false 1 2 60 5).wf = false := by decide
theorem test_wf_field_empty : (Instr.bfi .always 1 2 0 0).wf = false := by decide
theorem test_wf_interval : (Instr.interval .always 254 4).wf = false := by decide
theorem test_wf_interval_empty : (Instr.interval .always 0 0).wf = false := by decide
theorem test_wf_special_register : (Instr.sysrd .always 0 0xA).wf = false := by decide
theorem test_wf_base : (Instr.ldref .always 1 ⟨true, 64⟩ 0).wf = false := by decide
theorem test_wf_condition : (Instr.icmp .always .s .uo 0 1 2).wf = false := by decide
theorem test_wf_cvt_target : (Instr.cvt .always 1 2 .nil).wf = false := by decide
theorem test_wf_barrier : (Instr.bar 16).wf = false := by decide
theorem test_wf_lane : (Instr.bcast .always 1 2 128).wf = false := by decide
theorem test_wf_shift : (Instr.shi .always .l 1 2 64).wf = false := by decide
theorem test_wf_packed : (Instr.pcvt .always .f16x4 .f16x4 1 2).wf = false := by decide
theorem test_wf_fence_sets : (Instr.fence .always 0 15 4).wf = false := by decide
theorem test_wf_fence_scope : (Instr.fence .always 15 15 7).wf = false := by decide
theorem test_wf_path : (Instr.waitp .always 0 6).wf = false := by decide
theorem test_wf_drain_add : (Instr.drainAdd .always .e4m3 true 0 0).wf = false := by decide
theorem test_wf_split_width : (Instr.splitw .always .w128 0).wf = false := by decide
theorem test_wf_fuse_width : (Instr.fusew .always .w16 0).wf = false := by decide
theorem test_wf_counter : (Instr.perf .always 0 8).wf = false := by decide

/-! ### Words, field by field -/

/-- R38, R55: LD.z4 v1, [v2 + 16]: SUB 0b10, OP8 0x70, D 1, A 2; word 1 holds the type code 2 and the displacement. -/
theorem test_word_ld : decodeWords 0 .start [0b10_0_111_00000010_00000001_01110000_01#32, 0b000000000000000000010000_00000010#32] =
    .ok (⟨.ld .always .z4 1 ⟨false, 2⟩ 16, none, none⟩, []) := rfl
/-- R56: FENCE with PRED LD and ST (0b0011), SUCC all (0b1111), scope GRID (4). -/
theorem test_word_fence : (decodeWords 0 .start [0b00_0_111_00000000_00000000_01111101_01#32, 0b0000000000000000_00000_100_1111_0011#32]).toOption.map
    (fun x => x.1.instr) = some (.fence .always 3 15 4) := by decide +kernel
/-- R58: BRA with a displacement of −1 units: OP8 0xB0, word 1 all ones. -/
theorem test_word_bra : decodeWords 0 .start [0b00_0_111_00000000_00000000_10110000_01#32, 0xFFFFFFFF#32] =
    .ok (⟨.bra .always 0xFFFFFFFF, none, none⟩, []) := rfl
/-- R50: FADD.f64 under (!p1): OP8 0x40, SUB of F64 0b00. -/
theorem test_word_fadd : (decodeWords 0 .start [0b00_1_001_00000010_00000001_01000000_01#32, 3#32]).toOption.map (fun x => x.1.instr) =
    some (.fadd ⟨1, true⟩ .f64 1 2 3) := by decide +kernel
/-- R48: BAR 5 is short, OP6 0x17, D 5. -/
theorem test_word_bar : (decodeWords 0 .start [shortWord 0x17 5 0 0]).toOption.map (fun x => x.1.instr) = some (.bar 5) := by decide +kernel
/-- R60: bits above the fields of an L.R word must be 0. -/
theorem test_word_reserved_bits : (decodeWords 0 .start [0b00_0_111_00000010_00000001_00100000_01#32, 0x01000003#32]).toOption = none := by
  decide +kernel
/-- R63: a masked feature does not decode. -/
theorem test_word_masked : ((List.range 4).any fun k =>
    match decodeWords (BitVec.ofNat 4 (2 ^ k)) .start (encode (.launchp .always 0 1 2 3)) with | .error e => decide (e = .masked) | .ok _ => false) =
    true := by decide +kernel

/-! ### A small machine -/

/-- Lanes 0 and 1 of split 0 at a unit. -/
def path0 : Path := ⟨0x10000, 3, .run, none⟩
/-- A split at PL0. -/
def split0 : Split := ⟨0, false, [path0], 0, .fresh, 0, [], 0⟩
/-- A 64-lane warp with two live lanes. -/
def warp0 : Warp := { startWarp hostPlacing 0 0 ⟨1, 64, 256, true, 0⟩ 2 1 0 3 2 (List.range 256) with live := 3, splits := [split0] }
/-- Its task. -/
def task0 : Task := startTask hostPlacing 1 0 (List.range 16) 1
/-- The unit in execution, without prefixes. -/
def cur0 : Cur := ⟨2, 0, 0x10000, 0x10008, none, none, false⟩
/-- The machine of State.place with that unit in execution, its warp, task and the rest changed. -/
def machine (f : Warp → Warp) (g : Task → Task := id) (h : State → State := id) : State :=
  h { State.reset.place [] with warps := [f warp0], tasks := [g task0], cur := some cur0 }
/-- Its unit. -/
def unitIn (f : Warp → Warp) (g : Task → Task := id) : U :=
  let w := f warp0
  let sp := w.splits.headD split0
  ⟨w, sp, sp.paths.headD path0, g task0, cur0⟩

/-- v1 of lane l holds 5 + l, v2 holds 7, s4 holds 9. -/
def regs (w : Warp) : Warp :=
  ((((w.setV 0 1 (natWord 5)).setV 1 1 (natWord 6)).setV 0 2 (natWord 7)).setV 1 2 (natWord 7)).setS 4 (natWord 9)
/-- The machine with those registers. -/
def m0 : State := machine regs
/-- Its unit. -/
def u0 : U := unitIn regs

theorem unit_m0 : m0.unit? = some u0 := by decide +kernel

theorem reaches_of {u : U} {rs : List Reg} (h : (rs.all fun r => (regIndex u.w.nregs r).isSome) = true) : Reaches u rs := by
  simpa [Reaches] using h
theorem clean_of {u : U} {ls : List Nat} {rs : List Reg} (h : (ls.all fun l => rs.all fun r => decide ((u.w.getV l r).tag ≠ .poison)) = true) :
    Clean u ls rs := by simpa [Clean] using h
theorem cleanS_of {u : U} {rs : List Reg} (h : (rs.all fun r => decide ((u.w.getS r).tag ≠ .poison)) = true) : CleanS u rs := by
  simpa [CleanS] using h
theorem scopeOk_of {s : State} {u : U} (h : u.c.place = none) : ScopeOk s u := by simp [ScopeOk, h]
theorem all_of {α : Type} {ls : List α} {p : α → Bool} (h : ls.all p = true) : ∀ l ∈ ls, p l = true := by simpa using h

/-- What `f` writes where it writes. -/
def outs (f : LaneForm) (u : U) (l : Nat) : List LaneWrite := (f.out u l).getD []

theorem ready_of {f : LaneForm} {u : U} (h1 : (f.named.all fun r => (regIndex u.w.nregs r).isSome) = true)
    (h2 : ((u.acting f.guard).all fun l => f.srcs.all fun r => decide ((u.w.getV l r).tag ≠ .poison)) = true)
    (h3 : ((u.acting f.guard).all fun l => (f.out u l).isSome) = true) : f.Ready u (outs f u) :=
  ⟨reaches_of h1, clean_of h2, fun l hl => by
    have := all_of h3 l hl
    rw [Option.isSome_iff_exists] at this
    obtain ⟨x, hx⟩ := this
    simp [outs, hx]⟩

/-! ### Lane instructions -/

theorem wit_integer : (integerForm (.iadd 3 1 2)).any (fun f => decide (u0.acting f.guard = [0, 1])) = true ∧
    ∃ f, integerForm (.iadd 3 1 2) = some f ∧ f.Ready u0 (outs f u0) := by
  refine ⟨by decide +kernel, _, rfl, ready_of ?_ ?_ ?_⟩ <;> decide +kernel
theorem wit_move : ∃ f, moveForm (.sel .always 3 1 2 0) = some f ∧ f.Ready u0 (outs f u0) := by
  refine ⟨_, rfl, ready_of ?_ ?_ ?_⟩ <;> decide +kernel
theorem wit_generic : ∃ f, genericForm (.add 3 1 2) = some f ∧ f.Ready u0 (outs f u0) := by
  refine ⟨_, rfl, ready_of ?_ ?_ ?_⟩ <;> decide +kernel
theorem wit_float : ∃ f, floatForm (.fadd .always .f32 3 1 2) = some f ∧ f.Ready u0 (outs f u0) := by
  refine ⟨_, rfl, ready_of ?_ ?_ ?_⟩ <;> decide +kernel
theorem wit_packed : ∃ f, packedForm (.padd .always .f16x4 3 1 2) = some f ∧ f.Ready u0 (outs f u0) := by
  refine ⟨_, rfl, ready_of ?_ ?_ ?_⟩ <;> decide +kernel
theorem wit_cross : ∃ f, crossForm (.shfl .always .idx true 3 1 1) = some f ∧ f.Ready u0 (outs f u0) := by
  refine ⟨_, rfl, ready_of ?_ ?_ ?_⟩ <;> decide +kernel
theorem wit_retired_lane : ∃ f, retiredForm (.xpand .always 8 1) = some f ∧ f.Ready u0 (outs f u0) := by
  refine ⟨_, rfl, ready_of ?_ ?_ ?_⟩ <;> decide +kernel
theorem wit_retired_free : Reaches u0 (regRun 32 32 ++ (regRun 1 8 ++ regRun 2 8)) ∧ Clean u0 (u0.acting .always) (regRun 1 8 ++ regRun 2 8) :=
  ⟨reaches_of (by decide +kernel), clean_of (by decide +kernel)⟩
theorem wit_lane_frame : ∃ f, laneForm (.iadd 3 1 2) = some f ∧ f.Ready u0 (outs f u0) := by
  refine ⟨_, rfl, ready_of ?_ ?_ ?_⟩ <;> decide +kernel

/-- A register of the warp after an instruction: lane l, register r. -/
def after (r : Host.Outcome State Fault Refusal) (l : Nat) (d : Reg) : Option Word :=
  match r with
  | .next t => (t.warp? 2).map fun w => w.getV l d
  | .fault _ | .refused _ => none
/-- A scalar register after an instruction. -/
def afterS (r : Host.Outcome State Fault Refusal) (d : Reg) : Option Word :=
  match r with
  | .next t => (t.warp? 2).map fun w => w.getS d
  | .fault _ | .refused _ => none

/-- R122: 6 + 7 in lane 1. -/
theorem test_iadd : after (exec (.iadd 3 1 2) m0) 1 3 = some ⟨.int, 13⟩ := by decide +kernel
/-- R122: 5 − 7 wraps. -/
theorem test_isub : after (exec (.isub 3 1 2) m0) 0 3 = some ⟨.int, 0xFFFFFFFFFFFFFFFE⟩ := by decide +kernel
/-- R122: BFX of 7 at 1, length 2, sign-extended: bits 0b11. -/
theorem test_bfx : after (exec (.bfx .always true 3 2 1 2) m0) 0 3 = some ⟨.int, 0xFFFFFFFFFFFFFFFF⟩ := by decide +kernel
/-- R127, R128: SHFL.down by 1: lane 0 takes lane 1's word; lane 1 takes lane 2's, which does not participate. -/
theorem test_shfl : after (exec (.shfl .always .down true 3 1 1) m0) 0 3 = some ⟨.int, 6⟩ ∧
    after (exec (.shfl .always .down true 3 1 1) m0) 1 3 = some .nil := by decide +kernel
/-- R130: the sum of 5 and 6. -/
theorem test_rdx : after (exec (.rdx .always .add 3 1) m0) 0 3 = some ⟨.int, 11⟩ := by decide +kernel
/-- R117: 7 divided by 5 in F32 is 0x3FB33333. -/
theorem test_fdiv : after (exec (.fdiv .always .f32 3 1 2)
    (machine fun w => (w.setV 0 1 ⟨.f32, 0x40E00000⟩).setV 0 2 ⟨.f32, 0x40A00000⟩)) 0 3 = some ⟨.f32, 0x3FB33333⟩ := by decide +kernel
/-- R119: a short MOV copies the tag. -/
theorem test_mov : after (exec (.mov 3 1) (machine fun w => w.setV 0 1 ⟨.sym, 77⟩)) 0 3 = some ⟨.sym, 77⟩ := by decide +kernel
/-- R123: 2^3 = 8 and sin 0 = +0 in F32. -/
theorem test_fexp2 : after (exec (.fexp2 .always .f32 3 1) (machine fun w => w.setV 0 1 ⟨.f32, 0x40400000⟩)) 0 3 = some ⟨.f32, 0x41000000⟩ := by
  decide +kernel

/-! ### Instructions that act once -/

theorem once_of {form : Instr → Option OnceForm} {s : State} {u : U} {i : Instr} {f : OnceForm} (h0 : s.unit? = some u) (hw : i.wf = true)
    (h1 : form i = some f) (h2 : (!(u.acting f.guard).isEmpty) = true) (h3 : (f.named.all fun r => (regIndex u.w.nregs r).isSome) = true)
    (h4 : (f.srcs.all fun r => decide ((u.w.getS r).tag ≠ .poison)) = true) (h5 : (f.out s u).isSome = true) :
    ∃ t, s.unit? = some u ∧ i.wf = true ∧ form i = some f ∧ u.acting f.guard ≠ [] ∧ Reaches u f.named ∧ CleanS u f.srcs ∧ f.out s u = some t := by
  obtain ⟨t, ht⟩ := Option.isSome_iff_exists.1 h5
  exact ⟨t, h0, hw, h1, by intro h; simp [h] at h2, reaches_of h3, cleanS_of h4, ht⟩

/-- What a witness for a statement over `OnceForm` shows. -/
def OnceWitness (form : Instr → Option OnceForm) (s : State) (u : U) (i : Instr) : Prop :=
  ∃ f t, s.unit? = some u ∧ i.wf = true ∧ form i = some f ∧ u.acting f.guard ≠ [] ∧ Reaches u f.named ∧ CleanS u f.srcs ∧ f.out s u = some t

theorem wit_scalar : OnceWitness scalarForm m0 u0 (.salu .always .add 8 4 4) := by
  refine ⟨_, once_of unit_m0 (by decide) rfl ?_ ?_ ?_ ?_⟩ <;> decide +kernel
theorem wit_scalar_lane : OnceWitness scalarForm m0 u0 (.smovFromLane .always 8 1 127) := by
  refine ⟨_, once_of unit_m0 (by decide) rfl ?_ ?_ ?_ ?_⟩ <;> decide +kernel
/-- A split at PL1. -/
def atPl1 (w : Warp) : Warp := { regs w with splits := [{ split0 with pl := 1 }] }
theorem wit_sysrd : OnceWitness systemForm (machine atPl1) (unitIn atPl1) (.sysrd .always 8 0x031) := by
  refine ⟨_, once_of ?_ (by decide) rfl ?_ ?_ ?_ ?_⟩ <;> decide +kernel
theorem wit_syswr : OnceWitness systemForm (machine atPl1) (unitIn atPl1) (.syswr .always 4 0x008) := by
  refine ⟨_, once_of ?_ (by decide) rfl ?_ ?_ ?_ ?_⟩ <;> decide +kernel
theorem wit_system_levels : (specialReg m0 u0 0x009).isSome = true ∧ u0.sp.pl < 1 ∧ u0.acting .always ≠ [] := by decide +kernel
theorem wit_system_read_only : (specialReg (machine atPl1) (unitIn atPl1) 0x042).isSome = true ∧ (unitIn atPl1).sp.pl = 1 := by decide +kernel
theorem wit_block_registers : OnceWitness blockRegForm m0 u0 (.bwr .always 63 4) := by
  refine ⟨_, once_of unit_m0 (by decide) rfl ?_ ?_ ?_ ?_⟩ <;> decide +kernel
theorem wit_block_read : OnceWitness blockRegForm m0 u0 (.brd .always true 9 0) := by
  refine ⟨_, once_of unit_m0 (by decide) rfl ?_ ?_ ?_ ?_⟩ <;> decide +kernel
/-- Block register 5 belongs to warp 9. -/
def taken (t : Task) : Task := { t with breg := [(5, natWord 7)], owners := [(5, 9)] }
theorem wit_single_writer : (machine regs taken).unit? = some (unitIn regs taken) ∧ (taken task0).owned 5 = true ∧ (taken task0).owns 5 2 = false ∧
    (∀ x ∈ Table.get .nil (taken task0).breg 5 :: Table.get [] (taken task0).bpast 5, x.tag ≠ .poison) ∧
    CleanS (unitIn regs taken) [4] := ⟨by decide +kernel, by decide, by decide, by decide, cleanS_of (by decide +kernel)⟩
/-- R132: the value of an owned register stays at a conflicting BWR. -/
theorem test_bwr_conflict : (match exec (.bwr .always 5 4) (machine regs taken) with
    | .next t => t.tasks.map fun x => x.breg
    | .fault _ | .refused _ => []) = [[(5, natWord 7)]] := by decide +kernel
/-- R131: SALU.add 9 + 9. -/
theorem test_salu : afterS (exec (.salu .always .add 8 4 4) m0) 8 = some ⟨.int, 18⟩ := by decide +kernel
/-- R129: the ballot of p1, true in lane 1 alone. -/
theorem test_ballot : afterS (exec (.vote .always .ballot 8 1) (machine fun w => w.setP 1 1 true)) 8 = some ⟨.bits, 2⟩ := by decide +kernel
/-- R349: %pl reads 0 at PL0. -/
theorem test_sysrd : afterS (exec (.sysrd .always 8 0) m0) 8 = some ⟨.int, 0⟩ := by decide +kernel

/-! ### Memory -/

/-- A raw page at 0x20000 beside the tagged one, and base registers: v1 holds 0x20000 + 8 l. -/
def rawPage : Trans := { hostPage with base := 0x20000, gpa := 0x20000, tagged := false }
/-- Both pages translated. -/
def pages (s : State) : State := { s with tlb := [⟨0, 1, hostPage, 0⟩, ⟨0, 2, rawPage, 0⟩] }
/-- Raw addresses in v1, data in v2. -/
def raws (w : Warp) : Warp :=
  ((((w.setV 0 1 ⟨.bits, 0x20000⟩).setV 1 1 ⟨.bits, 0x20008⟩).setV 0 2 (natWord 0x1234)).setV 1 2 (natWord 0x5678)).setS 4 ⟨.bits, 0x20000⟩
/-- The machine. -/
def mm : State := machine raws id pages
/-- Its unit. -/
def um : U := unitIn raws
theorem unit_mm : mm.unit? = some um := by decide +kernel

/-- The outcome of a lane that completes. -/
def lanesOk (f : MemForm) (s : State) (u : U) (l : Nat) : LaneMem := match f.lane s u l with | .ok m => m | .error _ => ⟨none, [], []⟩

theorem paced_of {s : State} {u : U} {ps : List Nat} (h : (ps.all fun p => decide (u.sp.count p < 4095)) && decide (s.requests u.t.core < 2048)) :
    Paced s u ps := by simpa [Paced] using h

theorem memReady_of {f : MemForm} {s : State} {u : U} {path : Nat} (h1 : u.w.txs.isEmpty = true)
    (h3 : ([path].all fun p => decide (u.sp.count p < 4095)) && decide (s.requests u.t.core < 2048)) (h4 : s.l1.isEmpty = true)
    (h5 : (!(u.acting f.guard).isEmpty) = true)
    (h6 : (f.named.all fun r => (regIndex u.w.nregs r).isSome) = true)
    (h7 : ((u.acting f.guard).all fun l => f.srcs.all fun r => decide ((u.w.getV l r).tag ≠ .poison)) = true)
    (h8 : (f.scal.all fun r => decide ((u.w.getS r).tag ≠ .poison)) = true)
    (h9 : ((u.acting f.guard).all fun l => match f.lane s u l with | .ok _ => true | .error _ => false) = true)
    (h10 : (s.overPool u.t.ctx (((u.acting f.guard).flatMap fun l => (lanesOk f s u l).touches).map fun t => t.tr)).isNone = true) :
    f.Ready s u path (lanesOk f s u) where
  plain := by simpa using h1
  room := paced_of h3
  l1 := by intro x hx; simp_all
  some_ := by intro h; simp [h] at h5
  reach := reaches_of h6
  clean := clean_of h7
  cleanS := cleanS_of h8
  pool := by simpa [PoolHolds] using h10
  lanes := fun l hl => by
    have h := all_of h9 l hl
    unfold lanesOk
    generalize f.lane s u l = r at h ⊢
    cases r with
    | ok m => rfl
    | error e => simp at h

theorem wit_loads : ∃ f, loadForm (.ld .always .z4 3 ⟨false, 1⟩ 0) = some f ∧ f.Ready mm um 0 (lanesOk f mm um) := by
  refine ⟨_, rfl, memReady_of ?_ ?_ ?_ ?_ ?_ ?_ ?_ ?_ ?_⟩ <;> decide +kernel
theorem wit_loads_scalar : ∃ f, loadForm (.ldinv .always .i1 3 ⟨true, 4⟩ 3) = some f ∧ f.Ready mm um 0 (lanesOk f mm um) := by
  refine ⟨_, rfl, memReady_of ?_ ?_ ?_ ?_ ?_ ?_ ?_ ?_ ?_⟩ <;> decide +kernel
theorem wit_stores : ∃ f, storeForm (.st .always .i8 2 ⟨false, 1⟩ 0) = some f ∧ f.Ready mm um 3 (lanesOk f mm um) := by
  refine ⟨_, rfl, memReady_of ?_ ?_ ?_ ?_ ?_ ?_ ?_ ?_ ?_⟩ <;> decide +kernel

/-- Whether a translation is found, with its key. -/
def found (s : State) (pl : Nat) (k : AccKind) (va : W64) : Option (Trans × Nat) := match s.translate 0 pl k va with | .ok x => some x | .error _ => none
/-- Each clause of LoadValues: a tagged page with a plain word, and with POISON; a raw page unmarked, and marked. -/
theorem wit_load_values : found mm 0 .read 0x10008 = some (hostPage, 0x10008) ∧ found mm 0 .read 0x20008 = some (rawPage, 0x20008) ∧
    (loadWordOf (um.laneView mm 0 0x10008) true 0x10008 .w).tag ≠ .ref ∧
    (um.laneView { mm with mem := mm.mem.setTag 0x10008 .poison } 0 0x10008).tag 0x10008 = .poison ∧
    (um.laneView { mm with mem := mm.mem.setMark 0x20008 true } 0 0x20008).marked 0x20008 = true := by decide +kernel
/-- R83, R217: a 2-byte integer of raw memory is sign-extended. -/
theorem test_load_word : loadWordOf (Mem.empty.write 0x20000 [0xFE, 0xFF]) false 0x20000 .i2 = ⟨.int, 0xFFFFFFFFFFFFFFFE⟩ := by decide +kernel

/-- The header found at an address. -/
def headerAt (s : State) (u : U) (o : W64) : Option Word := match u.readHeader s 0 o with | .ok x => some x.1 | .error _ => none
/-- Objects: a header of three words at 0x10100, a forwarding word at 0x10200 to 0x10100, POISON at 0x10300, one locked at 0x10400, a forwarding
word at 0x10500 to 0x10200. -/
def objects (s : State) : State :=
  let put := fun (m : Mem) (k : Nat) (t : Tag) (x : Nat) => (m.write k (bytesLE x 8)).setTag k t
  let m := put (put s.mem 0x10100 .hdr (3 * 65536)) 0x10200 .fwd 0x10100
  { (pages s) with mem := put (put (put m 0x10300 .poison 0) 0x10400 .hdrc (3 * 65536)) 0x10500 .fwd 0x10200 }
/-- The machine with them. -/
def mo : State := machine raws id objects
/-- Each clause of ReadBarrier and FieldChecks has a header. -/
theorem wit_headers : headerAt mo um 0x10100 = some ⟨.hdr, 0x30000⟩ ∧ headerAt mo um 0x10200 = some ⟨.fwd, 0x10100⟩ ∧
    headerAt mo um 0x10300 = some ⟨.poison, 0⟩ ∧ headerAt mo um 0x10400 = some ⟨.hdrc, 0x30000⟩ ∧ headerAt mo um 0x10108 = some .nil ∧
    headerAt mo um 0x10500 = some ⟨.fwd, 0x10200⟩ := by decide +kernel

/-- A load in flight to v3 of lane 0. -/
def loading (s : State) : State := { s with loads := [⟨7, 0, 0, [⟨2, 0, 3, natWord 8, 0, 0⟩], 0, []⟩] }
theorem wit_load_complete : ((machine id id loading).loads.find? fun x => x.id == 7).isSome = true := by decide +kernel
theorem test_load_complete : after (exec (.loadComplete 7 false) (machine id id loading)) 0 3 = some ⟨.int, 8⟩ := by decide +kernel

theorem wit_store_items : found mm 0 .write 0x10008 = some (hostPage, 0x10008) ∧ (0x10008 : W64).toNat % memBytes .w = 0 := by decide +kernel
theorem wit_stored_bytes : Mem.empty.wf = true ∧ PlainItem ⟨0x10008, 8, 5, some .int, false⟩ ∧ PlainItem ⟨0x10009, 1, 5, some .int, false⟩ ∧
    (Mem.empty.setTag 0x10008 .poison).tag 0x10008 = .poison := by
  refine ⟨by decide, ⟨by decide, by decide, rfl⟩, ⟨by decide, by decide, rfl⟩, by decide⟩

/-- A store in flight of one item with a hint. -/
def storing (hint : Nat) (s : State) : State := { (pages s) with stores := [⟨8, 2, 1, 0, 0, hint, [⟨0x20000, 4, 5, none, false⟩], [], [], 0⟩] }
theorem wit_store_home : ((machine id id (storing 2)).stores.find? fun x => x.id == 8).isSome = true ∧
    (machine id id (storing 2)).behind 8 = false ∧ ((machine id id (storing 2)).ctx 0).dirtyEn = false ∧ (machine id id (storing 2)).l1 = [] := by
  decide +kernel
theorem wit_store_l1 : ((machine id id (storing 1)).stores.find? fun x => x.id == 8).isSome = true ∧
    (machine id id (storing 1)).behind 8 = false ∧ isDeviceKey 0x20000 = true ∧ (machine id id (storing 1)).mem.wf = true ∧
    PlainItem ⟨0x20000, 4, 5, none, false⟩ := ⟨by decide +kernel, by decide +kernel, by decide, by decide +kernel, ⟨by decide, by decide, rfl⟩⟩

/-- A task with an allocation of 1,024 bytes, and v1 at word l of its own window. -/
def scratchTask (t : Task) : Task := { t with scratchSize := 1024 }
/-- v1 of lane l holds 8 l. -/
def offsets (w : Warp) : Warp := (((w.setV 0 1 (natWord 0)).setV 1 1 (natWord 8)).setV 0 2 (natWord 1)).setV 1 2 (natWord 2)
/-- The machine. -/
def ms : State := machine offsets scratchTask
/-- Its unit. -/
def us : U := unitIn offsets scratchTask
/-- Both lanes of LDS and STS lie in the own allocation; offset 1,016 is its last word, and 1,024 lies outside. -/
theorem wit_scratch : ms.unit? = some us ∧ (∀ l ∈ us.acting .always, windowLane ms us .i8 (us.w.baseAddr ⟨false, 1⟩ 0 l) (scratchTask task0) (8 * l)) ∧
    windowLane ms us .i8 1016 (scratchTask task0) 1016 ∧ ms.window (scratchTask task0) 1024 8 = none := by
  refine ⟨by decide +kernel, ?_, ⟨by decide, by decide +kernel⟩, by decide +kernel⟩
  have h : us.acting .always = [0, 1] := by decide +kernel
  rw [h]
  intro l hl
  simp only [List.mem_cons, List.not_mem_nil, or_false] at hl
  rcases hl with rfl | rfl <;> exact ⟨by decide +kernel, by decide +kernel⟩

/-- v1 of both lanes refers to the object at 0x10100, v2 is data. -/
def fields (w : Warp) : Warp := (((w.setV 0 1 ⟨.ref, 0x10100⟩).setV 1 1 ⟨.ref, 0x10100⟩).setV 0 2 (natWord 1)).setV 1 2 (natWord 2)
/-- The form of STF that its statement names. -/
def stfForm (idx : BitVec 24) : MemForm :=
  ⟨.always, 2, [2, 1], [2, 1], [], 1, fun s u l => u.stfLane s idx l (u.w.getV l 1) (u.w.getV l 2)⟩
theorem wit_field_writes : (machine fields id objects).unit? = some (unitIn fields) ∧
    (stfForm 2).Ready (machine fields id objects) (unitIn fields) 3 (lanesOk (stfForm 2) (machine fields id objects) (unitIn fields)) := by
  refine ⟨by decide +kernel, memReady_of ?_ ?_ ?_ ?_ ?_ ?_ ?_ ?_ ?_⟩ <;> decide +kernel
/-- R223: index 3 of an object of three words is out of range, and so is 0. -/
theorem test_field_range : (match (unitIn fields).stfLane (machine fields id objects) 3 0 ⟨.ref, 0x10100⟩ .nil with | .error _ => true | .ok _ => false) = true ∧
    (match (unitIn fields).ldfLane (machine fields id objects) 0 0 ⟨.ref, 0x10100⟩ with | .error _ => true | .ok _ => false) = true := by decide +kernel

/-! ### Allocation, atomics, caches, waits, transactions -/

/-- A nursery of 256 bytes at 0x10000 + 0x800, sizes 2 and 3 in v1, layouts in v2. -/
def nursery (w : Warp) : Warp :=
  { ((((w.setV 0 1 (natWord 2)).setV 1 1 (natWord 3)).setV 0 2 (natWord 1)).setV 1 2 (natWord 2)) with nbase := 0x10800, nlim := 0x10900 }
/-- The machine. -/
def mn : State := machine nursery id pages
/-- Its unit. -/
def un : U := unitIn nursery
/-- The pages of a lane's block. -/
def pagesOk (b : Block) : List Touch := match un.blockPages mn b with | .ok x => x | .error _ => []
/-- Whether a block's pages are writable. -/
def hasPages (b : Block) : Bool := match un.blockPages mn b with | .ok _ => true | .error _ => false
theorem wit_allocation : mn.unit? = some un ∧ un.acting .always = [0, 1] ∧ Clean un (un.acting .always) [1, 2] ∧
    SizeWord (un.w.getV 0 1) ∧ SizeWord (un.w.getV 1 1) ∧ blockAt un [0, 1] (fun l => (un.w.getV l 1).pay.toNat) 1 = 0x10810 ∧
    hasPages ⟨0, 0x10800, 2, 1⟩ = true ∧ hasPages ⟨1, 0x10810, 3, 2⟩ = true ∧ 0x10800 + 8 * 5 ≤ un.w.nlim.toNat ∧
    (un.acting .always).head? = some 0 := by
  refine ⟨by decide +kernel, by decide +kernel, clean_of (by decide +kernel), ⟨by decide +kernel, by decide +kernel, by decide +kernel⟩,
    ⟨by decide +kernel, by decide +kernel, by decide +kernel⟩, ?_, ?_, ?_, ?_, ?_⟩ <;> decide +kernel
/-- R227: the second lane's reference lies behind the first lane's two words. -/
theorem test_nalloc : after (exec (.nalloc .always 3 1 2) mn) 1 3 = some ⟨.ref, 0x10810⟩ := by decide +kernel
/-- s4 holds a chunk's base, s5 its limit. -/
def chunk (w : Warp) : Warp := (w.setS 4 (natWord 0x10800)).setS 5 (natWord 0x10800)
theorem wit_nset : OnceWitness nurseryForm (machine chunk) (unitIn chunk) (.nset .always 4 5) := by
  refine ⟨_, once_of ?_ (by decide) rfl ?_ ?_ ?_ ?_⟩ <;> decide +kernel
theorem wit_icinv : OnceWitness nurseryForm (machine chunk) (unitIn chunk) (.icinvAll .always) := by
  refine ⟨_, once_of ?_ (by decide) rfl ?_ ?_ ?_ ?_⟩ <;> decide +kernel

/-- The place a lane's atomic reaches. -/
def placeOk (f : AtomForm) (l : Nat) : Touch := match mm.reachAtom um (f.addr um l) f.size with | .ok x => x | .error _ => ⟨0, rawPage, 0, 0, false, false, none⟩
/-- Whether it reaches one. -/
def reachesPlace (f : AtomForm) (l : Nat) : Bool := match mm.reachAtom um (f.addr um l) f.size with | .ok _ => true | .error _ => false
theorem wit_atomics : ∃ f, atomForm (.atom .always .iadd .b4 1 2 0) = some f ∧ um.acting f.guard = [0, 1] ∧ Reaches um f.regs ∧
    Clean um (um.acting f.guard) f.regs ∧ reachesPlace f 0 = true ∧ reachesPlace f 1 = true ∧ f.level um 0 = true ∧ f.level um 1 = true := by
  refine ⟨_, rfl, by decide +kernel, reaches_of (by decide +kernel), clean_of (by decide +kernel), ?_, ?_, ?_, ?_⟩ <;> decide +kernel
theorem wit_cas : ∃ f, atomForm (.cas .always .b8 3 1 2 0) = some f ∧ reachesPlace f 0 = true ∧ f.level um 0 = true ∧ f.level um 1 = true := by
  refine ⟨_, rfl, ?_, ?_, ?_⟩ <;> decide +kernel
/-- An atomic in flight at 0x20000. -/
def adding (act : AtomDo) (s : State) : State := { (pages s) with
  mem := s.mem.write 0x20000 [7, 0, 0, 0], atoms := [⟨9, 2, 1, 0, 0, 4, [⟨2, 0, 3, 0x20000, 4, false, act, none, 0, 0⟩], [], [], 0⟩] }
/-- The machine. -/
def ma (act : AtomDo) : State := machine id id (adding act)
theorem wit_atomic_update : ((ma (.op .iadd (natWord 5))).atoms.find? fun x => x.id == 9).isSome = true ∧ (ma (.op .iadd (natWord 5))).behind 9 = false ∧
    (ma (.op .iadd (natWord 5))).mem.wf = true ∧ (ma (.op .iadd (natWord 5))).mem.marked 0x20000 = false ∧
    ((ma (.op .iadd (natWord 5))).warp? 2).isSome = true ∧ (ma (.op .iadd (natWord 5))).l1 = [] := by decide +kernel
theorem wit_atomic_cas : ((ma (.cas (natWord 7) (natWord 1))).atoms.find? fun x => x.id == 9).isSome = true ∧ (ma (.cas (natWord 7) (natWord 1))).behind 9 = false := by
  decide +kernel
/-- R228: 7 + 5 at the home, 7 in the lane. -/
theorem test_atomic : (match exec (.atomicComplete 9) (ma (.op .iadd (natWord 5))) with
    | .next t => (t.mem.read 0x20000 4, (t.warp? 2).map fun w => w.getV 0 3)
    | .fault _ | .refused _ => (0, none)) = (12, some ⟨.int, 7⟩) := by decide +kernel

theorem wit_cache : mm.unit? = some um ∧ CacheReady mm um .always ⟨false, 1⟩ ∧ NoForeignDirty mm um ∧
    found mm 0 .read (um.w.baseAddr ⟨false, 1⟩ 0 0) = some (rawPage, 0x20000) :=
  ⟨unit_mm, ⟨by decide, scopeOk_of rfl, paced_of (by decide +kernel), reaches_of (by decide +kernel), clean_of (by decide +kernel), cleanS_of (by decide)⟩,
    fun x hx => absurd (show mm.l1 = [] from rfl) (List.ne_nil_of_mem hx), by decide +kernel⟩
/-- A line of core 0 with one dirty byte, at 0x20000. -/
def dirtyLine : L1Line := ⟨0, 0, 0x400, Mem.empty.write 0x20000 [9], 1, none, 1, 0⟩
/-- The machine whose L1 holds it. -/
def mdirty : State := machine raws id fun s => { (pages s) with l1 := [dirtyLine] }
theorem found_named {s : State} {u : U} {g : Guard} {base : MBase} {imm : BitVec 24} {line l : Nat} {tr : Trans} {k : Nat}
    (h : l ∈ u.acting g) (h1 : s.translate u.t.ctx u.sp.pl .read (u.w.baseAddr base imm l) = .ok (tr, k)) (h2 : tr.kind ≠ .host)
    (h3 : k / 128 = line) : namedLine s u g base imm line := ⟨l, h, tr, k, h1, h2, h3⟩
theorem wit_cache_line : mdirty.unit? = some um ∧ OnlyCopy mdirty dirtyLine ∧ dirtyLine.core = um.t.core ∧ dirtyLine.ctx = um.t.ctx ∧
    namedLine mdirty um .always ⟨false, 1⟩ 0 dirtyLine.line ∧ (∀ w ∈ mdirty.warps, dirtyLine.line ∉ w.txLines) ∧ mdirty.mem.wf = true ∧
    dirtyLine.isDirty = true :=
  ⟨by decide +kernel, ⟨by decide, fun y hy _ => by simpa [mdirty, machine] using hy⟩, by decide +kernel, by decide +kernel,
    found_named (l := 0) (tr := rawPage) (k := 0x20000) (by decide +kernel) (by rfl) (by decide) (by decide), by decide +kernel, by decide +kernel,
    by decide⟩
/-- What the home holds at 0x20000 after an instruction, and the lines left in the L1. -/
def homeAfter (r : Host.Outcome State Fault Refusal) : Nat × Nat :=
  match r with
  | .next t => ((t.mem.byte 0x20000).toNat, t.l1.length)
  | .fault _ | .refused _ => (0, 0)
/-- R232: CCTL.wb brings the dirty byte home and keeps the line, CCTL.wbinv drops it. -/
theorem test_cctl : homeAfter (exec (.cctl .always .wb ⟨false, 1⟩ 0) mdirty) = (9, 1) ∧
    homeAfter (exec (.cctl .always .wbinv ⟨false, 1⟩ 0) mdirty) = (9, 0) := by decide +kernel

/-- A split with one load in flight. -/
def pending (w : Warp) : Warp := { regs w with splits := [{ split0 with acc := [⟨6, 0, false⟩] }] }
theorem wit_fences : fenceForm (.fence .always 15 15 4) = some (.always, 15, 15, 4) ∧ 4 ≤ (m0.ctx u0.t.ctx).scopeLimit ∧ FenceOpen m0 u0 15 ∧
    ¬FenceOpen (machine pending) (unitIn pending) 1 := by
  refine ⟨rfl, by decide +kernel, ⟨fun _ => by decide +kernel, fun _ => ⟨by decide +kernel, fun a ha => by rw [show u0.sp.acc = [] from rfl] at ha; cases ha⟩,
    fun _ => by decide +kernel⟩, fun h => absurd (h.1 (by decide)) (by decide +kernel)⟩

/-- A fence that writes back and one that drops meet a line that moves; LIMIT below the scope, with and without CLAMP. -/
theorem wit_fence_lines : FenceOpen mdirty um 15 ∧ OnlyCopy mdirty dirtyLine ∧ dirtyLine.core = um.t.core ∧ dirtyLine.scope < 4 ∧ um.t.spec ≠ .running ∧
    ∀ c, ((mdirty.setCtx 0 { hostCtx with scopeLimit := 2, scopeClamp := c }).ctx um.t.ctx).scopeLimit < 4 ∧
      ((mdirty.setCtx 0 { hostCtx with scopeLimit := 2, scopeClamp := c }).ctx um.t.ctx).scopeClamp = c :=
  ⟨⟨fun _ => by decide +kernel, fun _ => ⟨by decide +kernel, fun a ha => by rw [show um.sp.acc = [] from rfl] at ha; cases ha⟩, fun _ => by decide +kernel⟩,
    wit_cache_line.2.1, by decide +kernel, by decide, by decide +kernel, by decide +kernel⟩
/-- R186, R230: FENCE ST → LD at GRID writes the line back and drops it; FENCE ST → ST keeps it. -/
theorem test_fence : homeAfter (exec (.fence .always 2 1 4) mdirty) = (9, 0) ∧ homeAfter (exec (.fence .always 2 2 4) mdirty) = (9, 1) := by
  decide +kernel

/-- s4 holds a threshold, POISON in s5. -/
def thresholds (w : Warp) : Warp := (pending w).setS 5 ⟨.poison, 1⟩
theorem wit_counter_waits : (machine thresholds).unit? = some (unitIn thresholds) ∧ (unitIn thresholds).acting .always ≠ [] ∧
    (∃ p, waitForm (unitIn thresholds) (.waitc .always 0 255 255 255) = some (.always, [], p) ∧ ¬p) ∧
    (∃ p, waitForm (unitIn thresholds) (.waitp .always 4 0) = some (.always, [4], p) ∧ p) ∧ CleanS (unitIn thresholds) [4] ∧
    ((unitIn thresholds).w.getS 5).tag = .poison ∧ (unitIn thresholds).acting ⟨0, false⟩ = [] ∧ 5 < (6 : Byte).toNat := by
  refine ⟨by decide +kernel, by decide +kernel, ⟨_, rfl, ?_⟩, ⟨_, rfl, ?_⟩, cleanS_of (by decide +kernel), by decide +kernel, by decide +kernel, by decide⟩
  · exact fun h => absurd h.1 (by decide +kernel)
  · exact .inr (by decide +kernel)

/-- One active lane, without and with a transaction of a depth that has read and written one word. -/
def single (w : Warp) : Warp := { regs w with splits := [{ split0 with paths := [{ path0 with mask := 1 }] }] }
/-- In a transaction. -/
def inTx (depth old : Nat) (w : Warp) : Warp := { single w with
  txs := [⟨0, depth, 0x10100, 5, [0x400], [0x400], [⟨0x20000, 4, BitVec.ofNat 64 old, none⟩], [⟨0x20000, 4, 1, none, false⟩], [2], none⟩] }
theorem wit_transactions :
    (m0.unit? = some u0 ∧ u0.acting .always ≠ [] ∧ u0.w.txs = [] ∧ u0.t.spec ≠ .running ∧ u0.sp.acc = []) ∧
    (∀ d ∈ [1, 2], (unitIn (inTx d 0)).active = [0] ∧ (unitIn (inTx d 0)).w.txs.length = 1 ∧ (machine (inTx d 0) id pages).unit? = some (unitIn (inTx d 0))) ∧
    ((unitIn (inTx 1 0)).w.txs.map fun x => x.valid (machine (inTx 1 0) id pages).mem) = [true] ∧
    ((unitIn (inTx 1 9)).w.txs.map fun x => x.valid (machine (inTx 1 9) id pages).mem) = [false] ∧
    (unitIn (inTx 1 0)).sp.acc = [] ∧ (machine (inTx 1 0) id pages).l1 = [] := by decide +kernel
/-- R202, R237: TXABORT with code 3 writes 4 + 3 × 256 to the register of the outermost TXBEGIN. -/
theorem test_txabort : after (exec (.txabort .always 3) (machine (inTx 1 0) id pages)) 0 5 = some ⟨.int, 0x304⟩ := by decide +kernel
/-- R236: TXEND makes the store visible. -/
theorem test_txend : (match exec .txend (machine (inTx 1 0) id pages) with | .next t => t.mem.read 0x20000 4 | .fault _ | .refused _ => 9) = 1 := by
  decide +kernel

/-- Two atomics of one location, of two tasks, with hint BLOCK, each adding 5. -/
def rivals (s : State) : State :=
  let one := fun (id task core lane : Nat) =>
    (⟨id, 2, task, core, 0, 1, [⟨2, lane, 3, 0x20000, 4, false, .op .iadd (natWord 5), none, 0, 0⟩], [], [], 0⟩ : PendAtom)
  { (pages s) with mem := s.mem.write 0x20000 [7, 0, 0, 0], atoms := [one 9 1 0 0, one 10 7 1 1] }
/-- Whether the two atomics stand apart, under a hint. -/
def standApart (hint : Nat) : Bool :=
  let s := machine id id rivals
  match s.atoms.map fun q => { q with hint := hint } with
  | [p, q] => (p.items.zip q.items).all fun x => s.apart p x.1 q x.2
  | _ => false
/-- R182, R184: neither covers the other's split at BLOCK, so that both may read the 7; at GRID each does. -/
theorem test_rivals : standApart 1 = true ∧ standApart 4 = false := by decide +kernel

/-! ### Engine commands and timelines -/

/-- tl1 bound to context 0 of Screed, with the scratchpad of one core. -/
def bound (t : Task) : Task := { scratchTask t with tl := [(1, some 0)] }
/-- s4 a source in memory, s5 a destination in the window, s6 a count; s7 a misaligned address, s8 a count beyond 2^24. -/
def copies (w : Warp) : Warp :=
  ((((regs w).setS 4 (natWord 0x20000)).setS 5 (natWord 0)).setS 6 (natWord 64)).setS 7 (natWord 0x20001) |>.setS 8 (natWord (2 ^ 24 + 1))
/-- The machine. -/
def me : State := machine copies bound pages
/-- Its unit. -/
def ue : U := unitIn copies bound
/-- The context has failed at number 3, by a link error or a mismatch. -/
def failedAt (mismatch : Bool) (t : Task) : Task := (bound t).setEng 0 ⟨2, 4, some (3, 0x20000, mismatch), []⟩
/-- Whether a command's checks pass. -/
def passes (s : State) (u : U) (p : CmdForm) : Bool := match s.cmdChecks u p with | .ok _ => true | .error _ => false
theorem wit_commands_issue : ∃ f, commandForm (.acpy .always .m2s 1 4 5 6) = some f ∧ me.unit? = some ue ∧ ue.acting f.guard ≠ [] ∧ ue.w.txs = [] ∧
    CleanS ue f.srcs ∧ ue.t.bound f.tl = some 0 ∧ f.engine = some 0 ∧ passes me ue (f.form me ue) = true ∧ (f.form me ue).hold = false ∧
    ((ue.t.engCtx 0).cmds.filter fun c => !c.done).length < 64 ∧ (ue.t.engCtx 0).failed = none ∧ ((failedAt false task0).engCtx 0).failed ≠ none := by
  refine ⟨_, rfl, by decide +kernel, by decide +kernel, by decide +kernel, cleanS_of (by decide +kernel), ?_, rfl, ?_, ?_, ?_, ?_, ?_⟩ <;> decide +kernel
theorem wit_command_checks : ((commandForm (.acpy .always .m2s 1 4 5 8)).map fun f => (f.form me ue).illegal) = some true ∧
    ((commandForm (.acpy .always .m2s 1 7 5 6)).map fun f => (f.form me ue).illegal) = some false ∧ (ue.w.getS 7).pay.toNat % 8 ≠ 0 ∧
    ((commandForm (.agath .always 2 1 4 4 4)).map fun f => f.srcs) = some [4, 4, 4, 5] := by decide +kernel
theorem wit_timelines : OnceWitness timelineForm me ue (.tlread .always 9 1) := by
  refine ⟨_, once_of ?_ (by decide) rfl ?_ ?_ ?_ ?_⟩ <;> decide +kernel
theorem wit_timelines_wait : OnceWitness timelineForm me ue (.tlwait .always 1 5) := by
  refine ⟨_, once_of ?_ (by decide) rfl ?_ ?_ ?_ ?_⟩ <;> decide +kernel
theorem wit_timelines_cancel : OnceWitness timelineForm me ue (.acancel .always 1 5) := by
  refine ⟨_, once_of ?_ (by decide) rfl ?_ ?_ ?_ ?_⟩ <;> decide +kernel
/-- s5 names context 1 of the gather engine. -/
def binding (w : Warp) : Warp := w.setS 5 (natWord 0x11)
theorem wit_timelines_bind : OnceWitness timelineForm (machine binding bound) (unitIn binding bound) (.tlbind .always 2 5) := by
  refine ⟨_, once_of ?_ (by decide) rfl ?_ ?_ ?_ ?_⟩ <;> decide +kernel
/-- s5 holds 3, the failing number. -/
def third (w : Warp) : Warp := w.setS 5 (natWord 3)
theorem wit_timeline_failure : ∀ b, (machine third (failedAt b)).unit? = some (unitIn third (failedAt b)) ∧
    ((failedAt b task0).engCtx 0).failed = some (3, 0x20000, b) ∧ (failedAt b task0).bound 1 = some 0 ∧ 3 ≤ ((unitIn third (failedAt b)).w.getS 5).pay.toNat := by
  decide +kernel
theorem wit_timeline_waits : (bound task0).bound 1 = some 0 ∧ ((bound task0).engCtx 0).failed = none ∧
    ((bound task0).engCtx 0).counter < ((unitIn third bound).w.getS 5).pay.toNat := by decide +kernel

/-- A command of a context: its number, operation, started or not. -/
def oneCmd (op : EngOp) (started : Bool) (t : Task) : Task := (bound t).setEng 0 ⟨0, 1, none, [⟨1, op, 6, 0, started, false, [(2, rawPage)], none, none, 0⟩]⟩
/-- A copy of 8 bytes of memory to the window, and a TLSIG. -/
def copy8 : EngOp := .acpy .m2s 0x20000 0 8
theorem wit_engine_start : ((oneCmd copy8 false task0).nextCmd 0).isSome = true ∧ ((machine id (oneCmd copy8 false)).ctx 0).halted = false ∧
    ((machine id (oneCmd copy8 false)).task? 1).isSome = true := by decide +kernel
theorem wit_engine_complete : ((oneCmd copy8 true task0).cmd? 0 1).map (fun c => (c.started, (copySpaces c.op).isSome)) = some (true, true) ∧
    ((oneCmd (.tlsig [5]) true task0).cmd? 0 1).map (fun c => c.started) = some true ∧ (machine id (oneCmd (.tlsig [5]) true)).pending 5 = false ∧
    (machine id (oneCmd (.tlsig [7]) true) loading).pending 7 = true := by decide +kernel
/-- A host copy can meet a link error. -/
theorem wit_engine_fail : ((oneCmd (.hcpy .h2d 0x20000 0x20008 8) true task0).cmd? 0 1).map (fun c => c.started) = some true ∧
    ((oneCmd (.hcpy .h2d 0x20000 0x20008 8) true task0).engCtx 0).failed = none := by decide +kernel
/-- The machine with a command started, and bytes at 0x20000. -/
def mcopy (op : EngOp) : State := machine id (oneCmd op true) fun s => { (pages s) with mem := s.mem.write 0x20000 [1, 2, 3, 4, 5, 6, 7, 8] }
/-- What the command writes. -/
def copyRuns (op : EngOp) : List (RunDest × ByteRun) :=
  match (mcopy op).task? 1 with
  | some t => (match t.cmd? 0 1 with | some c => ((mcopy op).cmdWrites t c).runs | none => [])
  | none => []
/-- R242: the eight bytes at 0x20000 for window address 0. -/
theorem test_engine_copy : copyRuns copy8 = [(.slot 1, (List.range 8).map fun k => (k, ⟨BitVec.ofNat 8 (k + 1), none⟩))] := by decide +kernel

/-! ### The matrix engine -/

theorem wit_slots : OnceWitness slotForm m0 u0 (.talloc .always 9) := by
  refine ⟨_, once_of unit_m0 (by decide) rfl ?_ ?_ ?_ ?_⟩ <;> decide +kernel
/-- Slot 3 allocated; s9 holds its handle. -/
def slot3 (t : Task) : Task := { t with slots := [⟨3, true, false, [(64, 0x3F800000)]⟩] }
/-- s9 the handle, s10 and s11 a descriptor of one F32 tile at window address 0: 64 rows of pitch 256, COUNT 1. -/
def handles (w : Warp) : Warp :=
  let s := ((regs w).setS 9 ⟨.tile, 3⟩).setS 10 ⟨.bits, BitVec.ofNat 64 (256 * 2 ^ 32 + 64 * 2 ^ 48)⟩
  s.setS 11 ⟨.bits, BitVec.ofNat 64 (2 * 2 ^ 28 + 2 ^ 32)⟩ |>.setS 12 (natWord 0x20000)
/-- The machine. -/
def mt : State := machine handles slot3 pages
/-- Its unit. -/
def ut : U := unitIn handles slot3
theorem unit_mt : mt.unit? = some ut := by decide +kernel
theorem wit_slot_free : OnceWitness slotForm mt ut (.tfree .always 9) := by
  refine ⟨_, once_of unit_mt (by decide) rfl ?_ ?_ ?_ ?_⟩ <;> decide +kernel
theorem wit_gangset : OnceWitness slotForm (machine fun w => w.setS 9 (natWord 0)) (unitIn fun w => w.setS 9 (natWord 0)) (.gangset .always 9) := by
  refine ⟨_, once_of ?_ (by decide) rfl ?_ ?_ ?_ ?_⟩ <;> decide +kernel
/-- s4 an address, s5 PITCH 256, ROWS 64, COUNT 1. -/
def tdescIn (w : Warp) : Warp := (w.setS 4 (natWord 0)).setS 5 (natWord (256 + 64 * 2 ^ 16 + 2 ^ 48))
theorem wit_tdesc : OnceWitness slotForm (machine tdescIn) (unitIn tdescIn) (.tdesc .always .f32 0 8 4 5) := by
  refine ⟨_, once_of ?_ (by decide) rfl ?_ ?_ ?_ ?_⟩ <;> decide +kernel
/-- R164: the packed descriptor. -/
theorem test_tdesc : afterS (exec (.tdesc .always .f32 0 8 4 5) (machine tdescIn)) 8 = some ⟨.bits, 0x0040010000000000⟩ ∧
    afterS (exec (.tdesc .always .f32 0 8 4 5) (machine tdescIn)) 9 = some ⟨.bits, 0x0000000120000000⟩ := by decide +kernel
theorem wit_tile_issue : ∃ f, tileIssueForm ut (.drain .always .f32 true 9 12) = some f ∧ (ut.acting f.guard).isEmpty = false ∧ Reaches ut f.named ∧
    TileClean ut f.srcs ∧ passes mt ut f.checks = true ∧ f.checks.hold = false ∧ (mt.liveSlot ut.t (ut.w.getS f.slot)).isSome = true ∧
    ut.sp.count 5 < 4095 := by
  refine ⟨_, rfl, by decide +kernel, reaches_of (by decide +kernel), ?_, ?_, ?_, ?_, ?_⟩ <;> first | (unfold TileClean; decide +kernel) | decide +kernel
/-- A product of register operands. -/
theorem wit_tile_product_issue : ∃ f, tileIssueForm ut (.mma .always false false 9 16 32) = some f ∧ Reaches ut f.named ∧ TileClean ut f.srcs ∧
    passes mt ut f.checks = true ∧ f.regs = true ∧ ut.w.width = 64 := by
  refine ⟨_, rfl, reaches_of (by decide +kernel), ?_, ?_, rfl, rfl⟩ <;> first | (unfold TileClean; decide +kernel) | decide +kernel
/-- A tile operation that names slot 3. -/
def naming (act : TileDo) (accepted : Bool) (s : State) : State := { (pages s) with tiles := [⟨8, 2, 1, 0, 3, act, [], 0, 1, 0, accepted, false, none, [], [], [], 0⟩] }
theorem wit_accumulator_read : mt.unit? = some ut ∧ Reaches ut (sixteen 16) ∧ CleanS ut [9] ∧ (mt.liveSlot ut.t (ut.w.getS 9)).isSome = true ∧
    (mt.tiles.any fun o => o.core == ut.t.core && o.slot == 3) = false ∧
    ((machine handles slot3 (naming (.accld ⟨0, 0⟩) false)).tiles.any fun o => o.core == ut.t.core && o.slot == 3) = true :=
  ⟨unit_mt, reaches_of (by decide +kernel), cleanS_of (by decide +kernel), by decide +kernel, by decide +kernel, by decide +kernel⟩
/-- R171: row 1 of block 0 starts with the element at 1 × 64. -/
theorem test_accrd : after (exec (.accrd .always 16 9 0) mt) 1 16 = some ⟨.f32, 0x3F800000⟩ := by decide +kernel

/-- A gang of slots 0 and 1; the other member has not arrived. -/
def inGang (w : Warp) : Warp := { handles w with gang := 3 }
/-- The other member's warp. -/
def other : Warp := { startWarp hostPlacing 0 0 ⟨1, 64, 256, true, 0⟩ 5 1 1 6 5 ((List.range 256).map fun n => n + 256) with gang := 3 }
/-- The machine with both. -/
def mg : State := machine inGang slot3 fun s => { s with warps := s.warps ++ [other] }
/-- The unit of the lower member. -/
def ug : U := unitIn inGang slot3
theorem wit_gang_latch : mg.unit? = some ug ∧ LatchReady mg ug .always false false 9 16 32 true ∧
    (mg.liveSlot ug.t (ug.w.getS 9)).isSome = true ∧ passes mg ug (CmdForm.plain (.tlsig [])) = true ∧
    (∃ i ∈ gangSlots ug.w.gang, i ≠ ug.w.slot ∧ ∀ w, mg.slotWarp ug.t.id i = some w → w.latched = none) := by
  refine ⟨by decide +kernel, ⟨by decide +kernel, scopeOk_of rfl, by decide +kernel, reaches_of (by decide +kernel), by decide +kernel, ?_,
    by decide +kernel, by decide +kernel⟩, by decide +kernel, by decide +kernel, 1, by decide +kernel, by decide +kernel, ?_⟩
  · unfold TileClean; decide +kernel
  · intro w h
    have e : mg.slotWarp ug.t.id 1 = some other := by decide +kernel
    rw [e] at h
    cases h
    decide +kernel

/-- The boundary indices of TileProductExact. -/
theorem wit_tile_product : (1 : Nat) < 2 ^ FSpec.c16.width ∧ (1 : Nat) < 2 ^ FSpec.c24.width ∧ (63 : Nat) < 64 := by decide
theorem wit_tile_events : (machine id slot3 (naming (.product true (.regs []) (.regs [])) false)).canAccept ⟨8, 2, 1, 0, 3, .product true (.regs []) (.regs []), [], 0, 1, 0, false, false, none, [], [], [], 0⟩ = true ∧
    (machine id slot3 (naming (.product true (.regs []) (.regs [])) true)).canAccept ⟨8, 2, 1, 0, 3, .product true (.regs []) (.regs []), [], 0, 1, 0, true, false, none, [], [], [], 0⟩ = false ∧
    (machine id slot3 (naming (.product true (.regs []) (.regs [])) true)).applies ⟨8, 2, 1, 0, 3, .product true (.regs []) (.regs []), [], 0, 1, 0, true, false, none, [], [], [], 0⟩ = true ∧
    (machine id slot3 (naming (.drainAdd (.memory 0x20000 .f32)) true)).applies ⟨8, 2, 1, 0, 3, .drainAdd (.memory 0x20000 .f32), [], 0, 1, 0, true, false, none, [], [], [], 0⟩ = true ∧
    (slot3 task0).slot? 3 = some ⟨3, true, false, [(64, 0x3F800000)]⟩ := by decide +kernel

/-! ### Control -/

/-- p1 true in lane 1 alone; v1 of both lanes holds 0x10100, v2 differs by lane, v3 is misaligned, v4 lies beyond 57 bits, v5 is POISON. -/
def targets (w : Warp) : Warp :=
  let put := fun (w : Warp) (r : Reg) (x y : Word) => (w.setV 0 r x).setV 1 r y
  let w := put (put (put w 1 (natWord 0x10100) (natWord 0x10100)) 2 (natWord 0x10100) (natWord 0x10200)) 3 (natWord 0x10101) (natWord 0x10102)
  (put (put w 4 (natWord (2 ^ 57)) (natWord (2 ^ 57))) 5 ⟨.poison, 1⟩ ⟨.poison, 1⟩).setP 1 1 true |>.setS 4 (natWord 0x10008)
/-- The machine. -/
def mc : State := machine targets
/-- Its unit. -/
def uc : U := unitIn targets
theorem unit_mc : mc.unit? = some uc := by decide +kernel

theorem transferReady_of {f : TransferForm} {u : U} (h1 : (!u.active.isEmpty) = true) (h2 : (f.named.all fun r => (regIndex u.w.nregs r).isSome) = true)
    (h3 : (f.acting.all fun l => f.srcs.all fun r => decide ((u.w.getV l r).tag ≠ .poison)) = true)
    (h4 : (f.scalars.all fun r => decide ((u.w.getS r).tag ≠ .poison)) = true) : f.Ready u :=
  ⟨by intro h; simp [h] at h1, reaches_of h2, clean_of h3, cleanS_of h4⟩

theorem wit_uniform : ∃ f, transferForm uc (.callx .always 9 1) = some f ∧ f.Ready uc ∧ f.Aligned ∧ (∀ l ∈ uc.active, f.goes uc l = 0x10100) := by
  refine ⟨_, rfl, transferReady_of ?_ ?_ ?_ ?_, ?_, ?_⟩ <;> first | (unfold TransferForm.Aligned; decide +kernel) | decide +kernel
theorem wit_uniform_ret : ∃ f, transferForm uc (.ret 4) = some f ∧ f.Ready uc ∧ f.Aligned ∧ (∀ l ∈ uc.active, f.goes uc l = 0x10008) := by
  refine ⟨_, rfl, transferReady_of ?_ ?_ ?_ ?_, ?_, ?_⟩ <;> first | (unfold TransferForm.Aligned; decide +kernel) | decide +kernel
theorem wit_divergence : ∃ f, transferForm uc (.brx .always 2) = some f ∧ f.Ready uc ∧ f.Aligned ∧ uc.sp.paths = [uc.pa] ∧
    (uc.active.map fun l => f.goes uc l) = [0x10100, 0x10200] ∧ (∀ sp ∈ uc.w.splits, sp.num ≠ 1) ∧ ∀ m, m < 1 → ∃ sp ∈ uc.w.splits, sp.num = m := by
  refine ⟨_, rfl, transferReady_of ?_ ?_ ?_ ?_, ?_, ?_, ?_, ?_, ?_⟩ <;> first | (unfold TransferForm.Aligned; decide +kernel) | decide +kernel
theorem wit_divergence_stay : ∃ f, transferForm uc (.bra ⟨1, false⟩ 0x100) = some f ∧ f.stay = true ∧ (uc.active.map fun l => f.goes uc l) = [0x10008, 0x10400] := by
  refine ⟨_, rfl, rfl, ?_⟩; decide +kernel
theorem wit_transfer_traps : (∃ f, transferForm uc (.brx .always 3) = some f ∧ f.Ready uc ∧ (f.acting.filter fun l => (f.target l).toNat % 4 != 0) = [0, 1]) ∧
    (∃ f, transferForm uc (.brx .always 4) = some f ∧ f.Ready uc ∧ (∀ k ∈ f.acting, (f.target k).toNat % 4 = 0) ∧
      (f.acting.filter fun l => decide (2 ^ 57 ≤ (f.target l).toNat)) = [0, 1]) ∧
    uc.active = [0, 1] ∧ ([0, 1].filter fun k => uc.w.guardAt ⟨1, false⟩ k != uc.w.guardAt ⟨1, false⟩ 0) = [1] ∧
    ((uc.acting .always).filter fun l => (uc.w.getV l 5).tag == .poison) = [0, 1] ∧ Reaches uc [5] := by
  refine ⟨⟨_, rfl, transferReady_of ?_ ?_ ?_ ?_, ?_⟩, ⟨_, rfl, transferReady_of ?_ ?_ ?_ ?_, ?_, ?_⟩, ?_, ?_, ?_, reaches_of ?_⟩ <;> decide +kernel
/-- R285: the return address is the unit after the CALL. -/
theorem test_call : afterS (exec (.call .always 9 0x40) mc) 9 = some ⟨.int, 0x10008⟩ := by decide +kernel

/-- A unit with a record: lanes 0 to 2, lane 0 runs at some depth and lanes are served. -/
def serial (depth : Nat) (served : LaneMask) (w : Warp) : Warp :=
  { regs w with live := 7, splits := [{ split0 with paths := [{ path0 with mask := 1, ser := some ⟨7, served, depth, 0x10004, 0⟩ }] }] }
/-- What the unit of `serial` has. -/
def serialOk (d : Nat) (m : LaneMask) : Bool :=
  decide ((machine (serial d m)).unit? = some (unitIn (serial d m))) && decide ((unitIn (serial d m)).pa.ser = some ⟨7, m, d, 0x10004, 0⟩)
/-- Every clause: no record, depths 1, 2 and 15, a lane left and none left, others alive after an EXIT. -/
theorem wit_serial : u0.pa.ser = none ∧ serialOk 1 0 = true ∧ serialOk 1 6 = true ∧ serialOk 2 0 = true ∧ serialOk 15 0 = true ∧
    ((7 : LaneMask) &&& ~~~(6 ||| (unitIn (serial 1 6)).pa.mask) &&& (unitIn (serial 1 6)).w.live) = 0 ∧
    ((7 : LaneMask) &&& ~~~(0 ||| (unitIn (serial 1 0)).pa.mask) &&& (unitIn (serial 1 0)).w.live) ≠ 0 ∧
    ((7 : LaneMask) &&& ((unitIn (serial 1 6)).w.live &&& ~~~(unitIn (serial 1 6)).pa.mask)) ≠ 0 := by decide +kernel
theorem wit_serial_exit : (unitIn (serial 1 6)).w.splits = [(unitIn (serial 1 6)).sp] ∧ (unitIn (serial 1 6)).sp.paths = [(unitIn (serial 1 6)).pa] ∧
    (unitIn (serial 1 6)).w.legacy = false ∧ (unitIn (serial 1 6)).pa.wait = .run ∧ (unitIn (serial 1 6)).w.gates = [] ∧
    (unitIn (serial 1 6)).pa.mask ≠ 0 := by decide +kernel
/-- R288: EXIT of lane 0 with none left makes lanes 1 and 2 go on together. -/
theorem test_serial_exit : (match exec .exit (machine (serial 1 6)) with
    | .next t => t.warps.flatMap fun w => (unitsOf w).map fun x => x.2.2.1
    | .fault _ | .refused _ => []) = [6] := by decide +kernel
/-- R288: at depth 1 lane 1 goes next, from the unit after the SERB. -/
theorem test_sere : (match exec .sere (machine (serial 1 0)) with
    | .next t => t.warps.flatMap unitsOf
    | .fault _ | .refused _ => []) = [(0, 0x10004, 2, .run)] := by decide +kernel

/-- A second split that runs. -/
def two (w : Warp) : Warp := { regs w with live := 7, splits := [split0, { split0 with num := 1, paths := [{ path0 with mask := 4 }] }] }
theorem sole_u0 : Sole u0 := by constructor <;> decide +kernel
theorem wit_join : Sole u0 ∧ (∀ l ∈ u0.active, Table.get [] u0.w.recs l = []) ∧ u0.sp.frame.busy = false ∧ (unitIn (serial 1 0)).pa.ser ≠ none ∧
    (machine two).unit? = some (unitIn two) ∧ (∃ sp ∈ (unitIn two).w.splits, sp.num ≠ 0 ∧ ∃ p ∈ sp.paths, p.wait = .run ∧ p.mask ≠ 0) := by
  refine ⟨sole_u0, ?_, ?_, ?_, ?_, ?_⟩ <;> decide +kernel
/-- A second warp of the task. -/
def beside (s : State) : State := { s with warps := s.warps ++ [other] }
theorem wit_barriers : barForm u0 (.barc .always 3 4) = some (.always, [4], 3, some 9, 8) ∧ FenceOpen m0 u0 7 ∧ u0.t.bars = [] ∧ Sole u0 ∧
    (∀ x ∈ m0.warps, x.task = u0.t.id → x.id = u0.w.id) ∧ (∃ x ∈ (machine regs id beside).warps, x.task = u0.t.id ∧ x.id ≠ u0.w.id) ∧
    (machine regs id beside).unit? = some u0 ∧ ¬FenceOpen (machine pending) (unitIn pending) 7 ∧ (15 : Nat) ≤ 15 ∧ (15 : Nat) < 16 := by
  refine ⟨by decide +kernel, ⟨fun _ => by decide +kernel, fun _ => ⟨by decide +kernel, fun a ha => absurd (show u0.sp.acc = [] from rfl) (List.ne_nil_of_mem ha)⟩,
    fun _ => by decide +kernel⟩, by decide +kernel, sole_u0, by decide +kernel, by decide +kernel, by decide +kernel,
    fun h => absurd (h.1 (by decide)) (by decide +kernel), by decide, by decide⟩
theorem wit_barrier_count : barForm (unitIn fun w => w.setS 4 (natWord 33)) (.barc .always 3 4) = some (.always, [4], 3, some 33, 8) ∧
    barForm (unitIn fun w => w.setS 4 (natWord 1)) (.barc .always 3 4) = some (.always, [4], 3, some 1, 8) := ⟨rfl, rfl⟩
/-- R290: the last warp goes on behind a BAR. -/
theorem test_bar : (match exec (.bar 0) m0 with | .next t => t.warps.flatMap unitsOf | .fault _ | .refused _ => []) = [(0, 0x10004, 3, .run)] := by
  decide +kernel

theorem wit_plain_control : m0.unit? = some u0 ∧ (∀ x, (m0.ctx u0.t.ctx).ladder ≠ some (x, 0)) ∧ u0.w.live &&& ~~~u0.pa.mask = 0 ∧
    (unitIn two).w.live &&& ~~~(unitIn two).pa.mask ≠ 0 ∧ u0.acting .always ≠ [] ∧ u0.acting ⟨0, false⟩ = [] ∧
    (((machine regs id fun s => s.setCtx 0 { hostCtx with ladder := some (5, 0) }).ctx 0).ladder = some (5, 0)) := by
  refine ⟨unit_m0, fun x h => ?_, ?_, ?_, ?_, ?_, ?_⟩ <;> first | decide +kernel | (exact absurd h (by rw [show (m0.ctx u0.t.ctx).ladder = none from rfl]; simp))

/-- Both lanes in a handler for a division at the unit 0x10018, at the gate 77. -/
def handled (cause : LaneCause) (w : Warp) : Warp :=
  let r : RetRec := ⟨cause, 1, 9, 0x10020, 77, false, .nil, .nil, 0, false⟩
  { regs w with recs := [(0, [r]), (1, [r])], gates := [(77, 3)], splits := [{ split0 with paths := [path0, { path0 with mask := 0, wait := .gate 77 }] }] }
theorem wit_lane_return : ((machine (handled .divZero)).unit? = some (unitIn (handled .divZero))) ∧ Reaches (unitIn (handled .divZero)) [1] ∧
    Clean (unitIn (handled .divZero)) (unitIn (handled .divZero)).active [1] ∧ (unitIn (handled .divZero)).sp.count 3 < 4095 ∧
    (∀ l ∈ (unitIn (handled .divZero)).active, (Table.get [] (unitIn (handled .divZero)).w.recs l).map (fun r => (r.gate, r.next)) = [(77, 0x10020)]) ∧
    (∀ l ∈ u0.active, Table.get [] u0.w.recs l = []) :=
  ⟨by decide +kernel, reaches_of (by decide +kernel), clean_of (by decide +kernel), by decide +kernel, by decide +kernel, by decide +kernel⟩
/-- R114: RETL returns v1 to v9 in both lanes. -/
theorem test_retl : after (exec (.retl 1) (machine (handled .divZero))) 1 9 = some ⟨.int, 6⟩ := by decide +kernel

/-! ### Widths -/

/-- All 64 lanes live and active. -/
def full (w : Warp) : Warp := { regs w with live := lowMask 64, splits := [{ split0 with paths := [{ path0 with mask := lowMask 64 }] }] }
theorem wit_width : OnceWitness widthForm m0 u0 (.width .always 9) := by
  refine ⟨_, once_of unit_m0 (by decide) rfl ?_ ?_ ?_ ?_⟩ <;> decide +kernel
theorem wit_split_fails : OnceWitness widthForm m0 u0 (.splitw .always .w64 9) := by
  refine ⟨_, once_of unit_m0 (by decide) rfl ?_ ?_ ?_ ?_⟩ <;> decide +kernel
theorem wit_fuse_fails : OnceWitness widthForm m0 u0 (.fusew .always .w128 9) := by
  refine ⟨_, once_of unit_m0 (by decide) rfl ?_ ?_ ?_ ?_⟩ <;> decide +kernel
theorem wit_split : (machine full).unit? = some (unitIn full) ∧ splitFail (machine full) (unitIn full) 32 = 0 ∧ liveKids (unitIn full).w 32 = [0, 1] := by
  decide +kernel
/-- The upper 64 lanes of the role, beside warp 2 in storage, and waiting at a FUSEW or not. -/
def upper (fusing : Bool) : Warp :=
  { full { startWarp hostPlacing 0 0 ⟨2, 64, 256, true, 0⟩ 5 1 1 3 5 ((List.range 256).map fun n => n + 256) with first := 64, pos := 64 } with
    splits := [{ split0 with paths := [⟨0x10000, lowMask 64, if fusing then .fuse .w128 9 0 else .run, none⟩] }] }
/-- The machine. -/
def mf (fusing : Bool) : State := machine full id fun s => { s with warps := s.warps ++ [upper fusing] }
theorem wit_fuse : (mf true).unit? = some (unitIn full) ∧ (mf true).neighbour (unitIn full).w = some (upper true) ∧
    (mf false).neighbour (unitIn full).w = some (upper false) ∧ (upper false).fusing = none ∧ (upper true).fusing = some (0x10000, .w128, 9, 0) ∧
    tangled (unitIn full).w = false ∧ (unitIn full).w.store = (upper true).store ∧ (unitIn full).w.pos + (unitIn full).w.width = (upper true).pos ∧
    (mf true).warp? 5 = some (upper true) := by decide +kernel
/-- R273: the fused warp is 128 lanes wide. -/
theorem test_fusew : (match exec (.fusew .always .w128 9) (mf true) with
    | .next t => t.warps.map fun w => (w.width, w.live == lowMask 128, w.getS 9)
    | .fault _ | .refused _ => []) = [(128, true, ⟨.int, 0⟩)] := by decide +kernel

/-- A warp in legacy-width mode: one split of the lower half, and both. -/
def legacy1 (w : Warp) : Warp := { regs w with legacy := true }
def legacy2 (q : Wait) (w : Warp) : Warp := { regs w with
  legacy := true, live := 3 ||| (3 <<< 32), splits := [split0, { split0 with num := 1, upper := true, paths := [{ path0 with mask := 3 <<< 32, wait := q }] }] }
theorem wit_legacy : u0.w.width = 64 ∧ u0.w.legacy = false ∧ tangled u0.w = false ∧ (machine legacy1).unit? = some (unitIn legacy1) ∧
    (unitIn legacy1).w.splits = [(unitIn legacy1).sp] ∧ (∀ l ∈ lanesOf (unitIn legacy1).w.live, Table.get [] (unitIn legacy1).w.recs l = []) ∧
    (unitIn legacy1).pa.mask &&& ~~~(unitIn legacy1).w.live = 0 ∧ (machine (legacy2 .run)).unit? = some (unitIn (legacy2 .run)) ∧
    (machine (legacy2 .leave)).unit? = some (unitIn (legacy2 .leave)) ∧ (unitIn (legacy2 .leave)).w.splits.map (fun x => (x.num, x.upper)) = [(0, false), (1, true)] := by
  decide +kernel
/-- R298: the halves leave together. -/
theorem test_legacy_leave : (match exec (.legacyLeave .always) (machine (legacy2 .leave)) with
    | .next t => t.warps.flatMap unitsOf
    | .fault _ | .refused _ => []) = [(0, (0x10008 : W64), (3 ||| (3 <<< 32) : LaneMask), Wait.run)] := by decide +kernel

/-! ### Launches and the system -/

/-- A descriptor in memory at 0x20400 (R252, R253): code 0x10000, level 3, one role of one 64-lane warp with 16 registers, grid 1 × 1 × 1. -/
def withDesc (s : State) : State :=
  let ws := [0x10000, 0, 3 + 2 ^ 8, 0, 1 + 2 * 2 ^ 6 + 16 * 2 ^ 8, 0, 0, 0, 1 + 2 ^ 32, 1]
  { (pages s) with mem := ws.zipIdx.foldl (fun m x => m.write (0x20400 + 8 * x.2) (bytesLE x.1 8)) s.mem }
/-- s4 the descriptor's address, s5 m, s6 p, s7 another address, whose words are zeros. -/
def launching (w : Warp) : Warp := ((((regs w).setS 4 (natWord 0x20400)).setS 5 (natWord 2)).setS 6 (natWord 0)).setS 7 (natWord 0x20800)
/-- The machine. -/
def ml : State := machine launching id withDesc
/-- Its unit. -/
def ul : U := unitIn launching
/-- What the unit reads at a descriptor. -/
def descRead (a : W64) : Option (List W64) := (ul.readDesc ml a).1
theorem openOf {s : State} {u : U} (h1 : (u.sp.acc.isEmpty) = true) : FenceOpen s u 15 := by
  have h : u.sp.acc = [] := by simpa using h1
  have c : ∀ k, u.sp.count k = 0 := by intro k; simp [Split.count, h]
  exact ⟨fun _ => ⟨c 0, c 1, c 2⟩, fun _ => ⟨c 3, by simp [h]⟩, fun _ => ⟨c 4, c 5⟩⟩
theorem mayLaunch_ul (a : W64) (h : (ul.readDesc ml a).2 = none) : MayLaunch ml ul a (descRead a) :=
  ⟨Prod.ext rfl h, openOf rfl, by decide +kernel⟩
/-- What the distributor says to a launch at an address. -/
def refusalAt (a : W64) (shaped spawn : Bool) : Option Nat :=
  (ordered ml ul).refusal 0 ⟨a, descRead a, false, none, shaped, spawn, false⟩
theorem wit_spawn : ml.unit? = some ul ∧ spawnForm (.spawn .always false 9 4 2) = some (.always, false, 9, 4, 2) ∧ ul.acting .always ≠ [] ∧
    Reaches ul [9, 2] ∧ CleanS ul [4] ∧ Clean ul (ul.acting .always) [2] ∧ MayLaunch ml ul 0x20400 (descRead 0x20400) ∧
    MayLaunch ml ul 0x20800 (descRead 0x20800) ∧ refusalAt 0x20400 false true = none ∧ refusalAt 0x20800 false true ≠ none ∧ ul.t.depth < 8 :=
  ⟨by decide +kernel, rfl, by decide +kernel, reaches_of (by decide +kernel), cleanS_of (by decide +kernel), clean_of (by decide +kernel),
    mayLaunch_ul _ (by decide +kernel), mayLaunch_ul _ (by decide +kernel), by decide +kernel, by decide +kernel, by decide +kernel⟩
/-- R299: two children, their serials in the lanes. -/
theorem test_spawn : after (exec (.spawn .always false 9 4 2) ml) 0 9 = some ⟨.int, 0⟩ ∧ after (exec (.spawn .always false 9 4 2) ml) 1 9 = some ⟨.int, 1⟩ := by
  decide +kernel
/-- A launch of LAUNCHP of the context: serial 3, m 1, p 2, resolved or not. -/
def shapedLaunch (t : Option Nat) (s : State) : State := { (withDesc s) with
  launches := s.launches ++ [{ hostLaunch with id := 1, serial := 3, shaped := true, m := 1, p := 2, t := t, limit := 2, next := 2, src := .launchp 1 }] }
/-- Whether a handle names a launch, and its T. -/
def namedBy (s : State) (x : W64) : Option (Option Nat) :=
  (s.launches.find? fun l => l.shaped && l.ctx == 0 && l.serial.toNat + l.die * 2 ^ 32 == x.toNat).map fun l => l.t
theorem wit_predicted : OnceWitness specqForm m0 u0 (.specq .always 9) := by
  refine ⟨_, once_of unit_m0 (by decide) rfl ?_ ?_ ?_ ?_⟩ <;> decide +kernel
theorem wit_predicted_launch : CleanS ul [4, 5, 6] ∧ refusalAt 0x20400 true false = none ∧ refusalAt 0x20800 true false ≠ none ∧
    (kdescOf ((descRead 0x20400).getD [])).notify = false ∧ namedBy (machine launching id (shapedLaunch none)) 3 = some none ∧
    namedBy (machine launching id (shapedLaunch (some 1))) 3 = some (some 1) ∧ namedBy ml 3 = none :=
  ⟨cleanS_of (by decide +kernel), by and_intros <;> decide +kernel⟩
/-- R255, R300: an empty descriptor is refused with code 2: bit 63 and the code. -/
theorem test_launchp_refused : afterS (exec (.launchp .always 9 7 5 6) ml) 9 = some ⟨.int, 0x8000000000000002⟩ := by decide +kernel

/-- PL1 with the frame of a trap from PL0: %epc 0x10040, BUSY. -/
def inTrap (w : Warp) : Warp := { regs w with splits := [{ split0 with pl := 1, frame := ⟨0x10040, 0, 0, 0, 0, 4⟩ }] }
theorem wit_system_transfers : m0.unit? = some u0 ∧ u0.sp.pl = 0 ∧ (machine inTrap).unit? = some (unitIn inTrap) ∧ (unitIn inTrap).sp.pl = 1 ∧
    (unitIn inTrap).pa.wait = .run ∧ (unitIn inTrap).pa.mask ≠ 0 := by decide +kernel
/-- R354: RETT goes to %epc at the level of PPL. -/
theorem test_rett : (match exec (.rett .always) (machine inTrap) with
    | .next t => t.warps.flatMap fun w => w.splits.map fun sp => (sp.pl, sp.paths.map fun p => p.pc)
    | .fault _ | .refused _ => []) = [(0, [0x10040])] := by decide +kernel
/-- Queue 1 of the context: its table entry at 0x21040, a ring of 16 entries at 0x22000, tail 1 and head 0; entry 0 names the descriptor; s4 the
queue's number, s5 the address of an entry. -/
def queued (s : State) : State :=
  let m := (withDesc s).mem
  let m := [0x22000, 4 + 2 ^ 8, 1, 0].zipIdx.foldl (fun m x => m.write (0x21040 + 8 * x.2) (bytesLE x.1 8)) m
  let c : Ctx := { hostCtx with vqtab := 0x21000, vqcount := 2, queues := [(1, ⟨2, false, none, true, 0, 0, 0, none⟩)] }
  ({ (pages s) with mem := m.write 0x22000 (bytesLE 0x20400 8) } : State).setCtx 0 c
/-- s4 and s5 for VQPUSH. -/
def pushing (w : Warp) : Warp := { (((regs w).setS 4 (natWord 1)).setS 5 (natWord 0x20400)) with splits := [{ split0 with pl := 1 }] }
/-- The machine. -/
def mq : State := machine pushing id queued
/-- Its unit. -/
def uq : U := unitIn pushing
/-- Its queue's table entry. -/
def q1 : QTable := match mq.qtable 0 1 with | .ok q => q | .error _ => qtableOf []
theorem wit_vqpush : mq.unit? = some uq ∧ CleanS uq [4, 5] ∧ (uq.w.getS 4).pay.toNat < (mq.ctx 0).vqcount ∧ (uq.w.getS 5).pay.toNat % 64 = 0 ∧
    (match mq.qtable 0 1 with | .ok q => q == q1 | .error _ => false) = true ∧ q1.privileged = false ∧
    (match mq.pushReads uq 0x20400 1 q1 with | .ok _ => true | .error _ => false) = true ∧ q1.waiting < q1.size ∧ uq.speculative = false ∧
    FenceOpen mq uq 15 ∧ (mq.ctx 0).en = true ∧ mq.l1 = [] ∧ (mq.queuesIn 1).length < 16384 :=
  ⟨by decide +kernel, cleanS_of (by decide +kernel), by
    refine ⟨?_, ?_, ?_, ?_, ?_, ?_, ?_, openOf rfl, ?_⟩ <;> decide +kernel⟩

/-! ### Traps -/

/-- A thread trap table at 0x20800 and a lane handler table at 0x21000, whose entries name 0x10100; the task's %htab and the context's %ttab. -/
def tables (s : State) : State :=
  let at_ := fun (m : Mem) (k : Nat) => m.write k (bytesLE 0x10100 8)
  ({ (pages s) with mem := at_ (at_ s.mem (0x20800 + 8 * 16)) (0x21000 + (17 * 256 + 1 * 16 + 1) * 8) } : State).setCtx 0 { hostCtx with ttab := 0x20800 }
/-- The task with the lane handler table. -/
def handlers (t : Task) : Task := { t with htab := 0x21000 }
/-- v1 divided by v3, which is 0. -/
def dividing (w : Warp) : Warp := ((regs w).setV 0 3 (natWord 0)).setV 1 3 (natWord 0)
/-- The machine. -/
def mz : State := machine dividing handlers tables
/-- Its unit. -/
def uz : U := unitIn dividing handlers
/-- Whether an entry is read as 0x10100. -/
def readsEntry (r : Except XFault W64) : Bool := match r with | .ok e => e == 0x10100 | .error _ => false
theorem wit_thread_trap : mz.unit? = some uz ∧ uz.w.txs = [] ∧ ¬frameBusy uz ∧ (mz.ctx 0).ttab ≠ 0 ∧ readsEntry (trapEntry mz uz 16) = true ∧
    codeAddress 0x10100 := ⟨by decide +kernel, by decide +kernel, by unfold frameBusy; decide +kernel, by decide +kernel, by decide +kernel,
    by unfold codeAddress; decide⟩
theorem wit_thread_trap_tx : (unitIn (inTx 1 0)).active = [0] ∧ ((unitIn (inTx 1 0)).w.tx? 0).isSome = true := by decide +kernel
/-- R345: TRAP takes the split to its handler at PL1, with %epc at the unit and BUSY. -/
theorem test_trap : (match exec (.trap .always 9) mz with
    | .next t => t.warps.flatMap fun w => w.splits.map fun sp => (sp.pl, sp.frame.epc, sp.frame.tval, sp.frame.estat, sp.paths.map fun p => p.pc)
    | .fault _ | .refused _ => []) = [(1, 0x10000, 9, 4, [0x10100])] := by decide +kernel
theorem wit_double_trap : (machine inTrap).unit? = some (unitIn inTrap) ∧ frameBusy (unitIn inTrap) ∧ (m0.ctx 0).ttab = 0 ∧ u0.w.txs = [] ∧
    ¬codeAddress 0x10101 := ⟨by decide +kernel, by unfold frameBusy; decide +kernel, by decide +kernel, by decide +kernel, by unfold codeAddress; decide⟩
theorem wit_lane_trap : divForm (.idiv .always .s 9 1 3) = some (0x23, .always, 9, 1, 3) ∧ mz.unit? = some uz ∧ Reaches uz [9, 1, 3] ∧
    Clean uz (uz.acting .always) [1, 3] ∧ uz.acting .always = uz.active ∧ uz.active = [0, 1] ∧
    (∀ l ∈ uz.active, (uz.w.getV l 1).tag = .int ∧ (uz.w.getV l 3).tag = .int ∧ (uz.w.getV l 3).pay = 0) ∧ uz.t.htab ≠ 0 ∧
    readsEntry (uz.read8 mz 0 (divEntry uz .int .int)) = true ∧ u0.t.htab = 0 :=
  ⟨rfl, by decide +kernel, reaches_of (by decide +kernel), clean_of (by decide +kernel), by and_intros <;> decide +kernel⟩
/-- R112: the handler finds A in v248. -/
theorem test_lane_trap : after (exec (.idiv .always .s 9 1 3) mz) 1 248 = some ⟨.int, 6⟩ := by decide +kernel

/-- A role of 16 registers; v2 of lane 1 is POISON. -/
def small (w : Warp) : Warp := { (regs w).setV 1 2 ⟨.poison, 1⟩ with nregs := 16 }
theorem wit_operand_checks : (machine small).unit? = some (unitIn small) ∧ regIndex (unitIn small).w.nregs 17 = none ∧ Reaches (unitIn small) [3, 1, 2] ∧
    (∃ f, integerForm (.iadd 3 1 2) = some f ∧ (((unitIn small).acting f.guard).filter fun l => f.srcs.any fun r => ((unitIn small).w.getV l r).tag == .poison) = [1] ∧
      f.srcs.find? (fun r => [1].any fun l => ((unitIn small).w.getV l r).tag == .poison) = some 2) ∧
    (∃ f, scalarForm (.time ⟨0, false⟩ 3) = some f ∧ Reaches u0 f.named ∧ u0.acting f.guard = []) :=
  ⟨by decide +kernel, by decide, reaches_of (by decide +kernel), ⟨_, rfl, by decide +kernel, by decide +kernel⟩, ⟨_, rfl, reaches_of (by decide +kernel), by decide +kernel⟩⟩

/-! ### More words -/

/-- The instruction of a long unit, written field by field, where the words decode. -/
def unitOf (w0 w1 : W32) : Option Instr := (decodeWords 0 .start [w0, w1]).toOption.map fun x => x.1.instr
/-- R54: SALU.shr s3, s1, s2: OP8 0x68, MOD8 6. -/
theorem test_word_salu : unitOf 0b00_0_111_00000001_00000011_01101000_01#32 0b00000000_00000110_00000000_00000010#32 = some (.salu .always .shr 3 1 2) := by
  decide +kernel
/-- R54: SHFL.xor v3, v1, 5: SUB 0b11, MOD8[0] = 1, B 5. -/
theorem test_word_shfl : unitOf 0b11_0_111_00000001_00000011_01100000_01#32 0b00000000_00000001_00000000_00000101#32 =
    some (.shfl .always .xor true 3 1 5) := by decide +kernel
/-- R55: ATOM exchange of 8 bytes: D 0x09, SUB 0b11, A v1, B v2, IMM24 −8. -/
theorem test_word_atom : unitOf 0b11_0_111_00000001_00001001_01111011_01#32 0b111111111111111111111000_00000010#32 =
    some (.atom .always .xchg .b8 1 2 0xFFFFF8) := by decide +kernel
/-- R57: ACPY from the scratchpad to memory on timeline 3: SUB 0b01; s4, s5, s6. -/
theorem test_word_acpy : unitOf 0b01_0_111_00000100_00000011_10010000_01#32 0b00000000_00000000_00000110_00000101#32 =
    some (.acpy .always .s2m 3 4 5 6) := by decide +kernel
/-- R57: DRAIN of BF16 (MOD8[2:0] = 1) to memory (MOD8[3] = 1): D s4 the handle, A s6. -/
theorem test_word_drain : unitOf 0b00_0_111_00000110_00000100_10101001_01#32 0b00000000_00001001_00000000_00000000#32 =
    some (.drain .always .bf16 true 4 6) := by decide +kernel
/-- R54: BRD to the lanes: SUB 0b01, D v9, A b63. -/
theorem test_word_brd : unitOf 0b01_0_111_00111111_00001001_01101010_01#32 0 = some (.brd .always true 9 63) := by decide +kernel
/-- R58: BRX v7 under p0. -/
theorem test_word_brx : unitOf 0b00_0_000_00000111_00000000_10110001_01#32 0 = some (.brx ⟨0, false⟩ 7) := by decide +kernel
/-- R58: FUSEW to 64 lanes: SUB 0b10, D s9. -/
theorem test_word_fusew : unitOf 0b10_0_111_00000000_00001001_10110110_01#32 0 = some (.fusew .always .w64 9) := by decide +kernel
/-- R58: SPAWN.UNI v9, s4, v2. -/
theorem test_word_spawn : unitOf 0b01_0_111_00000100_00001001_10111010_01#32 0b00000000_00000000_00000000_00000010#32 =
    some (.spawn .always true 9 4 2) := by decide +kernel
/-- R58: SYSRD s5 of register 3: OP8 0xD0. -/
theorem test_word_sysrd : unitOf 0b00_0_111_00000000_00000101_11010000_01#32 3 = some (.sysrd .always 5 3) := by decide +kernel
/-- R56: an empty set of FENCE does not decode. -/
theorem test_word_empty_fence : unitOf 0b00_0_111_00000000_00000000_01111101_01#32 0b100_1111_0000#32 = none := by decide +kernel
/-- R59: the filler word 0x000003FD does not decode. -/
theorem test_word_filler : unitOf 0x000003FD#32 0 = none := by decide +kernel

/-! ### Events -/

/-- The machine with a second launch of two blocks, of which none is placed, on a core with room, or none. -/
def mp : State := { m0 with launches := [hostLaunch, { hostLaunch with id := 7, next := 0, limit := 2, count := 2, kd := { hostDesc with code := 0x20000, accTiles := 0, blockRegs := 0, roles := [⟨2, 64, 64, false, 0⟩] } }] }
/-- That launch. -/
def l7 : Launch := (mp.launches.getLast?).getD hostLaunch
theorem goes_of {s : State} {l : Launch} {cs : List Nat} {c : Nat} (h : (decide (c ∈ s.coresFor l cs) && (l.kd.footprint 0).fits (s.freeOn c) &&
    (s.coresFor l cs).all fun x => !(l.kd.footprint 0).fits (s.freeOn x) || decide ((s.freeOn x).regs ≤ (s.freeOn c).regs)) = true) : Goes s l cs c := by
  simp only [Bool.and_eq_true, decide_eq_true_eq, List.all_eq_true, Bool.or_eq_true, Bool.not_eq_true'] at h
  obtain ⟨⟨h1, h2⟩, h3⟩ := h
  refine ⟨h1, h2, fun x hx hf => ?_⟩
  rcases h3 x hx with h | h
  · rw [hf] at h; cases h
  · exact h
theorem wit_task_place : (mp.part 0).enabled = true ∧ mp.headLaunch 0 = some l7 ∧ mp.collectorPlaces 0 = [] ∧ l7.kd.cohort = 0 ∧
    Goes mp l7 (mp.part 0).cores 1 ∧ m0.headLaunch 0 = none ∧ m0.collectorPlaces 0 = [] :=
  ⟨by decide +kernel, by decide +kernel, by decide +kernel, by decide +kernel, goes_of (by decide +kernel), by decide +kernel, by decide +kernel⟩
/-- R257, R258: block 0 goes to core 1, two warps with their index in bits 15 to 8 of s2. -/
theorem test_task_place : (match exec (.taskPlace 0) mp with
    | .next t => (t.tasks.map fun y => (y.core, y.block), t.warps.map fun w => (w.getS 2).pay.toNat / 256 % 256, t.launches.map fun l => l.next)
    | .fault _ | .refused _ => ([], [], [])) = ([(0, 0), (1, 0)], [0, 0, 1], [1, 1]) := by decide +kernel
/-- A task without warps. -/
def mdone : State := { m0 with warps := [] }
theorem wit_task_end : mdone.task? task0.id = some task0 ∧ task0.cohort = none ∧ task0.spec ≠ .running ∧ mdone.taskDone task0 = true ∧
    m0.task? task0.id = some task0 ∧ m0.taskDone task0 = false := by decide +kernel
/-- A warp whose turn is over, with two splits, both of which the last step has found able to issue. -/
def turned (w : Warp) : Warp := { regs w with able := [0, 1], turn := 64, splits := [split0, { split0 with num := 1, acc := [⟨9, 0, false⟩] }] }
theorem wit_warp_events : (machine turned).warp? (turned warp0).id = some (turned warp0) ∧ 64 ≤ (turned warp0).turn ∧
    (∃ sp ∈ (turned warp0).half false, sp.num ∈ (turned warp0).able) ∧ (∀ x ∈ (turned warp0).half false, x.num ∈ (turned warp0).able → x.skipped < 64) ∧
    m0.warp? u0.w.id = some u0.w ∧ u0.w.turn < 64 := ⟨by decide +kernel, by decide, ⟨split0, by decide +kernel, by decide⟩, by decide +kernel,
    by decide +kernel, by decide⟩

/-- The machine with queue 1 rung, as far as its doorbell and its map. -/
def mrung (q : VQueue) : State := mq.setQueue 0 1 q
theorem wit_queue : takes mq 0 1 ∧ ¬takes mq 0 0 ∧ (match mq.qtable 0 1 with | .ok q => q == q1 | .error _ => false) = true ∧ q1.ok = true ∧
    (mq.ctx 0).classMask.getLsbD q1.cls = true ∧ q1.waiting ≤ q1.size ∧ q1.waiting ≠ 0 ∧ (mq.ctx 0).en = true ∧ 1 < (mq.ctx 0).vqcount ∧
    (mq.queuesIn 1).length < 16384 ∧ (m0.ctx 0).vqcount ≤ 1 :=
  ⟨by unfold takes; decide +kernel, by unfold takes; decide +kernel, by and_intros <;> decide +kernel⟩
/-- Queue 1 with an entry of 64 bytes at its head, which names the descriptor at 0x20400. -/
def mentry : State := { mq with mem := [0x20400, 0, 0, 0, 0, 0, 0, 0].zipIdx.foldl (fun m x => m.write (0x22000 + 8 * x.2) (bytesLE x.1 8)) mq.mem }
/-- What the device reads there. -/
def devWords (s : State) (pl : Nat) (a : W64) (n : Nat) : List W64 := match s.deviceWords 0 pl a n with | .ok ws => ws | .error _ => []
theorem wit_queue_entry : (match mentry.deviceWords 0 1 (q1.slot q1.head) 8 with | .ok _ => true | .error _ => false) = true ∧
    (qentryOf (devWords mentry 1 (q1.slot q1.head) 8)).desc = 0x20400 ∧ (qentryOf (devWords mentry 1 (q1.slot q1.head) 8)).wait = false ∧
    (match mentry.deviceWords 0 0 0x20400 16 with | .ok _ => true | .error _ => false) = true ∧
    mentry.refusal 0 ⟨0x20400, some (devWords mentry 0 0x20400 16), false, none, false, false, false⟩ = none := by decide +kernel
/-- R325, R326: the entry becomes a launch of one block. -/
theorem test_queue_entry : (match exec (.queueEntryAccept 0 1) mentry with
    | .next t => t.launches.map fun l => (l.desc, l.next, l.limit)
    | .fault _ | .refused _ => []) = [(0, 1, 1), (0x20400, 0, 1)] := by decide +kernel
theorem wit_queue_map : (((mrung ⟨1, false, none, true, 0, 0, 0, none⟩).ctx 0).queue 1).rung = true ∧ (((mrung ⟨1, false, none, true, 0, 0, 0, none⟩).ctx 0).queue 1).tier ≠ 2 ∧
    ((mrung ⟨1, false, none, true, 0, 0, 0, none⟩).ctx 0).en = true ∧ ((mrung ⟨1, false, none, true, 0, 0, 0, none⟩).queuesIn 2).length < 48 := by decide +kernel
/-- A launch that is over, and a resolved one of LAUNCHP. -/
def lover : Launch := { hostLaunch with id := 9, src := .queue 1 0 true }
def lpred : Launch := { hostLaunch with id := 8, shaped := true, t := some 1, src := .launchp 1, notified := false }
/-- The machine with both. -/
def mover : State := { m0 with launches := [hostLaunch, lover, lpred] }
theorem wit_launch_events : mover.launch? lover.id = some lover ∧ mover.launchOver lover = true ∧ lover.src = .queue 1 0 true ∧
    mover.launch? lpred.id = some lpred ∧ lpred.src = .launchp 1 ∧ lpred.t ≠ none ∧ lpred.notified = false ∧
    (∀ t ∈ mover.tasks, t.launch = lpred.id → t.spec ≠ .squashed) ∧ mover.launch? hostLaunch.id = some hostLaunch ∧ mover.launchOver hostLaunch = false := by
  decide +kernel

/-- A packet of context 0 from core port 0 to memory port m. -/
def pkt (v : VC) (m : Nat) : Packet := ⟨0, [], 1, 0, 0, m, 0, v, 64, 4, false, .none⟩
/-- The machine with one packet at output 0. -/
def mpkt (p : Packet) : State := { m0 with nets := [(0, { NetOut.fresh with queue := [p] })] }
theorem wit_network : (m0.net 0).queue = [] ∧ ((mpkt (pkt .rsp 0)).net 0).queue = [pkt .rsp 0] ∧ vcWeighed (pkt .rsp 0).vc = false ∧
    (mpkt (pkt .rsp 0)).crosses (pkt .rsp 0) = true ∧ (mpkt (pkt .rsp 3)).crosses (pkt .rsp 3) = false ∧ vcWeighed (pkt .bulk 0).vc = true ∧
    0 < creditOf (m0.dev.wreq, m0.dev.wbulk, m0.dev.wupd) (vcNum VC.bulk - 3) ∧
    1024 ≤ (Table.get .fresh m0.rates ((pkt .bulk 0).ctx * 72 + (pkt .bulk 0).port)).bucket ∧ (m0.part 0).allot = 0 ∧
    (Table.get RateCtl.fresh ({ m0 with rates := [(0, ⟨512, 1000⟩)] } : State).rates 0).bucket < 1024 ∧ (m0.rates.map fun e => e.1).Nodup := by decide +kernel
/-- R306: a packet that the matrix does not let through is counted. -/
theorem test_isolation : (match exec (.packetSend 0) (mpkt (pkt .rsp 3)) with
    | .next t => some ((t.part 0).isolcnt, (t.net 0).queue.length)
    | .fault _ | .refused _ => none) = some (1, 0) := by decide +kernel
/-- R320: the rates recover by 16, to at most 1,024. -/
theorem test_recovery : (match exec .rateRecovery { m0 with rates := [(0, ⟨512, 1000⟩), (3, ⟨1020, 5⟩)] } with
    | .next t => t.rates
    | .fault _ | .refused _ => []) = [(0, ⟨528, 1000⟩), (3, ⟨1024, 5⟩)] := by decide +kernel
/-- A request of a class to memory port 0. -/
def ask (cls : Nat) : Packet := { pkt .req 0 with cls := cls }
/-- Two classes wait at a memory port, of weights 1 and 2, and class 3 of weight 0. -/
def mhbm (last run : Nat) : State :=
  { m0 with hbm := [(0, ⟨[ask 3, ask 1, ask 0, ask 1], last, run⟩)], classes := [(1, ⟨0xFFFF, 2⟩), (3, ⟨0xFFFF, 0⟩)] }
theorem wit_hbm : (Table.get .fresh m0.hbm 0).waiting = [] ∧ (Table.get .fresh (mhbm 1 1).hbm 0).waiting ≠ [] ∧
    (∀ x ∈ (Table.get .fresh (mhbm 1 1).hbm 0).waiting, x.cls < 32) ∧ ask 1 ∈ (Table.get .fresh (mhbm 1 1).hbm 0).waiting ∧
    1 < (Table.get .reset (mhbm 1 1).classes 1).weight ∧ (Table.get .reset (mhbm 1 1).classes 3).weight = 0 := by decide +kernel
/-- The classes that wait at port 0 after a step, and those whose responses wait at its requester. -/
def servedAt (r : Host.Outcome State Fault Refusal) : List Nat × List Nat :=
  match r with
  | .next t => ((Table.get .fresh t.hbm 0).waiting.map fun x => x.cls, (t.net 64).queue.map fun x => x.cls)
  | .fault _ | .refused _ => ([], [])
/-- R315: class 1 has two requests in a row, then class 0 is served. -/
theorem test_hbm : servedAt (exec (.hbmRequestServe 0) (mhbm 1 1)) = ([3, 0, 1], [1]) ∧ servedAt (exec (.hbmRequestServe 0) (mhbm 1 2)) = ([3, 1, 1], [0]) := by
  decide +kernel
/-- An output at which a response of partition 0 and requests of partitions 0, 1 and of firmware wait; REQ was sent last, for partition 0. -/
def mout : State := { m0 with nets := [(0, { NetOut.fresh with
  credits := (1, 0, 0), last := 0, lastPart := [16, 16, 16, 0, 16, 16]
  queue := [pkt .req 0, { pkt .req 0 with part := 1 }, { pkt .req 0 with part := 16 }, pkt .rsp 0] })] }
theorem wit_arbitration : (mout.net 0).queue ≠ [] ∧ 0 < mout.dev.wreq ∧ 0 < mout.dev.wbulk ∧ 0 < mout.dev.wupd := by decide +kernel
/-- R317: the response goes before the requests. -/
theorem test_arbitration : (match exec (.packetSend 0) mout with | .next t => (t.net 0).queue.map fun p => p.vc | .fault _ | .refused _ => []) =
    [.req, .req, .req] := by decide +kernel

/-- Stage 2 of function 0: guest-physical 0 to 1 GiB at physical 0, readable and writable (R330); its domain 5, its launch table at 0x32000
with one entry for the descriptor from packages 0 and 1, of at most 4 blocks (R341). -/
def staged2 (s : State) : State :=
  let m := [(0x30000, 0x31001), (0x31000, 0x1F), (0x32000, 0x20400), (0x32008, 0x400010000), (0x32010, 0)].foldl
    (fun (m : Mem) (x : Nat × Nat) => m.write x.1 (bytesLE x.2 8)) (withDesc s).mem
  let dev : Dev := { s.dev with wen := true, wsize := 16, evlog := 6 }
  ({ (pages s) with mem := m, dev := dev, parts := [(0, { hostPart with cap := 97280, tagPages := [1] })] } : State).setCtx 0 { hostCtx with s2en := true, s2root := 0x30000, domten := 5, ltab := 0x32000, ltcount := 1 }
/-- The machine. -/
def m2 : State := machine regs id staged2
/-- Whether stage 2 of function 0 lets an extent through. -/
def stage2Passes (s : State) (wr : Bool) (a n : Nat) : Bool := match s.guestPages 0 wr a n with | .ok _ => true | .error _ => false
theorem wit_window : m2.dev.wen = true ∧ 0x22000 + accessSize 8 none ≤ m2.dev.wsize * 65536 ∧ stage2Passes m2 false 0x22000 8 = true ∧ m2.mem.tags = [] ∧
    m2.mem.marks = [] ∧ stage2Passes m2 true 0x22000 1 = true ∧ (m2.ctx 0).dirtyEn = false ∧ m2.mem.wf = true ∧ (∀ y ∈ m2.l1, y.core < 512) ∧
    stage2Passes m2 false 0x40000000 8 = false ∧ m0.dev.wen = false := by decide +kernel
theorem wit_fabric : m2.domainVf 5 = some 0 ∧ m2.domainVf 6 = none ∧ (m2.ctx 0).fmask.getLsbD 3 = false ∧ m2.ltMatch 0 0x20400 2 1 = none ∧
    m2.ltMatch 0 0x20400 1 4 = some ⟨0x20400, 0, 1, 4, 0⟩ ∧ (match m2.deviceWords 0 1 0x20400 16 with | .ok _ => true | .error _ => false) = true ∧
    m2.refusal 0 ⟨0x20400, some (devWords m2 1 0x20400 16), true, some (4, 1, 1), false, false, false⟩ = none := by decide +kernel
/-- R339: a write of the window is read back at guest-physical 0x22005; a read outside stage 2 is all ones and posts an event of type 1. -/
theorem test_window : (match exec (.hostWindowAccess 0x22005 1 (some [0xAB])) m2, exec (.hostWindowAccess 0x22000 2 none) { m2 with dev := { m2.dev with wgpa := 0x40000000 } } with
    | .next t, .next z => (t.mem.byte 0x22005, z.dev.reply, z.dev.evwait.map fun e => (e.type, e.addr))
    | _, _ => (0, none, [])) = (0xAB, some [0xFF, 0xFF], [(1, 0x40022000)]) := by decide +kernel
/-- R341: a launch of 4 blocks. -/
theorem test_launch_packet : (match exec (.fabricLaunchPacket 5 0x20400 1 4) m2 with
    | .next t => t.launches.map fun l => (l.desc, l.limit)
    | .fault _ | .refused _ => []) = [(0, 1), (0x20400, 4)] := by decide +kernel

/-- Partition 1 in a state of a Castling that gives up core port 1 and memory port 1, and takes memory port 2. -/
def castling (k : Nat) (f : Part → Part := id) : State :=
  m0.setPart 1 (f { Part.reset with cports := 6, mports := 2, scports := 4, smports := 4, matrix := 6, state := k, cap := 97280 })
theorem wit_castling : ((castling 0).part 1).state = 0 ∧ ((castling 1).part 1).state = 1 ∧ (castling 1).castlingRefusal 1 = 0 ∧
    (castling 1 fun p => { p with smports := 1 }).castlingRefusal 1 = 1 ∧ (castling 1 fun p => { p with smports := 0 }).castlingRefusal 1 = 3 ∧
    ((castling 3).part 1).state = 3 ∧ ((castling 3).part 1).since + ((castling 3).part 1).cgrace * 1000 ≤ ({ castling 3 with nowNs := 100000 } : State).nowNs ∧
    (∀ t ∈ (castling 3).departing 1, ∃ y ∈ (castling 3).stores, y.task = t.id) ∧ (castling 3).nowNs < ((castling 3).part 1).since + ((castling 3).part 1).cgrace * 1000 ∧
    (∀ t ∈ (castling 3).tasks, ¬(t.core < 512 ∧ ((((castling 3).part 1).cports &&& ~~~((castling 3).part 1).scports).getLsbD (t.core / 8)) = true)) ∧
    ((castling 4).part 1).mports &&& ~~~((castling 4).part 1).smports ≠ 0 ∧ ((castling 4).part 1).state = 4 ∧ ((castling 5).part 1).state = 5 := by decide +kernel
/-- Partition 0 gives up core port 0, where its task is, for port 1, and its grace is over. -/
def mleaving : State := { (m0.setPart 0 { (m0.part 0) with cports := 3, scports := 2, smports := 1, state := 3 }) with nowNs := 100000 }
theorem wit_migration : mleaving.departing 0 = [task0] ∧ task0.cohort = none ∧ task0.core < 512 ∧ (haltedOn mleaving 0).saveable false task0 = true ∧
    8 ∈ (mleaving.part 0).cores ∧ (without (haltedOn mleaving 0) task0).takesBack task0 (mleaving.warps.filter fun w => w.task == task0.id) 8 = true ∧
    (mleaving.part 0).since + (mleaving.part 0).cgrace * 1000 ≤ mleaving.nowNs := by decide +kernel
/-- R335: the task goes on at another core, with its warp. -/
theorem test_migration : (match exec (.castlingCgraceExpiry 0) mleaving with
    | .next t => (t.tasks.map fun x => decide (8 ≤ x.core), t.warps.map fun w => (w.getV 1 1, w.held))
    | .fault _ | .refused _ => ([], [])) = ([true], [(natWord 6, false)]) := by decide +kernel
/-- R332: the commit takes the shadow sets. -/
theorem test_castling_commit : (match exec (.castlingCommit 1) (castling 5) with
    | .next t => some ((t.part 1).cports, (t.part 1).mports, (t.part 1).state, (t.part 1).done)
    | .fault _ | .refused _ => none) = some (4, 4, 0, true) := by decide +kernel
/-- R320: 9,600 in all, and no more. -/
theorem test_allot : (match exec (.allotWrite 1 9600) m0, exec (.allotWrite 1 9601) m0 with
    | .next t, .next z => ((t.part 1).allot, (z.part 1).allot, (z.part 1).allotErr)
    | _, _ => (0, 0, false)) = (9600, 0, true) := by decide +kernel

/-- A context of function 0 with its stage 2, changed. -/
def mctx (f : Ctx → Ctx) (h : State → State := id) : State := let s := h m2; s.setCtx 0 (f (s.ctx 0))
theorem wit_context : (m2.ctx 0).en = true ∧ ((mctx fun c => { c with pinned := false, savesize := 1, savegpa := 0x100000 }).ctx 0).pinned = false ∧
    (∀ g ∈ ((mctx fun c => { c with savesize := 1, savegpa := 0x100000 }).ctx 0).savePages 1, m2.pageOk 0 true g = true) ∧
    m2.pageOk 0 true 0x40000000 = false ∧ (m2.ctx 0).waiters = [] ∧ (m2.ctx 0).saveState = 1 ∧ (m2.ctx 0).ladder = none ∧ (m2.ctx 0).slice = 0 ∧
    ((mctx fun c => { c with slice := 1 }).ctx 0).since + ((mctx fun c => { c with slice := 1 }).ctx 0).slice * 1000 ≤ 1000 ∧
    ((mctx fun c => { c with ladder := some (0, 0) }).ctx 0).grace * 1000 ≤ 100000 ∧
    ((mctx fun c => { c with ladder := some (0, 1) }).ctx 0).kill * 1000 ≤ 1000000 ∧
    allSaveable (mctx (fun c => { c with saveState := 2 }) fun s => { s with tasks := [], warps := [] }) 0 = true ∧
    allSaveable (mctx (fun c => { c with saveState := 2, ladder := some (0, 0) }) id) 0 = false ∧
    (m2.ctx 0).pinned = true ∧ quiet (mctx id fun s => { s with launches := [] }) 0 ∧
    ((m2.allBack .empty (m2.openCores 0)).map fun z => (z.ctx 0).fmask) = some 0 := by
  unfold quiet
  and_intros <;> decide +kernel
/-- A restore of an area of no pages, which the digest of no bytes names. -/
def mrestore (d : BitVec 512) : State := mctx fun c => { c with saveState := 3, savesize := 0, digest := d }
theorem areaRead_of_none {s : State} {v : Nat} (h : s.areas = []) (h2 : (s.ctx v).savesize = 0) : (s.areaRead v).2 = [] := by
  simp [State.areaRead, h, h2, State.readArea]
theorem mrestore_area (d : BitVec 512) : ((mrestore d).areaRead 0).2 = [] := areaRead_of_none rfl rfl
theorem wit_restore : ((mrestore (digestOf [])).ctx 0).digest = digestOf ((mrestore (digestOf [])).areaRead 0).2 ∧
    ((mrestore 0).ctx 0).pinned = true ∧ ((mrestore 0).ctx 0).en = true ∧ (∀ g ∈ ((mrestore 0).ctx 0).savePages 0, m2.pageOk 0 false g = true) ∧
    (((mctx fun c => { c with saveState := 3, savesize := 1, savegpa := 0x40000000 }).ctx 0).savePages 1).find? (fun g => !m2.pageOk 0 false g) = some 0x40000000 :=
  ⟨by rw [mrestore_area]; rfl, by decide +kernel, by decide +kernel, by decide +kernel, by decide +kernel⟩
/-- R362: a restore whose digest is not that of the area posts an event of type 10 with detail 1. -/
theorem test_restore_refused : (match exec (.cmdRestore 0) (mrestore 0) with
    | .next t => some ((t.ctx 0).saveState, t.dev.evwait.map fun e => (e.type, e.detail))
    | .fault _ | .refused _ => none) = some (0, [(10, 1)]) := by decide +kernel
/-- FIPS 180-4: the digest of "abc" begins with the word 0xDDAF35A193617ABA and ends with 0x2A9AC94FA54CA49F. -/
theorem test_sha512 : (sha512 [0x61, 0x62, 0x63]).take 8 = bytesBE 0xDDAF35A193617ABA 8 ∧ (sha512 [0x61, 0x62, 0x63]).drop 56 = bytesBE 0x2A9AC94FA54CA49F 8 := by
  decide +kernel
/-- R337: a kill leaves nothing of the context, and an event of type 6. -/
theorem test_kill : (match exec (.cmdKill 0) m2 with
    | .next t => some (t.tasks.length, t.launches.length, (t.ctx 0).saveState, t.dev.evwait.map fun e => e.type)
    | .fault _ | .refused _ => none) = some (0, 0, 0, [6]) := by decide +kernel

/-- A unit that waits on stage 2 with REF 5, or after HCALL. -/
def waiting (q : Wait) (w : Warp) : Warp := { regs w with splits := [{ split0 with paths := [{ path0 with wait := q }] }] }
/-- The machine with a waiter of REF 5. -/
def mwait (q : Wait) (x : Waiter) : State := (machine (waiting q) id staged2).setCtx 0 { m2.ctx 0 with waiters := [(5, x)], hvval := 99 }
theorem wit_hypervisor : (m2.ctx 0).waiter 5 = none ∧ ((mwait (.stage2 5) (.unit 0x40 1 3)).ctx 0).waiter 5 = some (.unit 0x40 1 3) ∧
    ((mwait (.stage2 5) (.unit 0x40 1 3)).waitingUnit 0 5).isSome = true ∧ ((mwait .run (.doubleTrap 2)).ctx 0).waiter 5 = some (.doubleTrap 2) ∧
    ((mwait (.hcall 5) .hcall).ctx 0).waiter 5 = some .hcall ∧ ((mwait (.hcall 5) .hcall).ctx 0).en = true ∧
    ({ m2 with dev := { m2.dev with evwait := [⟨5, 0, 0, 0, 1, []⟩] } } : State).dev.evwait = [⟨5, 0, 0, 0, 1, []⟩] ∧ 6 ≤ m2.dev.evlog ∧
    ¬2 ^ m2.dev.evlog ≤ (m2.dev.evtail + 2 ^ 32 - m2.dev.evhead) % 2 ^ 32 ∧ m2.dev.evwait = [] := by decide +kernel
/-- R356: HVVAL arrives in s56, and the split goes on. -/
theorem test_hcall_answer : (match exec (.hvActionHcall 0 5) (mwait (.hcall 5) .hcall) with
    | .next t => t.warps.map fun w => (w.getS 56, w.splits.map fun sp => sp.paths.map fun p => p.wait)
    | .fault _ | .refused _ => []) = [(⟨.int, 99⟩, [[.run]])] := by decide +kernel
/-- R358: the record's TYPE and ADDR in host memory. -/
theorem test_event_post : (match exec .eventRingPost { m2 with dev := { m2.dev with evbase := 0x1000, evwait := [⟨1, 0, 7, 0xABC, 2, []⟩] } } with
    | .next t => some (t.mem.read (16 * 2 ^ 48 + 0x1000) 8, t.mem.read (16 * 2 ^ 48 + 0x1008) 8, t.dev.evtail, t.dev.evwait.length)
    | .fault _ | .refused _ => none) = some (0x700000001, 0xABC, 1, 0) := by decide +kernel

/-- A portable image of one empty section (R74), known to the cache or not. -/
def image : List Byte := [0x53, 0x57, 0x4E, 0x4B, 1, 0, 3, 0, 0, 0, 0, 0, 1, 0, 0, 0, 40, 0, 0, 0, 0, 0, 0, 0, 1, 0, 0, 0, 0, 0, 0, 0, 40, 0, 0, 0, 0, 0, 0, 0]
theorem wit_images : imageFormed image = true ∧ imageFormed (image.take 39) = false ∧ m0.dev.images = [] := by decide +kernel
theorem wit_image_known : ∃ s : State, s.dev.images = [entryFor image [] none 0 0] :=
  ⟨{ m0 with dev := { m0.dev with images := [entryFor image [] none 0 0] } }, rfl⟩
/-- A clean L1 line of core 0. -/
def cleanLine : L1Line := ⟨0, 0, 0x200, .empty, 0, none, 0, 0⟩
theorem wit_device : (m0.part 0).state = 0 ∧ m0.warp? 2 = some u0.w ∧ u0.w.width = 64 ∧ u0.w.nregs = 256 ∧ m0.mem.wf = true ∧
    m0.taggedLine 0x200 = true ∧ m0.taggedLine 0x400 = false ∧ ({ m0 with l1 := [cleanLine] } : State).l1 = [cleanLine] ∧ cleanLine.isDirty = false ∧
    (∃ t ∈ m0.tasks, t.core = 0) ∧ (∀ t ∈ m0.tasks, t.core ≠ 5) ∧ 5 ∉ m0.dev.gated := by decide +kernel
/-- R367: an error in v1 of lane 1. -/
theorem test_error_register : after (exec (.uncorrectableError (.vreg 2 1 1)) m0) 1 1 = some ⟨.poison, 1⟩ := by decide +kernel
/-- R307: SCPORTS is written through the window of the physical function. -/
theorem test_register_write : (match exec (.registerWrite none 0x100110 0xF 2) m0, exec (.registerWrite none 0x100110 0xF 1) m0 with
    | .next t, .next z => ((t.part 1).scports, (z.part 1).scports)
    | _, _ => (0, 0)) = (0xF, 0) := by decide +kernel

/-! ### The machine -/

/-- IADD v3, v1, v2 at the program counter of the placed machine. -/
def mstep : State := State.reset.place (wordBytes 0b00000010_00000001_00000011_001000_00#32)
/-- Its warp. -/
def wstep : Warp := startWarp hostPlacing 0 0 ⟨1, 64, 256, true, 0⟩ 2 1 0 3 2 (List.range 256)
theorem wit_step : mstep.inputs = [] ∧ ({ mstep with tick := mstep.tick + 1 } : State).due = [] ∧ mstep.warps = [wstep] ∧
    (∃ sp p, wstep.splits = [sp] ∧ sp.paths = [p] ∧ p.wait = .run ∧ p.pc = 0x10000 ∧ (wstep.half? (wstep.legacy && sp.upper)).run = sp.num ∧ sp.pl = 1 ∧
      (wstep.half? (wstep.legacy && sp.upper)).turn < 64) ∧ wstep.txs = [] ∧
    mstep.task? wstep.task = some task0 ∧ mstep.mayIssue wstep = true ∧ mstep.icache = [] ∧ mstep.loads = [] ∧ mstep.atoms = [] ∧
    (match mstep.translate 0 1 .fetch 0x10000 with | .ok x => x == (hostPage, 0x10000) | .error _ => false) = true ∧
    ReadsPlain { mstep with tick := mstep.tick + 1 } task0 0x10000 hostPage 0x10000 ∧
    (match decodeWords (mstep.ctx 0).fmaskOn .start (wordsOfBytes (((mstep.readILine 0 0 0x200 0x10000).2.bytes.drop 0).take 16)) with
      | .ok x => x.1 == ⟨.iadd 3 1 2, none, none⟩
      | .error _ => false) = true := by
  unfold ReadsPlain
  refine ⟨?_, ?_, ?_, ⟨_, _, rfl, rfl, rfl, rfl, rfl, rfl, ?_⟩, ?_, ?_, ?_, ?_, ?_, ?_, ?_, ⟨?_, ?_, ?_, ?_, ?_, ?_⟩, ?_⟩ <;>
    decide +kernel
theorem wit_decode_encode : (Instr.imul ⟨2, true⟩ 1 2 3).wf = true ∧ encode (.imul ⟨2, true⟩ 1 2 3) ≠ [] ∧ acceptsArith (.fadd .always .f32 1 2 3) = true ∧
    acceptsPlace (.ld .always .w 1 ⟨false, 2⟩ 0) = true := by decide +kernel
theorem wit_memory_form : State.reset.mem.wf = true ∧ ∃ t, step State.reset = .next t := ⟨by decide, _, rfl⟩

/-- Three running speculative tasks: two hold line 0x400 marked in ways 14 and 15, and the third is about to mark it. -/
def specTask (id : Nat) : Task := { task0 with id := id, spec := .running, ways := if id = 1 then [] else [(0x400, 12 + id)] }
/-- The machine. -/
def mroom : State := { m0 with tasks := [specTask 1, specTask 2, specTask 3] }
theorem wit_spec_room : u0.specRoom m0 [⟨0x20000, 8, 0, none, false⟩] = true ∧ un.specRoom mn [] = true ∧
    ({ u0 with t := specTask 1 } : U).specRoom mroom [⟨0x20000, 8, 0, none, false⟩] = false := by
  refine ⟨rfl, rfl, ?_⟩
  have h : (specTask 1).newLines [⟨0x20000, 8, (0 : W64), none, false⟩] = [0x400] := by decide
  have h2 : mroom.filledWays 0x400 = [14, 15] := by simp [State.filledWays, mroom, specTask]
  change mroom.specFits (specTask 1) _ = false
  unfold State.specFits
  rw [h]
  simp [h2, show (specTask 1).spec = .running from rfl]
/-- R352, R30: a core that wakes counts its cycles from there. -/
theorem test_wake_restarts_clock :
    (match execBlockWake 3 { State.reset with cycles := 50, dev := { Dev.reset with gated := [3] } } with
      | .next t => decide (t.dev.gated = [] ∧ t.clockOf 3 = 0 ∧ t.clockOf 4 = 50)
      | _ => false) = true := by decide

/-! ### Witnesses of further clauses -/

/-- A word of the tagged page that refers to the object at 0x10100. -/
def mref : State := { mo with mem := (mo.mem.write 0x10600 (bytesLE 0x10100 8)).setTag 0x10600 .ref }
/-- The word that a lane's load comes to. -/
def laneWord (r : LaneRes LaneMem) : Option Word := match r with | .ok m => m.word | .error _ => none
/-- What stops a lane. -/
def laneStop {α : Type} (r : LaneRes α) : Option LaneStop := match r with | .ok _ => none | .error e => some e
theorem wit_reference : found mref 0 .read 0x10600 = some (hostPage, 0x10600) ∧ um.ownAhead mref 0x10600 = false ∧
    loadWordOf (um.laneView mref 0 0x10600) true 0x10600 .w = ⟨.ref, 0x10100⟩ ∧ (um.barrier mref 0 ⟨.ref, 0x10100⟩).toOption.isSome = true ∧
    loadWordOf (um.laneView mref 0 0x10608) true 0x10608 .w = .nil ∧ (loadWordOf (um.laneView mref 0 0x10100) true 0x10100 .w).tag = .hdr := by
  decide +kernel
/-- R221, R222: LDREF of a forwarded object gives the new address; a header word there is no reference. -/
theorem test_ldref : laneWord (um.ldrefLane { mref with mem := mref.mem.write 0x10600 (bytesLE 0x10200 8) |>.setTag 0x10600 .ref } 0 0x10600) =
    some ⟨.ref, 0x10100⟩ ∧ laneStop (um.ldrefLane mref 0 0x10100) = some (refCheck ⟨.hdr, 0x30000⟩) := by decide +kernel
/-- An atomic of the split itself is in flight at 0x20000. -/
def behindAtom (w : Warp) : Warp := { raws w with splits := [{ split0 with acc := [⟨9, 3, false⟩] }] }
/-- The machine. -/
def mbehind : State := machine behindAtom id (adding (.op .iadd (natWord 5)))
/-- R181: a load there waits. -/
theorem wit_own_ahead : (unitIn behindAtom).ownAhead mbehind 0x20000 = true ∧
    laneStop ((unitIn behindAtom).loadLane mbehind .i4 0 0x20000) = some .hold := by decide +kernel
theorem wit_field_words : FieldOf ⟨.hdr, 0x30000⟩ 1 ∧ FieldOf ⟨.hdrc, 0x30000⟩ 2 ∧ ¬FieldOf ⟨.hdr, 0x30000⟩ 3 ∧
    found mo 0 .write 0x10110 = some (hostPage, 0x10110) ∧ found mo 0 .read 0x10110 = some (hostPage, 0x10110) ∧ um.ownAhead mo 0x10110 = false ∧
    mo.ownStoreAhead um 0x10110 = false ∧ (loadWordOf (um.headerView mo 0 0x10110) true 0x10110 .w).tag ≠ .ref ∧
    (mo.reach um .write 0x10100 8).toOption.isSome = true := by
  unfold FieldOf
  decide +kernel
/-- R206, R223: LDF through a forwarding header reads the field of the new copy. -/
theorem test_ldf : laneWord (um.ldfLane { mo with mem := mo.mem.write 0x10110 [77] |>.setTag 0x10110 .int } 2 0 ⟨.ref, 0x10200⟩) = some ⟨.int, 77⟩ := by
  decide +kernel

/-- The unit with a placement prefix of scope GRID, in a context of LIMIT COHORT. -/
def curP : Cur := { cur0 with place := some (4, 0) }
def uclamp : U := { um with c := curP }
def mclamp (c : Bool) : State := { (mm.setCtx 0 { hostCtx with scopeLimit := 2, scopeClamp := c }) with cur := some curP }
theorem wit_clamp : ∀ c, (mclamp c).unit? = some uclamp ∧ ((mclamp c).ctx uclamp.t.ctx).scopeLimit < 4 ∧ ((mclamp c).ctx uclamp.t.ctx).scopeClamp = c := by
  decide +kernel
theorem wit_clamp_store : ∃ f, storeForm (.st .always .i8 2 ⟨false, 1⟩ 0) = some f ∧
    f.Ready (clampedCtx (mclamp true) uclamp) uclamp 3 (lanesOk f (clampedCtx (mclamp true) uclamp) uclamp) ∧
    uclamp.specRoom (clampedCtx (mclamp true) uclamp) [] = true := by
  refine ⟨_, rfl, memReady_of ?_ ?_ ?_ ?_ ?_ ?_ ?_ ?_ ?_, rfl⟩ <;> decide +kernel
/-- The codes of the events that a double trap has posted. -/
def trapped (r : Host.Outcome State Fault Refusal) : List (W64 × W64) := match r with
  | .next t => t.dev.evwait.map fun e => (e.addr, e.detail)
  | .fault _ | .refused _ => []
/-- R191: SCOPE_DENIED, code 24, of a store at GRID. -/
theorem test_scope_denied : trapped (exec (.st .always .i8 2 ⟨false, 1⟩ 0) (mclamp false)) = [(0x10000, 24)] := by decide +kernel
theorem wit_access_trap : ∃ f, loadForm (.ld .always .i8 3 ⟨false, 1⟩ 1) = some f ∧ f.Named mm um 0 ∧ 0 ∈ um.acting f.guard ∧
    laneStop (f.lane mm um 0) = some (.fault ⟨3, 20, 0, 0x20001, false, 0⟩) ∧ laneStop (f.lane mm um 1) = some (.fault ⟨3, 20, 0, 0x20009, false, 0⟩) :=
  ⟨_, rfl, ⟨by decide +kernel, paced_of (by decide +kernel), by decide +kernel, reaches_of (by decide +kernel), clean_of (by decide +kernel),
    cleanS_of (by decide +kernel)⟩, by decide +kernel, by decide +kernel, by decide +kernel⟩
/-- What a translation fails with. -/
def failure (s : State) (k : AccKind) (va : W64) : Option XFault := match s.translate 0 0 k va with | .ok _ => none | .error e => some e
theorem wit_lane_access : failure mm .read 0x40000 = some (.stage2 0) ∧ failure m2 .read 0x40000 = some (.stage1 0) := by decide +kernel

/-- Both lanes of LDS misaligned, or behind the allocation. -/
theorem wit_window_traps : ((us.acting .always).filter fun l => (us.w.baseAddr ⟨false, 1⟩ 1 l).toNat % memBytes .i8 ≠ 0) = [0, 1] ∧
    ((us.acting .always).filter fun l => (us.w.baseAddr ⟨false, 1⟩ 1024 l).toNat % memBytes .i8 ≠ 0) = [] ∧
    ((us.acting .always).filter fun l => (ms.window us.t (us.w.baseAddr ⟨false, 1⟩ 1024 l) (memBytes .i8)).isNone) = [0, 1] ∧
    Paced ms us [1, 2] ∧ Paced ms us [3] := by
  unfold Paced
  and_intros <;> decide +kernel
/-- R220: SCRATCH_BOUNDS, code 18. -/
theorem test_scratch_bounds : trapped (exec (.lds .always .i8 3 ⟨false, 1⟩ 1024) ms) = [(0x10000, 18)] := by decide +kernel

/-- Sizes 0 and 3, and a nursery too small for lane 1's block. -/
def badSizes (w : Warp) : Warp := (nursery w).setV 0 1 (natWord 0)
def tight (w : Warp) : Warp := { nursery w with nlim := 0x10818 }
/-- s4 above s5. -/
def reversed (w : Warp) : Warp := (w.setS 4 (natWord 0x10808)).setS 5 (natWord 0x10800)
theorem wit_allocation_traps : (((unitIn badSizes).acting .always).filter fun l => !sizeOk ((unitIn badSizes).w.getV l 1)) = [0] ∧
    (unitIn tight).w.nlim.toNat < blockAt (unitIn tight) ((unitIn tight).acting .always) (fun l => ((unitIn tight).w.getV l 1).pay.toNat) 1 + 8 * 3 ∧
    sizeOk ((unitIn tight).w.getV 1 1) = true ∧ ((unitIn reversed).w.getS 5).pay.toNat < ((unitIn reversed).w.getS 4).pay.toNat := by decide +kernel
/-- R225, R226: both end in a trap of code 16. -/
theorem test_allocation_traps : trapped (exec (.nalloc .always 3 1 2) (machine badSizes id pages)) = [(0x10000, 16)] ∧
    trapped (exec (.nset .always 4 5) (machine reversed)) = [(0x10000, 16)] := by decide +kernel

theorem wit_atomic_words : (Mem.empty.setTag 0x10008 .poison).tag 0x10008 = .poison ∧ (Mem.empty.setMark 0x20000 true).marked 0x20000 = true ∧
    Mem.empty.tag 0x10008 ≠ .poison := by decide
/-- R228, R229: a 4-byte add leaves INT on a tagged page; a CAS of a poisoned word stores nothing and receives it. -/
theorem test_atomic_words : atomOn (Mem.empty.write 0x10008 [7]) true 0x10008 4 (.op .iadd (natWord 5)) =
      (some ⟨0x10008, 4, 12, some .int, false⟩, ⟨.int, 7⟩) ∧
    atomOn ((Mem.empty.write 0x10008 [2]).setTag 0x10008 .poison) true 0x10008 8 (.cas (natWord 2) (natWord 5)) = (none, ⟨.poison, 2⟩) := by
  decide +kernel
/-- An atomic whose register's warp-register has been granted anew. -/
theorem wit_generations : Table.get 0 (ma (.op .iadd (natWord 5))).regGen 0 = (0 : BitVec 4) ∧
    Table.get 0 ({ ma (.op .iadd (natWord 5)) with regGen := [(0, 1)] } : State).regGen 0 ≠ (0 : BitVec 4) := by decide +kernel
/-- R268: its value is then discarded. -/
theorem test_generation : after (exec (.atomicComplete 9) { ma (.op .iadd (natWord 5)) with regGen := [(0, 1)] }) 0 3 = some .nil := by decide +kernel

/-- The checks of a command. -/
def checksOf (i : Instr) : CmdForm := match commandForm i with | some f => f.form me ue | none => .plain (.tlsig [])
/-- s9 a window address behind the allocation, s10 an unmapped address, s11 one beyond 57 bits. -/
def farAway (w : Warp) : Warp := (((copies w).setS 9 (natWord 1024)).setS 10 (natWord 0x40000)).setS 11 (natWord (2 ^ 57))
/-- The machine. -/
def mfar : State := machine farAway bound pages
/-- Its unit. -/
def ufar : U := unitIn farAway bound
theorem wit_command_order : (checksOf (.acpy .always .m2s 1 7 5 6)).aligned = [] ++ (0x20001, 8) :: [(0, 8)] ∧ (0x20001 : W64).toNat % 8 ≠ 0 ∧
    (checksOf (.amcast .always 1 5 4 4)).counts = [(0x20000, 32)] ∧ (mfar.window ufar.t 1024 64).isNone = true ∧
    (mfar.descTask ufar.t ⟨0x180000, 0⟩).isNone = true ∧ pageCount ⟨[.device], false, 0x20000, 64⟩ = 1 ∧
    (match mfar.mapped 0 0 .read 0x20000 with | .ok x => decide (x.1.kind = .device) | .error _ => false) = true ∧
    (match mfar.mapped 0 0 .read 0x40000 with | .ok _ => false | .error e => decide (e = .stage2 0)) = true ∧
    (match mfar.mapped 0 0 .read (pageVa ⟨[.device], false, 2 ^ 57, 64⟩ 0) with | .ok _ => false | .error e => decide (e = .wide)) = true := by
  decide +kernel
theorem wit_out_of_window : OutOfWindow mfar ufar ⟨false, 1024, 64⟩ ∧ ¬OutOfWindow mfar ufar ⟨false, 0, 64⟩ := by
  refine ⟨⟨by decide, fun y o h => ?_⟩, fun h => absurd (h.2 (bound task0) 0 (by decide +kernel)).1 (by decide)⟩
  rw [show mfar.window ufar.t 1024 64 = none by decide +kernel] at h
  cases h
/-- R240: ALIGN before SCRATCH_BOUNDS, SCRATCH_BOUNDS before MEM_FAULT. -/
theorem test_command_checks : trapped (exec (.acpy .always .m2s 1 7 9 6) mfar) = [(0x10000, 20)] ∧
    trapped (exec (.acpy .always .m2s 1 10 9 6) mfar) = [(0x10000, 18)] ∧ trapped (exec (.acpy .always .m2s 1 11 5 6) mfar) = [(0x10000, 19)] := by
  decide +kernel

/-- Nothing that a command reads has changed. -/
theorem still_of {s : State} {t : Task} {c : EngCmd} (h : c.seen = none) (h1 : s.l1 = []) (h2 : t.specStores = []) : Still s t c :=
  ⟨by simp [State.back, h], by simp [h1], h2⟩
/-- An untagged memory without marks poisons no source. -/
theorem source_clean {s : State} {t : Task} {trs : List (Nat × Trans)} (h : s.mem.tags = []) (h1 : s.mem.marks = []) (va : Nat) :
    (sourceAt s t trs true va).bad = none := by
  simp only [sourceAt, if_true]
  split
  · simp [Mem.tag, Mem.marked, h, h1, Table.get]
  · rfl
/-- The task and the command of `mcopy`. -/
def tcopy (op : EngOp) : Task := oneCmd op true task0
def ccopy (op : EngOp) : EngCmd := ⟨1, op, 6, 0, true, false, [(2, rawPage)], none, none, 0⟩
theorem wit_command_runs : (∀ op, Still (mcopy op) (tcopy op) (ccopy op)) ∧ (∀ op va, (sourceAt (mcopy op) (tcopy op) [(2, rawPage)] true va).bad = none) ∧
    InSlot (mcopy copy8) (tcopy copy8) 0 8 ∧ ((mcopy copy8).slotTask (tcopy copy8) 0).isSome = true ∧ IndexClean (mcopy copy8) (tcopy copy8) 0 0 ∧
    ElementOk (mcopy copy8) (tcopy copy8) 0 .read 0x20000 rawPage ∧ ¬ElementOk (mcopy copy8) (tcopy copy8) 0 .read 0x40000 rawPage ∧
    ((tcopy copy8).smark 0 = false ∧ { tcopy copy8 with smarks := [(0, true)] }.smark 0 = true) := by
  refine ⟨fun op => still_of rfl rfl rfl, fun op va => source_clean rfl rfl va, ?_, ?_, ?_, ⟨0x20000, by rfl, by decide⟩, ?_, ?_⟩
  · unfold InSlot; decide +kernel
  · decide +kernel
  · unfold IndexClean; decide +kernel
  · rintro ⟨k, h, -⟩
    rw [show (mcopy copy8).translate (tcopy copy8).ctx 0 .read 0x40000 = .error (.stage2 0) by rfl] at h
    cases h
  · decide +kernel
/-- R391: a poisoned byte poisons its word with the lowest-addressed origin. -/
theorem test_word_items : wordItems true 0x20000 [(0x20000, ⟨1, some (8, 3)⟩), (0x20001, ⟨2, some (4, 2)⟩)] = [⟨0x20000, 8, 2, some .bits, true⟩] := by
  decide +kernel
/-- R246: an INT sum wraps. -/
theorem test_coll_fold : collFold .add .int 1 [(bytesLE (2 ^ 64 - 1) 8).map fun b => ⟨b, none⟩, (bytesLE 3 8).map fun b => ⟨b, none⟩] =
    (bytesLE 2 8).map fun b => ⟨b, none⟩ := by decide +kernel

/-- A member of the gang that waits at its latch with a B of registers. -/
def latched : Warp := { other with splits := [{ split0 with paths := [⟨0x10000, 3, .latch 1 none (some (.regs [])), none⟩] }] }
/-- The machine in which it waits for the lowest member. -/
def mopen : State := machine inGang slot3 fun s => { s with warps := s.warps ++ [latched] }
/-- What the members bring. -/
def brought (i : Nat) : Nat × Option TileSrc × Option TileSrc :=
  if i = 0 then (3, some (ug.tileSrc false 16), some (ug.tileSrc false 32)) else (1, none, some (.regs []))
/-- No operand there is a descriptor. -/
theorem ug_descs : (if (true : Bool) = true then (ug.tileSrc false 16).descs else []) ++ (if ug.acting .always ≠ [] then (ug.tileSrc false 32).descs else []) =
    [] := by decide +kernel
theorem arrives_of {s : State} (h0 : s.gangOk ug.t.id ug.w.gang = true) (h1 : (s.liveSlot ug.t (ug.w.getS 9)).map (fun x => x.index) = some 3)
    (h2 : (match s.cmdChecks ug (CmdForm.plain (.tlsig [])) with | .ok x => decide (x = []) | .error _ => false) = true)
    (h3 : (s.warps.all fun w => decide (w.id = ug.w.id → w = ug.w)) = true) (h4 : s.slotWarp ug.t.id ug.w.slot = some ug.w)
    (h5 : s.requests ug.t.core + (gangSlots ug.w.gang).length ≤ 2048) :
    Arrives s ug .always false false 9 16 32 true (brought 0) where
  some_ := by decide +kernel
  scope := scopeOk_of rfl
  lowest := by decide +kernel
  reach := reaches_of (by decide +kernel)
  width := by decide +kernel
  clean := by unfold TileClean; decide +kernel
  gang := ⟨by decide +kernel, h0⟩
  room := ⟨by decide +kernel, h5⟩
  slot := fun _ => by
    obtain ⟨x, hx, e⟩ := Option.map_eq_some_iff.1 h1
    exact ⟨x, hx, e.symm⟩
  a_ := rfl
  b_ := by decide +kernel
  kinds := by rw [ug_descs]; simp
  checks := by
    rw [ug_descs]
    have h := h2
    change (match s.cmdChecks ug { CmdForm.plain (.tlsig []) with descs := [] } with | .ok x => decide (x = []) | .error _ => false) = true at h
    revert h
    generalize s.cmdChecks ug { CmdForm.plain (.tlsig []) with descs := [] } = r
    cases r <;> simp
  alone := fun w hw hid => by simpa [hid] using all_of h3 w hw
  own := ⟨by decide +kernel, h4⟩
  free := by decide +kernel
theorem wit_gang_opens : mopen.unit? = some ug ∧ Arrives mopen ug .always false false 9 16 32 true (brought ug.w.slot) ∧
    (∀ i ∈ gangSlots ug.w.gang, i ≠ ug.w.slot → ∃ w, Waits mopen ug.t.id i ug.w.gang (brought i) w) ∧
    (∀ i, (gangSlots ug.w.gang).head? = some i → (brought i).2.1 = some (ug.tileSrc false 16)) ∧
    (∀ i ∈ gangSlots ug.w.gang, ∀ y, (brought i).2.2 = some y → y.count = (ug.tileSrc false 16).count) := by
  refine ⟨by decide +kernel, arrives_of ?_ ?_ ?_ ?_ ?_ ?_, ?_, ?_, ?_⟩
  any_goals decide +kernel
  · rw [show gangSlots ug.w.gang = [0, 1] by decide +kernel]
    intro i hi h0
    have h : i = 1 := by
      simp only [List.mem_cons, List.not_mem_nil, or_false] at hi
      rcases hi with rfl | rfl
      · exact absurd (by decide +kernel) h0
      · rfl
    subst h
    exact ⟨latched, by constructor <;> decide +kernel⟩
/-- R149, R150: the MMAG of the lowest member opens the latch: two products, one A; both members go on. -/
theorem test_gang_opens : (match exec (.mmag .always false false 9 16 32) mopen with
    | .next t => (t.tiles.map fun x => x.slot, t.warps.flatMap unitsOf)
    | .fault _ | .refused _ => ([], [])) = ([3, 1], [(0, 0x10008, 3, .run), (0, 0x10008, 3, .run)]) := by decide +kernel
/-- A product waits at a latch for slot 1. -/
theorem wit_slot_named : slotNamed mopen ug 1 = true ∧ slotNamed mopen ug 3 = false := by decide +kernel

/-- The accepted operation of TileSteps and DrainWrites. -/
def op8 (act : TileDo) : TileOp := ⟨8, 2, 1, 0, 3, act, [], 0, 1, 0, true, false, none, [], [], [], 0⟩
theorem wit_tile_steps : ∀ act ∈ [TileDo.product true (.regs []) (.regs []), .accld ⟨0, 0⟩, .drain (.memory 0x20000 .f32) none, .drainAdd (.memory 0x20000 .bf16)],
    let s := machine id slot3 (naming act true)
    s.tile? 8 = some (op8 act) ∧ s.task? 1 = some (slot3 task0) ∧ s.applies (op8 act) = true ∧ s.drainBehind (op8 act) = false ∧
      decide (s.tileSeen (op8 act) = s) = true ∧ (slot3 task0).spec ≠ .running ∧ (s.slotTask (slot3 task0) 0).isSome = true ∧
      (∀ y ∈ s.l1, y.core = 0 → y.isDirty = false) ∧ (s.ctx 0).dirtyEn = false := by decide +kernel

/-- The upper neighbour at another unit, or without room beside the lower: its storage apart and every warp-register taken. -/
def elsewhere (w : Warp) : Warp := { w with splits := [{ split0 with paths := [⟨0x10040, lowMask 64, .fuse .w128 9 0, none⟩] }] }
def apartStore (w : Warp) : Warp := { w with store := 7, rows := List.range 2048 }
/-- The machine. -/
def mbad (f : Warp → Warp) (g : Warp → Warp := id) : State := machine (fun w => g (full w)) id fun s => { s with warps := s.warps ++ [f (upper true)] }
/-- The unit. -/
def ubad (g : Warp → Warp := id) : U := unitIn fun w => g (full w)
theorem wit_fuse_failures : fuseFailure (mbad id) (ubad) (upper true) .w64 5 ∧
    fuseFailure (mbad id fun w => two w) (ubad fun w => two w) (upper true) .w128 2 ∧
    fuseFailure (mbad id fun w => { w with txs := (inTx 1 0 w).txs }) (ubad fun w => { w with txs := (inTx 1 0 w).txs }) (upper true) .w128 6 ∧
    fuseFailure (mbad elsewhere) (ubad) (elsewhere (upper true)) .w128 3 ∧
    fuseFailure (mbad apartStore) (ubad) (apartStore (upper true)) .w128 4 ∧
    (mbad elsewhere).neighbour (ubad).w = some (elsewhere (upper true)) := by
  refine ⟨?_, ?_, ?_, ?_, ?_, by decide +kernel⟩
  · unfold fuseFailure
    rw [if_pos (by decide +kernel)]
  · unfold fuseFailure
    rw [if_neg (by decide +kernel), if_pos (by decide +kernel)]
  · unfold fuseFailure
    rw [if_neg (by decide +kernel), if_neg (by decide +kernel), if_pos (by decide +kernel)]
  · unfold fuseFailure
    rw [if_neg (by decide +kernel), if_neg (by decide +kernel), if_neg (by decide +kernel)]
    exact .inl ⟨⟨0x10040, .w128, 9, 0, by decide +kernel, .inl (by decide +kernel)⟩, rfl⟩
  · unfold fuseFailure
    rw [if_neg (by decide +kernel), if_neg (by decide +kernel), if_neg (by decide +kernel)]
    refine .inr ⟨?_, ⟨by decide +kernel, by unfold RoomToFuse; decide +kernel⟩, rfl⟩
    rintro ⟨pc, wd, e, since, h, h2⟩
    rw [show (apartStore (upper true)).fusing = some (0x10000, .w128, 9, 0) by decide +kernel] at h
    cases h
    rcases h2 with h2 | h2
    · exact h2 (by decide +kernel)
    · exact h2 rfl
theorem wit_room_to_fuse : RoomToFuse (mf true) (unitIn full) (upper true) := by unfold RoomToFuse; decide +kernel
/-- R297: a neighbour at another address fails both with code 3. -/
theorem test_fuse_fails : (match exec (.fusew .always .w128 9) (mbad elsewhere) with
    | .next t => t.warps.map fun w => (w.width, w.getS 9)
    | .fault _ | .refused _ => []) = [(64, ⟨.int, 3⟩), (64, ⟨.int, 3⟩)] := by decide +kernel
/-- R273: a partner that has waited 1,024 cycles goes on alone. -/
theorem test_fuse_late : (match exec (.fusew .always .w128 9) { mf true with cycles := 1024 } with
    | .next t => t.warps.map fun w => (w.width, w.getS 9, w.fusing.isSome)
    | .fault _ | .refused _ => []) = [(64, .nil, true), (64, ⟨.int, 3⟩, false)] := by decide +kernel

/-- A half in legacy-width mode with an open record. -/
def legacySer (w : Warp) : Warp := { serial 1 0 w with legacy := true }
theorem wit_legacy_leave_fails : u0.w.legacy = false ∧ (unitIn legacySer).w.legacy = true ∧
    (∃ p ∈ ((unitIn legacySer).w.splits.filter fun sp => sp.upper == (unitIn legacySer).sp.upper).flatMap (fun sp => sp.paths), p.ser ≠ none) := by
  decide +kernel
/-- R298: WIDTH_FAULT, code 26, in it and outside the mode. -/
theorem test_legacy_leave_fails : trapped (exec (.legacyLeave .always) (machine legacySer)) = [(0x10000, 26)] ∧
    trapped (exec (.legacyLeave .always) m0) = [(0x10000, 26)] := by decide +kernel

/-- POISON in s57 at PL1. -/
def poisonArg (w : Warp) : Warp := (atPl1 w).setS 57 ⟨.poison, 0⟩
theorem wit_hcall : ([56, 57, 58, 59] : List Reg).find? (fun r => ((unitIn poisonArg).w.getS r).tag == .poison) = some 57 ∧ 1 ≤ (unitIn poisonArg).sp.pl ∧
    CleanS (unitIn atPl1) [56, 57, 58, 59] := ⟨by decide +kernel, by decide +kernel, cleanS_of (by decide +kernel)⟩
/-- R91, R356: HCALL then raises POISON_READ, code 25. -/
theorem test_hcall_poison : trapped (exec (.hcall .always 0) (machine poisonArg)) = [(0x10000, 25)] := by decide +kernel

/-- A task without warps that is over, changed. -/
def mover1 (f : Task → Task) (more : List Task := []) : State :=
  let t := f task0
  { m0 with warps := [], tasks := t :: more }
/-- A task of cohort 1. -/
def member (id : Nat) (ended : Bool) : Task := { task0 with id := id, cohort := some 1, ended := ended }
theorem wit_task_end_cases :
    (let t : Task := { task0 with spec := .running };
      (mover1 fun _ => t).task? t.id = some t ∧ (mover1 fun _ => t).taskDone t = true ∧ t.spec = .running ∧ t.ended = false) ∧
    (let t : Task := { task0 with spec := .running, ended := true };
      (mover1 fun _ => t).task? t.id = some t ∧ (mover1 fun _ => t).taskDone t = true) ∧
    (∀ b, let s := mover1 (fun _ => member 1 false) [member 2 b];
      s.task? 1 = some (member 1 false) ∧ s.taskDone (member 1 false) = true ∧ s.tasks.map (fun x => x.ended) = [false, b]) := by
  decide +kernel
/-- R269: a cohort goes when its last member is over; before that its members stay. -/
theorem test_task_end_cohort : ([false, true].map fun b => match exec (.taskEnd 1) (mover1 (fun _ => member 1 false) [member 2 b]) with
    | .next t => t.tasks.map fun x => (x.id, x.ended)
    | .fault _ | .refused _ => []) = [[(1, true), (2, false)], []] := by decide +kernel
/-- R278: a running speculative task that is over keeps its stores, without a core. -/
theorem test_task_end_spec : (match exec (.taskEnd 1) (mover1 fun t => { t with spec := .running, specStores := [⟨0x20000, 8, 0, none, false⟩] }) with
    | .next t => t.tasks.map fun x => (x.id, x.ended, x.core, x.specStores.length)
    | .fault _ | .refused _ => []) = [(1, true, 512, 1)] := by decide +kernel
/-- A legacy warp with a split in each half, the upper half's turn over. -/
def halved (w : Warp) : Warp := { regs w with
  legacy := true, able := [0, 2, 3], up := { w.up with run := 2, turn := 64 }, splits := [split0, { split0 with num := 2, upper := true }, { split0 with num := 3, upper := true, skipped := 64 }] }
theorem wit_legacy_turn : (machine halved).warp? (halved warp0).id = some (halved warp0) ∧ (halved warp0).legacy = true ∧
    ((halved warp0).splits.map fun sp => sp.num).Nodup ∧ 64 ≤ ((halved warp0).half? true).turn ∧
    (∃ sp ∈ (halved warp0).half true, sp.num ∈ (halved warp0).able) ∧ (∃ x ∈ (halved warp0).half true, x.num ∈ (halved warp0).able ∧ 64 ≤ x.skipped) :=
  ⟨by decide +kernel, by decide +kernel, by decide +kernel, by decide +kernel, ⟨_, List.mem_cons_self .., by decide +kernel⟩,
    ⟨_, List.mem_cons_of_mem _ (List.mem_cons_self ..), by decide +kernel⟩⟩
/-- R262, R274: a split of that half passed over 64 times is chosen, in that half alone. -/
theorem test_legacy_turn : (match exec (.splitTurnExpiry 2) (machine halved) with
    | .next t => t.warps.map fun w => ((w.half? true).run, (w.half? true).turn, (w.half? false).run)
    | .fault _ | .refused _ => []) = [(3, 0, 0)] := by decide +kernel

/-- A queue that waits with its doorbell rung, beside none that has a turn left. -/
theorem wit_turns : let s := mrung ⟨1, false, none, true, 0, 0, 0, none⟩
    queueWaits s 0 1 ∧ (∃ e ∈ (s.ctx 0).queues, e.1 = 1) ∧ ((s.ctx 0).queues.map fun e => e.1).Nodup ∧ hasTurn s 0 1 := by
  refine ⟨⟨by decide +kernel, by decide +kernel, .inl (by decide +kernel)⟩, by decide +kernel, by decide +kernel, .inl (by decide +kernel), .inl (by decide +kernel)⟩
/-- A queue that waits for the launch it has accepted only. -/
theorem wit_accepted : let s : State := { mrung ⟨1, false, none, false, 0, 0, 0, none⟩ with launches := [{ lover with next := 0, limit := 1 }] }
    queueWaits s 0 1 :=
  ⟨by decide +kernel, by decide +kernel, .inr ⟨_, List.mem_cons_self .., by decide, by decide, 0, true, by decide⟩⟩
/-- R327: the doorbell of a queue in error ends the error where the table entry was rewritten, and keeps it where not. -/
theorem test_error_ends : ([none, some 0].map fun e => match exec (.doorbell 0 1) (mrung ⟨1, true, e, false, 0, 0, 0, none⟩) with
    | .next t => ((t.ctx 0).queue 1).error
    | .fault _ | .refused _ => true) = [false, true] := by decide +kernel

/-- R248: a command below the number waited for has not made its writes yet. -/
theorem wit_timeline_unwritten : let e := ((oneCmd copy8 true task0).engCtx 0)
    (oneCmd copy8 true task0).bound 1 = some 0 ∧ e.failed = none ∧ ∃ c ∈ e.cmds, c.done = false ∧ c.num ≤ 3 := by decide +kernel

/-- A resolved launch's tasks: blocks 1 and 2 of launch 1, speculative and running; T comes out 2. -/
def shaping (s : State) : State :=
  let x := shapedLaunch none s
  { x with tasks := x.tasks ++ [{ task0 with id := 7, launch := 1, block := 1, spec := .running }, { task0 with id := 8, launch := 1, block := 2, spec := .running }] }
/-- s4 the handle, s5 the count n. -/
def handle (n : Nat) (w : Warp) : Warp := ((regs w).setS 4 (natWord 3)).setS 5 (natWord n)
theorem wit_shape : let s := machine (handle 2) id shaping
    let u := unitIn (handle 2)
    s.unit? = some u ∧ CleanS u [4, 5] ∧ (u.w.getS 4).tag = .int ∧ (u.w.getS 4).pay.toNat < 2 ^ 33 ∧ u.speculative = false ∧ FenceOpen s u 15 ∧
    namedBy s 3 = some none ∧ (s.tasks.map fun x => x.id).Nodup ∧ (s.ctx 0).save.tasks = [] ∧
    s.tasks.map (fun x => (x.id, x.launch, x.block)) = [(1, 0, 0), (7, 1, 1), (8, 1, 2)] :=
  ⟨by decide +kernel, cleanS_of (by decide +kernel), by decide +kernel, by decide +kernel, by decide +kernel, openOf (by decide +kernel), by decide +kernel,
    by decide +kernel, by decide +kernel, by decide +kernel⟩
/-- R278: block 1 commits and block 2 is squashed where n is 2; where n is 4, blocks 2 and 3 become a tail launch. -/
theorem test_shape : ([2, 4].map fun n => match exec (.shape .always 4 5) (machine (handle n) id shaping) with
    | .next t => ((t.tasks.filter fun x => x.launch == 1).map fun x => x.spec, (t.launches.filter fun l => l.src == .tail 1).map fun l => (l.next, l.limit))
    | .fault _ | .refused _ => ([], [])) = [([.committed, .squashed], []), ([.committed, .committed], [(2, 4)])] := by decide +kernel

/-- R59, R60: the filler word at the program counter. -/
def mfiller : State := State.reset.place (wordBytes 0x000003FD#32)
theorem wit_step_refused : mfiller.warps = [wstep] ∧ ReadsPlain { mfiller with tick := mfiller.tick + 1 } task0 0x10000 hostPage 0x10000 ∧
    (match decodeWords (mfiller.ctx 0).fmaskOn .start (wordsOfBytes (((mfiller.readILine 0 0 0x200 0x10000).2.bytes.drop 0).take 16)) with
      | .ok _ => false
      | .error e => !e.orphan && e != .masked) = true := by
  unfold ReadsPlain
  refine ⟨?_, ⟨?_, ?_, ?_, ?_, ?_, ?_⟩, ?_⟩ <;> decide +kernel

/-! ### Witnesses of the wider statements -/

/-- An arithmetic prefix before JOIN, and FENCE's masks. -/
theorem wit_orphans : (Instr.join).wf = true ∧ encode .join ≠ [] ∧ acceptsArith .join = false ∧ acceptsPlace .join = false ∧
    acceptsPlace (.fadd .always .f32 1 2 3) = false ∧ (⟨some ⟨.rn, false, false, false⟩, some ⟨4, 0⟩, none⟩ : UnitDec).word0 = none ∧
    maskFeature .txend = some 0 ∧ maskFeature (.hcpy .always .h2d 1 2 3 4) = some 1 ∧ maskFeature (.shape .always 4 5) = some 2 ∧
    (7 : BitVec 4).getLsbD 2 = true := by decide
/-- R42: JOIN behind an arithmetic prefix; R63: SPECQ, whose words no context that masks predicted-shape launch may use. -/
theorem test_orphan : (match decodeWords 0 .start (Decoded.words ⟨.join, some ⟨.rn, false, false, false⟩, none⟩) with | .ok _ => none | .error e => some e) = some .notAccepted ∧
    (match decodeWords 4 .start (encode (.specq .always 3)) with | .ok _ => none | .error e => some e) = some .masked := by decide +kernel

/-- JOIN behind an arithmetic prefix at the program counter, and SPECQ in a context that masks it. -/
def morphan : State := State.reset.place ((Decoded.words ⟨.join, some ⟨.rn, false, false, false⟩, none⟩).flatMap wordBytes)
def mmasked : State := (State.reset.place ((encode (.specq .always 3)).flatMap wordBytes)).setCtx 0 { hostCtx with fmaskOn := 4 }
/-- What the words at the program counter are refused with. -/
def refusedAt (s : State) : Option DecErr :=
  match decodeWords (s.ctx 0).fmaskOn .start (wordsOfBytes (((s.readILine 0 0 0x200 0x10000).2.bytes.drop 0).take 16)) with
  | .ok _ => none
  | .error e => some e
theorem wit_step_orphan : morphan.warps = [wstep] ∧ ReadsPlain { morphan with tick := morphan.tick + 1 } task0 0x10000 hostPage 0x10000 ∧
    refusedAt morphan = some .notAccepted ∧ DecErr.notAccepted.orphan = true ∧
    mmasked.warps = [wstep] ∧ ReadsPlain { mmasked with tick := mmasked.tick + 1 } task0 0x10000 hostPage 0x10000 ∧
    refusedAt mmasked = some .masked := by
  unfold ReadsPlain
  refine ⟨?_, ⟨?_, ?_, ?_, ?_, ?_, ?_, ?_⟩, ?_, ?_, ?_, ⟨?_, ?_, ?_, ?_, ?_, ?_, ?_⟩, ?_⟩ <;> decide +kernel

/-- R131: BRD to the lanes of a register that another warp owns. -/
theorem wit_brd_foreign : (regIndex (unitIn regs taken).w.nregs 9).isSome = true ∧ (taken task0).owned 5 = true ∧ (taken task0).owns 5 2 = false := by
  decide

/-- A speculative task whose STF marks line 0x202, with room there, and beside two tasks that have filled ways 14 and 15 of its set. -/
def specFields : State := machine fields (fun t => { t with spec := .running }) objects
def ufields : U := unitIn fields fun t => { t with spec := .running }
def fullFields : State := { specFields with tasks := specFields.tasks ++ [{ task0 with id := 7, spec := .running, ways := [(0x202, 14), (0x202, 15)] }] }
theorem newLines_fields : ufields.t.newLines (((ufields.acting .always).flatMap fun l => (lanesOk (fieldStore .always 2 1 2) specFields ufields l).items)) = [0x202] := by
  decide +kernel
theorem wit_spec_fields : specFields.unit? = some ufields ∧ (fieldStore .always 2 1 2).Ready specFields ufields 3 (lanesOk (fieldStore .always 2 1 2) specFields ufields) ∧
    ufields.t.spec = .running ∧
    ufields.specRoom specFields ((ufields.acting .always).flatMap fun l => (lanesOk (fieldStore .always 2 1 2) specFields ufields l).items) = true ∧
    ufields.specRoom fullFields ((ufields.acting .always).flatMap fun l => (lanesOk (fieldStore .always 2 1 2) specFields ufields l).items) = false := by
  refine ⟨by decide +kernel, memReady_of ?_ ?_ ?_ ?_ ?_ ?_ ?_ ?_ ?_, by decide +kernel, ?_, ?_⟩
  any_goals decide +kernel
  · have h : specFields.filledWays 0x202 = [] := by decide +kernel
    have h2 : (specFields.openWays ufields.t 0x202).length = 16 := by unfold State.openWays; rw [h]; decide +kernel
    unfold U.specRoom State.specFits
    rw [newLines_fields]
    simp [h, h2]
  · have e : fullFields.tasks = [ufields.t, { task0 with id := 7, spec := .running, ways := [(0x202, 14), (0x202, 15)] }] := by decide +kernel
    have e2 : ufields.t.ways = [] := by decide +kernel
    have h : fullFields.filledWays 0x202 = [14, 15] := by
      unfold State.filledWays
      rw [e]
      simp [e2, show ufields.t.spec = .running from rfl]
    unfold U.specRoom State.specFits
    rw [newLines_fields]
    simp [h, show ufields.t.spec = .running from rfl]

/-- Both lanes in a transaction of a depth, without and with a store each; the abort goes to 0x10100. -/
def bothTx (depth : Nat) (writes : Bool) (w : Warp) : Warp := { raws w with
  txs := [0, 1].map fun l => ⟨l, depth, 0x10100, 5, [0x500 + l], [0x500 + l], [], if writes then [⟨0x28000 + 128 * l, 8, 5, none, false⟩] else [], [2], none⟩ }
/-- The machine. -/
def mtx (depth : Nat) (writes : Bool) : State := machine (bothTx depth writes) id pages
/-- Its unit. -/
def utx (depth : Nat) (writes : Bool) : U := unitIn (bothTx depth writes)
/-- Where two lanes commit with and without stores, where neither does, and where a lane's check fails. -/
theorem wit_commits : (∀ b, (mtx 1 b).unit? = some (utx 1 b) ∧ (∀ x ∈ (utx 1 b).w.txs, x.doom = none) ∧ (committing (utx 1 b)).map (fun x => x.lane) = [0, 1] ∧
      (utx 1 b).sp.acc = [] ∧ (mtx 1 b).requests (utx 1 b).t.core + (utx 1 b).active.length ≤ 2048 ∧ (mtx 1 b).l1 = [] ∧ ((mtx 1 b).ctx 0).dirtyEn = false ∧
      ((committing (utx 1 b)).all fun x => x.valid (mtx 1 b).mem) = true) ∧
    committing (utx 2 true) = [] ∧ (∀ x ∈ (utx 2 true).w.txs, x.doom = none) ∧
    (unitIn (inTx 1 9)).active = [0] ∧ (committing (unitIn (inTx 1 9))).map (fun x => x.valid (machine (inTx 1 9) id pages).mem) = [false] ∧
    ((unitIn (bothTx 15 false)).w.txs.map fun x => x.depth) = [15, 15] := by decide +kernel
theorem wit_committed : ∀ b xs x ys, committing (utx 1 b) = xs ++ x :: ys → x.valid (committed (mtx 1 b).mem xs) = true := by
  intro b xs x ys h
  have hx : x ∈ committing (utx 1 b) := by rw [h]; simp
  have hall : ∀ y ∈ committing (utx 1 b), y.reads = [] := by cases b <;> decide +kernel
  have hr := hall x hx
  simp [Tx.valid, hr]
/-- A unit of two lanes of one target, and one outside every transaction in a speculative task. -/
theorem wit_aborts : ∃ xs : List Tx, xs ≠ [] ∧ (utx 1 true).active = xs.map (fun x => x.lane) ∧ (utx 1 true).acting .always = (utx 1 true).active ∧
    ∀ x ∈ xs, (utx 1 true).w.tx? x.lane = some x ∧ x.doom = none ∧ x.target = 0x10100 :=
  ⟨(utx 1 true).w.txs, by decide +kernel⟩
theorem wit_abort_speculative : let s := machine regs fun t => { t with spec := .running }
    let u := unitIn regs fun t => { t with spec := .running }
    s.unit? = some u ∧ Reaches u [5] ∧ u.acting .always = u.active ∧ u.active ≠ [] ∧ u.w.txs = [] ∧ u.t.spec = .running :=
  ⟨by decide +kernel, reaches_of (by decide +kernel), by decide +kernel, by decide +kernel, by decide +kernel, by decide +kernel⟩
/-- R236: both commits reach memory and put a store of path 3 each in flight. -/
theorem test_commits : (match exec .txend (mtx 1 true) with
    | .next t => (t.mem.read 0x28000 8, t.mem.read 0x28080 8, t.stores.length, t.warps.map fun w => w.txs.length)
    | .fault _ | .refused _ => (0, 0, 0, [])) = (5, 5, 2, [0]) := by decide +kernel
/-- R202: TXABORT of both lanes takes them to their target with the code word. -/
theorem test_txabort_both : after (exec (.txabort .always 2) (mtx 1 true)) 1 5 = some ⟨.int, 0x204⟩ := by decide +kernel

/-- What TransactionAccesses asks of lanes in their transactions. -/
def TxReady (f : MemForm) (s : State) (u : U) (path : Nat) : Prop :=
  Paced s u [path] ∧ Reaches u f.named ∧ Clean u (u.acting f.guard) f.srcs ∧ CleanS u f.scal ∧ NoForeignDirty s u ∧ u.acting f.guard ≠ [] ∧
  (∀ l ∈ u.acting f.guard, f.lane s u l = .ok (lanesOk f s u l) ∧ (u.w.openTx l).isSome = true) ∧
  PoolHolds s u ((u.acting f.guard).flatMap fun l => (lanesOk f s u l).touches)
theorem txReady_of {f : MemForm} {s : State} {u : U} {path : Nat}
    (h3 : ([path].all fun p => decide (u.sp.count p < 4095)) && decide (s.requests u.t.core < 2048)) (h4 : s.l1.isEmpty = true)
    (h5 : (!(u.acting f.guard).isEmpty) = true)
    (h6 : (f.named.all fun r => (regIndex u.w.nregs r).isSome) = true)
    (h7 : ((u.acting f.guard).all fun l => f.srcs.all fun r => decide ((u.w.getV l r).tag ≠ .poison)) = true)
    (h8 : (f.scal.all fun r => decide ((u.w.getS r).tag ≠ .poison)) = true)
    (h9 : ((u.acting f.guard).all fun l => (match f.lane s u l with | .ok _ => true | .error _ => false) && (u.w.openTx l).isSome) = true)
    (h10 : (s.overPool u.t.ctx (((u.acting f.guard).flatMap fun l => (lanesOk f s u l).touches).map fun t => t.tr)).isNone = true) :
    TxReady f s u path :=
  ⟨paced_of h3, reaches_of h6, clean_of h7, cleanS_of h8, fun x hx => by simp_all, by intro h; simp [h] at h5, fun l hl => by
    have h := all_of h9 l hl
    simp only [Bool.and_eq_true] at h
    refine ⟨?_, h.2⟩
    have h := h.1
    unfold lanesOk
    generalize f.lane s u l = r at h ⊢
    cases r with
    | ok m => rfl
    | error e => simp at h, by simpa [PoolHolds] using h10⟩
theorem wit_tx_load : ∃ f, loadForm (.ld .always .i8 3 ⟨false, 1⟩ 0) = some f ∧ TxReady f (mtx 1 false) (utx 1 false) 0 := by
  refine ⟨_, rfl, txReady_of ?_ ?_ ?_ ?_ ?_ ?_ ?_ ?_⟩ <;> decide +kernel
theorem wit_tx_store : ∃ f, storeForm (.st .always .i8 2 ⟨false, 1⟩ 0) = some f ∧ TxReady f (mtx 1 true) (utx 1 true) 3 := by
  refine ⟨_, rfl, txReady_of ?_ ?_ ?_ ?_ ?_ ?_ ?_ ?_⟩ <;> decide +kernel
/-- The same with objects. -/
def txFields (w : Warp) : Warp := { fields w with txs := (bothTx 1 false w).txs }
theorem wit_tx_field : TxReady (fieldStore .always 2 1 2) (machine txFields id objects) (unitIn txFields) 3 := by
  refine txReady_of ?_ ?_ ?_ ?_ ?_ ?_ ?_ ?_ <;> decide +kernel

/-- The footprint that one lane's access leaves: whether it is doomed and why, by lane. -/
def doomsOf (w : Warp) : List (Nat × Option W64) := w.txs.map fun x => (x.lane, x.doom)
/-- A store and a load of 8 bytes of line 0x500, which lane 0 has stored. -/
def touch500 (wr : Bool) : LaneMem := ⟨none, [⟨0x28000, rawPage, 0x28000, 8, wr, false, none⟩], if wr then [⟨0x28000, 8, 7, none, false⟩] else []⟩
/-- A store to a host page. -/
def touchHost : LaneMem := ⟨none, [⟨0, { rawPage with kind := .host }, 0, 8, true, false, none⟩], []⟩
/-- Lane 0 with the footprint of lane 1, and both with full footprints. -/
def bigTx (w : Warp) : Warp := { raws w with
  txs := [⟨0, 1, 0x10100, 5, List.range 32, [], [], [], [], none⟩, ⟨1, 1, 0x10100, 5, [0x500], [0x500], [], [], [], none⟩] }
theorem wit_footprints : (∀ l < 2, ((utx 1 false).w.openTx l).isSome = true) ∧ (∃ t ∈ touchHost.touches, t.tr.kind ≠ .device) ∧
    (∀ b, ∀ t ∈ (touch500 b).touches, t.tr.kind = .device) ∧ (unitIn bigTx).w.txLines.length = 33 ∧ (utx 1 false).w.txLines.length = 2 := by decide +kernel
/-- R198, R199: a store of lane 1 to the line that lane 0 has stored dooms lane 1; a load of lane 0 of the line of lane 1 dooms lane 1 with WINNER 0; a host page dooms
with FAULT and a 34th line with CAPACITY. -/
theorem test_footprints : (match (utx 1 false).w.openTx 1, (utx 1 false).w.openTx 0, (unitIn bigTx).w.openTx 0 with
    | some x, some y, some z => [doomsOf ((utx 1 false).txAccess (mtx 1 false) (utx 1 false).w 1 x (touch500 true)),
        doomsOf ((utx 1 false).txAccess (mtx 1 false) (utx 1 false).w 0 y ⟨none, [⟨0x28080, rawPage, 0x28080, 8, false, false, none⟩], []⟩),
        doomsOf ((utx 1 false).txAccess (mtx 1 false) (utx 1 false).w 0 y touchHost),
        doomsOf ((unitIn bigTx).txAccess (machine bigTx id pages) (unitIn bigTx).w 0 z (touch500 false))]
    | _, _, _ => []) = [[(0, none), (1, some 2)], [(0, none), (1, some 2)], [(0, some 5), (1, none)], [(0, some 1), (1, none)]] := by decide +kernel
/-- Lane 0 alone, its transaction doomed. -/
theorem wit_doomed : let u := unitIn (inTx 1 0)
    let w := u.w.doomTx 0 5
    ∃ x, w.tx? 0 = some x ∧ u.active = [x.lane] ∧ x.doom = some 5 ∧ w.id = u.w.id ∧ w.nregs = u.w.nregs := by
  refine ⟨{ (unitIn (inTx 1 0)).w.txs.headD ⟨0, 0, 0, 0, [], [], [], [], [], none⟩ with doom := some 5 }, ?_⟩
  decide +kernel
theorem wit_returned : let x := (unitIn (inTx 1 0)).w.txs.headD ⟨0, 0, 0, 0, [], [], [], [], [], none⟩
    ∀ k, 0x28000 ≤ k → k < 0x28000 + 8 → ∀ it ∈ x.writes, ¬covers it k := by
  intro x k h1 h2 it hit
  have e : x.writes = [⟨0x20000, 4, 1, none, false⟩] := by decide +kernel
  rw [e] at hit
  simp only [List.mem_singleton] at hit
  subst hit
  simp only [covers]
  omega

/-- A transaction of lane 0 alone that adds to a word; the same unit in a speculative task. -/
def txAdd (w : Warp) : Warp := { raws w with txs := (inTx 1 0 w).txs, splits := [{ split0 with paths := [{ path0 with mask := 1 }] }] }
theorem wit_tx_atomic : ∃ f, atomForm (.atom .always .iadd .b4 1 2 0) = some f ∧ (machine txAdd id pages).unit? = some (unitIn txAdd) ∧
    Paced (machine txAdd id pages) (unitIn txAdd) [3] ∧ Reaches (unitIn txAdd) f.regs ∧ Clean (unitIn txAdd) ((unitIn txAdd).acting f.guard) f.regs ∧
    (unitIn txAdd).acting f.guard = [0] ∧ ((unitIn txAdd).w.openTx 0).isSome = true ∧ (unitIn txAdd).t.spec ≠ .running ∧ f.level (unitIn txAdd) 0 = true ∧
    (match (machine txAdd id pages).reachAtom (unitIn txAdd) (f.addr (unitIn txAdd) 0) f.size with
      | .ok p => decide (((machine txAdd id pages).overPool 0 [p.tr]) = none)
      | .error _ => false) = true :=
  ⟨_, rfl, by decide +kernel, paced_of (by decide +kernel), reaches_of (by decide +kernel), clean_of (by decide +kernel), by decide +kernel, by decide +kernel,
    by decide +kernel, by decide +kernel, by decide +kernel⟩
/-- R239: ATOM in a transaction stores nothing at home, and the new word is among the stores of the transaction. -/
theorem test_tx_atomic : (match exec (.atom .always .iadd .b4 1 2 0) (machine txAdd id pages) with
    | .next t => (t.mem.read 0x20000 4, t.loads.length, t.warps.map fun w => w.txs.map fun x => x.writes.map fun it => (it.key, it.data))
    | .fault _ | .refused _ => (0, 0, [])) = (0, 1, [[[(0x20000, 1), (0x20000, 0x1235)]]]) := by decide +kernel
/-- R211: in a speculative task it waits. -/
theorem test_spec_atomic : (match exec (.atom .always .iadd .b4 1 2 0) (machine raws (fun t => { t with spec := .running }) pages) with
    | .next t => (t.atoms.length, t.warps.flatMap unitsOf)
    | .fault _ | .refused _ => (1, [])) = (0, [(0, 0x10000, 3, .run)]) := by decide +kernel

/-- Two lanes whose targets differ, in a warp without a free split number, or in a split of two sub-paths; lane 1's nesting counter. -/
def crowded (n : Nat) (w : Warp) : Warp := { targets w with
  live := 0xFF, nest := [(1, n)], splits := split0 :: (List.range 3).map fun i => { split0 with num := i + 1, paths := [{ path0 with mask := 4 <<< i }] } }
def deeper (w : Warp) : Warp := { targets w with live := 7, splits := [{ split0 with paths := [path0, { path0 with mask := 4, pc := 0x10040 }] }] }
theorem wit_serialised : ∃ f, transferForm (unitIn (crowded 254)) (.brx .always 2) = some f ∧ f.Ready (unitIn (crowded 254)) ∧ f.Aligned ∧
    (machine (crowded 254)).unit? = some (unitIn (crowded 254)) ∧ (unitIn (crowded 254)).sp.paths = [(unitIn (crowded 254)).pa] ∧
    (∀ n < 4, ∃ sp ∈ (unitIn (crowded 254)).w.splits, sp.num = n) ∧ (unitIn (crowded 254)).active.head?.map (f.goes (unitIn (crowded 254))) = some 0x10100 ∧
    (∃ l ∈ (unitIn (crowded 254)).active, f.goes (unitIn (crowded 254)) l ≠ 0x10100) ∧
    ((unitIn (crowded 254)).active.filter fun l => Table.get 0 (unitIn (crowded 254)).w.nest l == 255) = [] ∧
    ((unitIn (crowded 255)).active.filter fun l => Table.get 0 (unitIn (crowded 255)).w.nest l == 255) = [1] := by
  refine ⟨_, rfl, transferReady_of ?_ ?_ ?_ ?_, ?_, ?_, ?_, ?_, ?_, ?_, ?_, ?_⟩ <;> first | (unfold TransferForm.Aligned; decide +kernel) | decide +kernel
theorem wit_serialised_deeper : ∃ f, transferForm (unitIn deeper) (.bra ⟨1, false⟩ 0x100) = some f ∧ f.stay = true ∧
    (unitIn deeper).sp.paths.tail ≠ [] ∧ (∃ l ∈ (unitIn deeper).active, f.goes (unitIn deeper) l = (unitIn deeper).c.next) ∧
    ∃ l ∈ (unitIn deeper).active, f.goes (unitIn deeper) l ≠ (unitIn deeper).c.next := by
  refine ⟨_, rfl, ?_⟩ <;> decide +kernel
/-- R265: lane 0 keeps the split's first place and lane 1 stands behind it, in one region; with a counter at 255 the unit raises NEST_OVERFLOW, code 23. -/
theorem test_serialised : (match exec (.brx .always 2) (machine (crowded 254)) with
    | .next t => t.warps.map fun w => ((w.splits.filter fun sp => sp.num == 0).flatMap fun sp => sp.paths.map fun p => (p.pc, p.mask), w.regions, Table.get 0 w.nest 1)
    | .fault _ | .refused _ => []) = [([(0x10100, 1), (0x10200, 2)], [3], 255)] ∧
    trapped (exec (.brx .always 2) (machine (crowded 255))) = [(0x10000, 23)] := by decide +kernel

/-- The task with barrier 3 at which warp 5 waits, with a count of 2 or of 3; warp 5 there. -/
def barred (k : Nat) (t : Task) : Task := { t with bars := [⟨3, some k, [5]⟩], owners := [(1, 2)] }
def waitsAt3 (k : Nat) (w : Warp) : Warp := { w with splits := [{ split0 with paths := [{ path0 with wait := .barrier 3 (some k) }] }] }
/-- Three warps of the task: 2, which executes, 5, which waits, and 6. -/
def mbar (k : Nat) : State := machine (fun w => (regs w).setS 4 (natWord 2)) (barred k) fun s => { s with warps := s.warps ++ [waitsAt3 k other, { other with id := 6, slot := 2 }] }
/-- Its unit. -/
def ubar (k : Nat) : U := unitIn (fun w => (regs w).setS 4 (natWord 2)) (barred k)
theorem wit_barrier_instances : ∀ k ∈ [2, 3], (mbar k).unit? = some (ubar k) ∧ (ubar k).t.bars = [⟨3, some k, [5]⟩] ∧
    (∀ x ∈ (mbar k).warps, x.id = (ubar k).w.id → x = (ubar k).w) ∧ (ubar k).w.id ∉ [5] ∧ (ubar k).acting .always ≠ [] := by decide +kernel
theorem wit_barrier_sole (k : Nat) (h : k ∈ [2, 3]) : barForm (ubar k) (.barc .always 3 4) = some (.always, [4], 3, some 2, 8) ∧ Sole (ubar k) ∧
    FenceOpen (mbar k) (ubar k) 7 := by
  simp only [List.mem_cons, List.not_mem_nil, or_false] at h
  rcases h with rfl | rfl <;>
    exact ⟨by decide +kernel, by constructor <;> decide +kernel, ⟨fun _ => by decide +kernel,
      fun _ => ⟨by decide +kernel, fun a ha => absurd (show (ubar _).sp.acc = [] from rfl) (List.ne_nil_of_mem ha)⟩, fun _ => by decide +kernel⟩⟩
/-- R132, R290: the second arrival of two frees both warps and the owners; BARC of 2 at an instance of 3 is ILLEGAL, code 16. -/
theorem test_barrier_instances : (match exec (.barc .always 3 4) (mbar 2) with
    | .next t => (t.warps.flatMap fun w => (unitsOf w).map fun x => (x.2.1, x.2.2.2), t.tasks.map fun y => (y.bars.length, y.owners.length))
    | .fault _ | .refused _ => ([], [])) = ([(0x10008, .run), (0x10008, .run), (0x10000, .run)], [(0, 0)]) ∧
    trapped (exec (.barc .always 3 4) (mbar 3)) = [(0x10000, 16)] := by decide +kernel

/-- R144: a unit of a warp of no gang, of which no lane's guard is true. -/
theorem wit_gang_less : m0.unit? = some u0 ∧ u0.acting ⟨0, false⟩ = [] ∧ u0.w.gang = 0 := by decide +kernel

/-- Lane 0 in the handler of a NALLOC of 2 words of layout 1 that has found the nursery full, with room now. -/
def refilled (w : Warp) : Warp :=
  { regs w with
    live := 1, nbase := 0x10800, nlim := 0x10900, gates := [(77, 1)], recs := [(0, [⟨.nurseryFull, 1, 9, 0x10020, 77, false, natWord 2, natWord 1, 2, false⟩])]
    splits := [{ split0 with paths := [{ path0 with mask := 1 }] }] }
theorem wit_reallocation : (machine refilled id pages).unit? = some (unitIn refilled) ∧ Reaches (unitIn refilled) [1] ∧
    Clean (unitIn refilled) (unitIn refilled).active [1] ∧ Paced (machine refilled id pages) (unitIn refilled) [3] ∧ (unitIn refilled).active = [0] ∧
    (unitIn refilled).w.txs = [] ∧ Sole (unitIn refilled) ∧ SizeWord (natWord 2) ∧ (unitIn refilled).w.nbase.toNat + 8 * 2 ≤ (unitIn refilled).w.nlim.toNat ∧
    (match (unitIn refilled).blockPages (machine refilled id pages) ⟨0, 0x10800, 2, 1⟩ with
      | .ok pg => decide (((machine refilled id pages).overPool 0 (pg.map fun t => t.tr)) = none)
      | .error _ => false) = true :=
  ⟨by decide +kernel, reaches_of (by decide +kernel), clean_of (by decide +kernel), paced_of (by decide +kernel), by decide +kernel, by decide +kernel,
    by constructor <;> decide +kernel, ⟨by decide +kernel, by decide +kernel, by decide +kernel⟩, by decide +kernel, by decide +kernel⟩
/-- R114, R227: RETL allocates the two words and goes on behind the NALLOC. -/
theorem test_reallocation : (match exec (.retl 1) (machine refilled id pages) with
    | .next t => t.warps.map fun w => (w.getV 0 9, w.nbase, (unitsOf w).map fun x => x.2.1)
    | .fault _ | .refused _ => []) = [(⟨.ref, 0x10800⟩, 0x10810, [0x10020])] := by decide +kernel

/-- Both lanes of a unit of one sub-path in the handler of a division by 0. -/
def handledAll (w : Warp) : Warp := { handled .divZero w with splits := [split0] }
theorem wit_record_return : (machine handledAll).unit? = some (unitIn handledAll) ∧ Sole (unitIn handledAll) ∧
    (unitIn handledAll).w.gates = [(77, (unitIn handledAll).pa.mask)] ∧
    ∀ l ∈ (unitIn handledAll).active, ((Table.get [] (unitIn handledAll).w.recs l).head?.map fun r => (r.gate, r.next)) = some (77, 0x10020) :=
  ⟨by decide +kernel, by constructor <;> decide +kernel, by decide +kernel, by decide +kernel⟩

/-- SHAPE with a count of 2^32, of the own launch of a speculative task, and in a task that speculates for another. -/
def ownShape (s : State) : State := { (shapedLaunch none s) with tasks := [{ task0 with launch := 1, spec := .running }] }
theorem wit_shape_stops : CleanS (unitIn (handle (2 ^ 32))) [4, 5] ∧ ¬((unitIn (handle (2 ^ 32))).w.getS 5).pay.toNat < 2 ^ 32 ∧
    (let s := machine (handle 2) (fun t => { t with launch := 1, spec := .running }) (shapedLaunch none)
      let u := unitIn (handle 2) fun t => { t with launch := 1, spec := .running }
      s.unit? = some u ∧ u.speculative = true ∧ namedBy s 3 = some none ∧ (s.launches.filter fun l => l.id == 1 && l.serial == 3).length = 1) ∧
    (let s := machine (handle 2) (fun t => { t with spec := .running }) (shapedLaunch none)
      let u := unitIn (handle 2) fun t => { t with spec := .running }
      s.unit? = some u ∧ u.speculative = true ∧ u.t.launch = 0 ∧ namedBy s 3 = some none) :=
  ⟨cleanS_of (by decide +kernel), by decide +kernel, by decide +kernel, by decide +kernel⟩
/-- R302: both bad ones are ILLEGAL, code 16, and the third waits. -/
theorem test_shape_stops : trapped (exec (.shape .always 4 5) (machine (handle (2 ^ 32)) id (shapedLaunch none))) = [(0x10000, 16)] ∧
    trapped (exec (.shape .always 4 5) (machine (handle 2) (fun t => { t with launch := 1, spec := .running }) (shapedLaunch none))) = [(0x10000, 16)] ∧
    (match exec (.shape .always 4 5) (machine (handle 2) (fun t => { t with spec := .running }) (shapedLaunch none)) with
      | .next t => (t.warps.flatMap unitsOf, t.launches.map fun l => l.t)
      | .fault _ | .refused _ => ([], [])) = ([(0, 0x10000, 3, .run)], [none, none]) := by decide +kernel

/-- An entry of queue 1 behind the device's reads of the table. -/
theorem wit_queue_reads : let read := mentry.deviceTouch 0 1 ((mentry.ctx 0).qAddr 1) 8
    let z := read.deviceTouch 0 1 (q1.slot q1.head) 8
    (match read.deviceWords 0 1 (q1.slot q1.head) 8 with | .ok ws => decide (ws = devWords mentry 1 (q1.slot q1.head) 8) | .error _ => false) = true ∧
    (match z.deviceWords 0 0 0x20400 16 with | .ok ws => decide (ws = devWords mentry 0 0x20400 16) | .error _ => false) = true ∧
    ((z.deviceTouch 0 0 0x20400 16).deviceStore4 0 ((mentry.ctx 0).qAddr 1 + 24) ((q1.head + 1) % 2 ^ 32)).refusal 0
      ⟨0x20400, some (devWords mentry 0 0x20400 16), false, none, false, false, false⟩ = none := by decide +kernel

/-- A request on its way from the east die's core port 40 to memory port 0, at the link; one to the host port; a marked response. -/
def crossing : Packet := { pkt .req 0 with output := 137, route := [0], port := 40 }
theorem wit_routes : ((mpkt crossing).net 137).queue = [] ∧ (({ m0 with nets := [(137, { NetOut.fresh with queue := [crossing] })] } : State).net 137).queue = [crossing] ∧
    crossing.route = [0] ∧ ({ pkt .req 64 with marked := true } : Packet).route = [] ∧ 64 ≤ (pkt .req 64).mport ∧ (mpkt (pkt .req 64)).crosses (pkt .req 64) = true ∧
    (pkt .rsp 0).route = [] ∧ vcNum (pkt .rsp 0).vc < 3 ∧ (∀ id, (pkt .rsp 0).src ≠ .access id) := by
  refine ⟨by decide, by decide, rfl, rfl, by decide, by decide +kernel, rfl, by decide, fun id h => by cases h⟩
/-- R320: a marked response lowers its source's rate by an eighth. -/
theorem test_marked_response : (match exec (.packetSend 0) (mpkt { pkt .rsp 0 with marked := true }) with
    | .next t => (Table.get .fresh t.rates 72).rate
    | .fault _ | .refused _ => 0) = 896 := by decide +kernel
/-- R316, R317: a request for a memory port on the other die's side of the link goes on to that port's output. -/
theorem test_forward : (match exec (.packetSend 137) { m0.setPart 0 { hostPart with cports := 1 ||| (1 <<< 40) } with
      nets := [(137, { NetOut.fresh with queue := [crossing] })] } with
    | .next t => (t.net 0).queue.map fun p => (p.output, p.route)
    | .fault _ | .refused _ => []) = [(0, [])] := by decide +kernel

/-- A word of the fabric at guest-physical 0x22000 of domain 5. -/
theorem wit_fabric_word : fabricSize 8 .readWord = 8 ∧ fabricSize 4 (.atom .iadd (natWord 5)) = 4 ∧
    (match m2.guestPages 0 true 0x22000 8 with
      | .ok trs => (transKey trs 0x22000).map fun x => (x.1.kind, x.2)
      | .error _ => none) = some (.device, 0x22000) ∧ (match m2.guestPages 0 true 0x22000 4 with | .ok _ => true | .error _ => false) = true ∧
    fabricAct (.cas (natWord 1) (natWord 2)) ≠ none := by decide +kernel
/-- R182, R340: an atomic of another package updates the home and returns the old word. -/
theorem test_fabric_atomic : (match exec (.fabricMemoryAccess 5 0x22000 4 (.atom .iadd (natWord 5))) { m2 with mem := m2.mem.write 0x22000 [7, 0, 0, 0] } with
    | .next t => (t.mem.read 0x22000 4, t.dev.reply)
    | .fault _ | .refused _ => (0, none)) = (12, some [7, 0, 0, 0, 0, 0, 0, 0, Tag.int.code]) := by decide +kernel

/-- R358: an answer to a REF that units of two contexts wait under reaches the context that it names alone. -/
theorem test_answer_context : (match exec (.hvActionHcall 0 5) { mwait (.hcall 5) .hcall with
      tasks := [task0, { task0 with id := 7, ctx := 1 }], warps := (mwait (.hcall 5) .hcall).warps ++ [{ waiting (.hcall 5) other with task := 7 }] } with
    | .next t => t.warps.map fun w => (w.getS 56, w.splits.map fun sp => sp.paths.map fun p => p.wait)
    | .fault _ | .refused _ => []) = [(⟨.int, 99⟩, [[.run]]), (.nil, [[.hcall 5]])] := by decide +kernel

/-- A clean line in the L2 of context 0. -/
theorem wit_l2_line : Table.get 0 ({ m0 with l2 := [(0x400, 1)] } : State).l2 0x400 = 0 + 1 := by decide
/-- R367: an error there drops it, with its event and count, and leaves UEADDR. -/
theorem test_l2_error : (match exec (.uncorrectableError (.l2Line 0x400)) { m0 with l2 := [(0x400, 1)] } with
    | .next t => (t.l2, t.dev.uecnt, t.dev.ueaddr)
    | .fault _ | .refused _ => ([], 0, 9)) = ([], 1, 0) := by decide +kernel

/-- An entry of two words whose code stands at an address that the firmware gave it: its second word is fetched behind it (R78). -/
def entry2 : ImgEntry := entryFor image [1, 2] none 1 0
theorem wit_image_fetch (a : Nat) (h : Config.imageAddr entry2.key entry2.level entry2.options = some a) :
    ({ m0 with dev := { m0.dev with images := [entry2] } } : State).imageAt 0 (a + 4) = some (entry2, a) := by
  have e : entry2.shown 0 = true := by decide +kernel
  have l : entry2.code.length = 2 := rfl
  simp [State.imageAt, List.findSome?, e, h, l]

/-- A task of a context with a command to start, on a core with room. -/
theorem wit_engine_start_checks : let t := oneCmd copy8 false task0
    let s := machine id (oneCmd copy8 false)
    ∃ c, t.nextCmd 0 = some c ∧ (t.engCtx 0).cmds.find? (fun x => x.num == c.num) = some c ∧ lostAddress c = none ∧ s.refusedPage t.ctx c = none ∧
      (∀ x ∈ s.tasks, x.core = t.core → (s.ctx x.ctx).saveState ≠ 4) ∧ s.requests t.core < 2048 := by
  refine ⟨⟨1, copy8, 6, 0, false, false, [(2, rawPage)], none, none, 0⟩, ?_⟩
  decide +kernel

/-- A name that another warp has bound anew since this warp's last barrier, and one that it has not. -/
theorem wit_bound_names : let t : Task := { bound task0 with olds := [⟨2, 1, 5, none⟩] }
    (t.olds.filter fun x => x.warp == 2 && x.name == 1).length = 1 ∧ (t.olds.filter fun x => x.warp == 2 && x.name == 3) = [] := by decide

end Sys2Proof.Tests
end

section
/-!
SUPPORT. The events of the device, one equation each: register accesses (R11), reset, firmware images and reports (R371, R372), portable images
(R74 to R78), errors (R367, R368) and power (R30); and the facts about tables, bytes and lists that they rest on.
-/
namespace Sys2Proof.Machine

theorem exec_registerWrite (bar : Option Nat) (off : Nat) (v : W64) (pl : Nat) (s : State) :
    exec (.registerWrite bar off v pl) s = .next ((s.waitAt [registerPacket]).writeRegister bar off v pl) := rfl

/-! ### Registers below their level -/

theorem State.writeRegister_pf_below (s : State) {pl : Nat} (h : pl < 2) (off : Nat) (v : W64) :
    s.writeRegister none off v pl = s := if_pos h

theorem State.writeRegister_vf_below (s : State) {vf pl : Nat} (h : pl < 1 ∨ 96 ≤ vf) (off : Nat) (v : W64) :
    s.writeRegister (some vf) off v pl = s := if_pos h

theorem State.readRegister_pf_below (s : State) {pl : Nat} (h : pl < 2) (off : Nat) : s.readRegister none off pl = none := if_pos h

/-! ### The registers of a partition -/

/-- An address of the 256 bytes of a partition's registers. -/
theorem partition_address {a p off : Nat} (hp : p < 16) (ho : off < 0x100) (ha : a = 0x100000 + 0x100 * p + off) :
    (0x100000 ≤ a ∧ a < 0x101000) ∧ (a - 0x100000) / 0x100 = p ∧ a % 0x100 = off := by omega

theorem State.writeRegister_part (s : State) {a p off pl : Nat} (hp : p < 16) (hl : 2 ≤ pl) (ho : off < 0x100)
    (ha : a = 0x100000 + 0x100 * p + off) (v : W64) : s.writeRegister none a v pl = s.writePart p off v := by
  obtain ⟨hin, hdiv, hmod⟩ := partition_address hp ho ha
  rw [State.writeRegister, if_neg (by omega), State.writePf, if_pos hin, hdiv, hmod]

theorem State.readRegister_part (s : State) {a p off pl : Nat} (hp : p < 16) (hl : 2 ≤ pl) (ho : off < 0x100)
    (ha : a = 0x100000 + 0x100 * p + off) : s.readRegister none a pl = some ((s.part p).word off) := by
  obtain ⟨hin, hdiv, hmod⟩ := partition_address hp ho ha
  rw [State.readRegister, if_neg (by omega), State.pfWord, if_pos hin, hdiv, hmod]

/-! ### The registers of a function -/

theorem State.writeRegister_vf (s : State) {vf pl : Nat} (hv : vf < 96) (hl : 1 ≤ pl) (off : Nat) (v : W64) :
    s.writeRegister (some vf) off v pl = s.writeVf vf off v pl := if_neg (by omega)

theorem State.readRegister_vf (s : State) {vf pl : Nat} (hv : vf < 96) (hl : 1 ≤ pl) (off : Nat) :
    s.readRegister (some vf) off pl = some ((s.ctx vf).vfWord off) := if_neg (by omega)

theorem State.declared_eq_sum (s : State) (vf : Nat) :
    s.declared vf = ((s.ctxs.filter fun e => e.1 != vf).map fun e => e.2.vqcount).sum := by
  rw [State.declared, List.sum_eq_foldl, List.foldl_map]

theorem bits_low16 (v : W64) : bits v 15 0 = v.toNat % 2 ^ 16 := by simp [bits]

theorem State.writeVf_vqcount (s : State) (vf : Nat) (v : W64) (pl : Nat) :
    s.writeVf vf 0x10 v pl = if (s.ctx vf).vqmax < bits v 15 0 ∨ 65536 < s.declared vf + bits v 15 0 then s
      else s.setCtx vf { s.ctx vf with vqcount := bits v 15 0 } := rfl

theorem State.writeVf_dropTlb (s : State) (vf : Nat) (v : W64) (pl : Nat) :
    s.writeVf vf 0x20 v pl = if v.getLsbD 0 then { s with tlb := s.tlb.filter fun e => e.ctx != vf } else s := by
  show (if v.getLsbD 0 then s.dropTlb vf fun _ => true else s) = _
  simp [State.dropTlb, bne]

/-! ### The reset of the device -/

/-- A table of which the entries with some keys are kept. -/
theorem Table.get_filter_key {α : Type} (d : α) (t : Table α) (p : Nat → Bool) (k : Nat) :
    Table.get d (t.filter fun e => p e.1) k = if p k then Table.get d t k else d := by
  induction t with
  | nil => simp [Table.get]
  | cons e t ih =>
    obtain ⟨j, x⟩ := e
    by_cases hj : j = k
    · subst hj
      cases hp : p j <;> simp_all [Table.get]
    · cases hp : p j <;> simp [hp, Table.get, hj, ih]

theorem Mem.byte_outside (m : Mem) (k : Nat) : m.outside.byte k = if 16 * spaceSize ≤ k then m.byte k else 0 := by
  simpa [Mem.byte, Mem.outside] using Table.get_filter_key 0 m.bytes (fun k => decide (16 * spaceSize ≤ k)) k

theorem exec_deviceReset (s : State) : exec .deviceReset s = .next s.resetDevice := rfl

theorem State.resetDevice_byte_device (s : State) {k : Nat} (h : k < 16 * 2 ^ 48) : s.resetDevice.mem.byte k = 0 :=
  (s.mem.byte_outside k).trans (if_neg (by simp only [spaceSize]; omega))

theorem State.resetDevice_byte_outside (s : State) {k : Nat} (h : 16 * 2 ^ 48 ≤ k) : s.resetDevice.mem.byte k = s.mem.byte k :=
  (s.mem.byte_outside k).trans (if_pos (by simp only [spaceSize]; omega))

/-! ### Images of the firmware -/

theorem exec_firmwareImageLoad (img : List Byte) (s : State) : exec (.firmwareImageLoad img) s =
    .next (if imageHeader img && imageVerifies img then { s with dev := { s.dev with nextImage := some img } } else s) := rfl

theorem imageVerifies_iff {img : List Byte} : imageVerifies img = true ↔ Slice0.Verified img := by
  simp [imageVerifies, Slice0.Verified, and_assoc]

/-! ### Reports -/

theorem getD_append_left {α : Type} {xs ys : List α} {i : Nat} (h : i < xs.length) (d : α) : (xs ++ ys).getD i d = xs.getD i d := by
  simp only [List.getD_eq_getElem?_getD, List.getElem?_append_left h]

theorem getD_append_right {α : Type} {xs ys : List α} {i : Nat} (h : xs.length ≤ i) (d : α) :
    (xs ++ ys).getD i d = ys.getD (i - xs.length) d := by
  simp only [List.getD_eq_getElem?_getD, List.getElem?_append_right h]

@[simp] theorem bytesBE_length (v n : Nat) : (bytesBE v n).length = n := by simp [bytesBE]

theorem sha512_length (m : List Byte) : (sha512 m).length = 64 := by simp [sha512]

theorem State.reportBody_length (s : State) (vf : Option Nat) : (s.reportBody vf).length = 224 := by
  simp [State.reportBody, sha512_length]

/-- Behind 48 bytes of identity, release and nonce a report's body holds the digest of the image that runs. -/
theorem State.reportBody_image (s : State) (vf : Option Nat) {i : Nat} (hi : i < 64) : (s.reportBody vf).getD (48 + i) 0 =
    (sha512 (if s.dev.image = [] then Config.factoryImage else s.dev.image)).getD i 0 := by
  have hsha := sha512_length (if s.dev.image = [] then Config.factoryImage else s.dev.image)
  unfold State.reportBody
  generalize sha512 (if s.dev.image = [] then Config.factoryImage else s.dev.image) = digest at *
  have hlen : (bytesLE identWord.toNat 8 ++ bytesLE s.fwrel.toNat 8 ++ (List.range 32).map fun i => Table.get 0 s.dev.nonce i).length = 48 := by
    simp only [List.length_append, bytesLE_length, List.length_map, List.length_range]
  iterate 4 rw [getD_append_left (by simp only [List.length_append, hlen, hsha]; omega)]
  rw [getD_append_right (by omega), hlen, Nat.add_sub_cancel_left]

theorem State.attest_report (s : State) (vf : Option Nat) : (s.attest vf).dev.report =
    putBytes [] 0 (s.reportBody vf ++ (List.range 64).map (Config.signature (sha512 (s.reportBody vf)))) := by
  simp only [State.attest]

theorem State.reportsImage_attest (s : State) (vf : Option Nat) : Slice0.reportsImage (s.attest vf) s.dev.image := by
  intro i hi
  have hlen := s.reportBody_length vf
  rw [State.attest_report, get_putBytes, if_pos (by rw [List.length_append]; omega), Nat.sub_zero, getD_append_left (by omega),
    s.reportBody_image vf hi]

theorem exec_attestDeviceReport (s : State) : exec .attestDeviceReport s = .next (s.attest none) := rfl

theorem exec_attestVfReport (s : State) {vf : Nat} (h : vf < 96) : exec (.attestVfReport vf) s = .next (s.attest (some vf)) :=
  congrArg _ (if_pos h)

theorem exec_attestVfReport_unknown (s : State) {vf : Nat} (h : 96 ≤ vf) : exec (.attestVfReport vf) s = .next s.attestRefused :=
  congrArg _ (if_neg (by omega))

/-! ### What a translation keeps -/

theorem mem_insertBy {α : Type} {key : α → Nat} {x y : α} {xs : List α} : y ∈ insertBy key x xs ↔ y = x ∨ y ∈ xs := by
  induction xs with
  | nil => simp [insertBy]
  | cons z zs ih =>
    rw [insertBy]
    split
    · simp
    · simp only [List.mem_cons, ih]
      exact or_left_comm

theorem mem_sortBy {α : Type} {key : α → Nat} {y : α} {xs : List α} : y ∈ sortBy key xs ↔ y ∈ xs := by
  suffices h : ∀ acc : List α, y ∈ xs.foldl (fun acc x => insertBy key x acc) acc ↔ y ∈ acc ∨ y ∈ xs from by simpa [sortBy] using h []
  induction xs with
  | nil => simp
  | cons x xs ih =>
    intro acc
    rw [List.foldl_cons, ih, mem_insertBy, List.mem_cons, or_left_comm, or_assoc]

/-- The places of the JOINs in the code are those of the convergence markers (R76). -/
theorem SwCode.joins_of_keeps {c : SwCode} {fs : List SwFn} {ks : List SwKernel} {options area : Nat} (h : c.keeps fs ks options area = true) :
    ((codeUnits c.words.length 0 c.words).filter fun u => u.2.instr == .join).map (fun u => u.1) = sortBy id (c.markersAt fs) := by
  simp only [SwCode.keeps, Bool.and_eq_true] at h
  obtain ⟨⟨⟨-, hjoin⟩, -⟩, -⟩ := h
  exact beq_iff_eq.1 hjoin

theorem SwCode.join_iff_marker {c : SwCode} {fs : List SwFn} {ks : List SwKernel} {options area : Nat} (h : c.keeps fs ks options area = true)
    (a : Nat) : (∃ d, (a, d) ∈ codeUnits c.words.length 0 c.words ∧ d.instr = .join) ↔ a ∈ c.markersAt fs := by
  rw [← mem_sortBy (key := id), ← SwCode.joins_of_keeps h]
  simp

/-- What an image that has been translated held, and what its code keeps. -/
theorem translateImage_ok {img : List Byte} {c : SwCode} (h : translateImage img = .ok c) : ∃ fs ks,
    Config.imageContents img = .ok (fs, ks) ∧ (∀ f ∈ fs, f.wf = true) ∧
      c.keeps fs ks (imageOptions img) ((Config.spillArea img).getD 0) = true := by
  unfold translateImage at h
  split at h
  · cases h
  · rename_i fs ks hc
    dsimp only at h
    split at h
    · rename_i hk
      rw [Bool.and_eq_true, List.all_eq_true] at hk
      cases h
      exact ⟨fs, ks, hc, hk⟩
    · cases h

/-! ### Requests for an image -/

theorem exec_swienekTranslate_malformed (s : State) {vf : Nat} {img : List Byte} (h : imageFormed img = false ∨ 96 < vf) :
    exec (.swienekTranslate vf img) s = .next (Slice0.imageFails s .malformed) := by
  show Host.Outcome.next (if _ then _ else _) = _
  rw [if_pos (by simpa using h)]
  rfl

theorem entryFor_isFor (img : List Byte) (code : List W32) (debug : Option (List (Nat × Nat × Nat × Nat))) (mask : BitVec 96) (used : Nat) :
    (Slice0.entryFor img code debug mask used).isFor img = true := by
  simp [Slice0.entryFor, ImgEntry.isFor, deviceLevel, imageOptions, imgNum]

/-- An entry made visible to a function. -/
theorem entryFor_show (img : List Byte) (code : List W32) (debug : Option (List (Nat × Nat × Nat × Nat))) (mask : BitVec 96) (used : Nat)
    {vf : Nat} (hv : vf < 96) (now : Nat) :
    (Slice0.entryFor img code debug mask used).show vf now = Slice0.entryFor img code debug (mask ||| ((1 : BitVec 96) <<< vf)) now :=
  if_neg (by omega)

/-- A new entry, visible to the function that asked for it. -/
theorem newEntry_show (img : List Byte) (code : List W32) (debug : Option (List (Nat × Nat × Nat × Nat))) {vf : Nat} (hv : vf < 96)
    (now : Nat) : (⟨digestOf img, deviceLevel, imageOptions img, code, debug, 0, false, 0⟩ : ImgEntry).show vf now =
      Slice0.entryFor img code debug ((1 : BitVec 96) <<< vf) now := by
  rw [ImgEntry.show, if_neg (by omega), Slice0.entryFor]
  simp [deviceLevel, imageOptions, imgNum]

theorem evictImage_nil (room : Nat) : evictImage room [] = [] := by simp [evictImage, sortBy]

theorem exec_swienekTranslate_known (s : State) {vf : Nat} {img : List Byte} (hf : imageFormed img = true) (hv : vf < 96)
    {e : ImgEntry} (hs : s.dev.images = [e]) (he : e.isFor img = true) : exec (.swienekTranslate vf img) s = .next { s with
      nextId := s.nextId + 1, dev := { s.dev with reply := some [], imgErr := none, images := [e.show vf s.nextId] } } := by
  show Host.Outcome.next (if _ then _ else if (s.dev.images.any fun e => e.isFor img) then _ else _) = _
  rw [if_neg (by simp [hf]; omega), if_pos (by simp [hs, he])]
  simp [State.fresh, hs, he]

theorem exec_swienekTranslate_failed (s : State) {vf : Nat} {img : List Byte} (hf : imageFormed img = true) (hv : vf < 96)
    (hs : s.dev.images = []) {o : Nat} (ht : translateImage img = .error o) :
    exec (.swienekTranslate vf img) s = .next (Slice0.imageFails s (.failed o)) := by
  show Host.Outcome.next (if _ then _ else if (s.dev.images.any fun e => e.isFor img) then _ else _) = _
  rw [if_neg (by simp [hf]; omega), if_neg (by simp [hs]), ht]
  rfl

theorem exec_swienekTranslate_new (s : State) {vf : Nat} {img : List Byte} (hf : imageFormed img = true) (hv : vf < 96)
    (hs : s.dev.images = []) {c : SwCode} (ht : translateImage img = .ok c) : exec (.swienekTranslate vf img) s = .next { s with
      nextId := s.nextId + 1
      dev := { s.dev with
        reply := some []
        imgErr := none
        images := [Slice0.entryFor img c.words (if (imageOptions img).testBit 2 then some c.ops else none) ((1 : BitVec 96) <<< vf) s.nextId] } } := by
  show Host.Outcome.next (if _ then _ else if (s.dev.images.any fun e => e.isFor img) then _ else _) = _
  have hbit : (imageOptions img).testBit 2 = decide (imageOptions img / 4 % 2 = 1) := by simp [Nat.testBit_eq_decide_div_mod_eq]
  rw [if_neg (by simp [hf]; omega), if_neg (by simp [hs]), ht]
  simp only [State.fresh, hs, evictImage_nil, newEntry_show _ _ _ hv, List.nil_append, hbit, decide_eq_true_eq]

/-! ### Fetches from the image cache -/

theorem wordOfBytes_extract (w : W32) :
    wordOfBytes (w.extractLsb' 0 8) (w.extractLsb' (8 * 1) 8) (w.extractLsb' (8 * 2) 8) (w.extractLsb' (8 * 3) 8) = w := by
  rw [wordOfBytes, BitVec.extractLsb'_append_extractLsb'_eq_extractLsb' (by rfl), BitVec.extractLsb'_append_extractLsb'_eq_extractLsb' (by rfl),
    BitVec.extractLsb'_append_extractLsb'_eq_extractLsb' (by rfl), BitVec.extractLsb'_eq_self]

/-- The bytes of an entry's line from a word of its code on are that word. -/
theorem ImgEntry.wordIn_line (e : ImgEntry) (core ctx : Nat) {va a i : Nat} (hva : va = a + 4 * i) (ha : a % 4 = 0) :
    wordIn (e.line core ctx (va / 128) a).bytes (va % 128) = e.code.getD i 0 := by
  have hbyte : ∀ j < 4, (e.line core ctx (va / 128) a).bytes.getD (va % 128 + j) 0 = (e.code.getD i 0).extractLsb' (8 * j) 8 := by
    intro j hj
    have hk : va / 128 * 128 + (va % 128 + j) - a = 4 * i + j := by omega
    simp only [ImgEntry.line]
    rw [List.getD_eq_getElem?_getD, List.getElem?_map, List.getElem?_range (by omega)]
    simp only [Option.map_some, Option.getD_some, hk]
    rw [if_neg (by omega), show (4 * i + j) / 4 = i by omega, show (4 * i + j) % 4 = j by omega]
  have h0 := hbyte 0 (by omega)
  rw [Nat.add_zero] at h0
  rw [wordIn, h0, hbyte 1 (by omega), hbyte 2 (by omega), hbyte 3 (by omega), wordOfBytes_extract]

theorem State.fetchWord_image {s : State} {k : Task} {va : W64} {e : ImgEntry} {a i : Nat} (pl : Nat)
    (h : s.imageAt k.ctx va.toNat = some (e, a)) (hva : va.toNat = a + 4 * i) (ha : a % 4 = 0)
    (hc : ∀ l ∈ s.icache, ¬(l.core = k.core ∧ l.ctx = k.ctx ∧ l.line = va.toNat / 128)) :
    s.fetchWord k pl va = .ok ({ s with icache := s.icache ++ [e.line k.core k.ctx (va.toNat / 128) a] }, e.code.getD i 0) := by
  have hmiss : s.icache.find? (fun l => l.core == k.core && l.ctx == k.ctx && l.line == va.toNat / 128) = none :=
    List.find?_eq_none.2 fun l hl => by simpa [and_assoc] using hc l hl
  simp only [State.fetchWord, h, State.fetchImage, hmiss, e.wordIn_line k.core k.ctx hva ha]

/-! ### A line of the L1 read again -/

theorem exec_cleanLineRefetch (core line : Nat) (s : State) : exec (.cleanLineRefetch core line) s = .next (s.l1Refresh core line) := rfl

theorem State.getElem?_l1Refresh (s : State) (core line : Nat) {i : Nat} {x : L1Line} (h : s.l1[i]? = some x) :
    (s.l1Refresh core line).l1[i]? = some (if x.core = core ∧ x.line = line then s.refetched x else x) := by
  simp [State.l1Refresh, h]

/-! ### Errors in registers -/

theorem exec_uncorrectableError_vreg {s : State} {w : Warp} {l r : Nat} (hw : s.warp? w.id = some w) (hl : l < w.width) (hr : r < w.nregs) :
    exec (.uncorrectableError (.vreg w.id l r)) s =
      .next ((s.setWarp (w.putV l r (poisonWord 1))).reportError (s.ctxOfWarp w.id) 1 none) := by
  show Host.Outcome.next (s.spoilReg (.vreg w.id l r)) = _
  rw [State.spoilReg, hw]
  exact congrArg _ (if_pos ⟨hl, hr⟩)

theorem State.warp?_setWarp_putV {s : State} {w : Warp} (hw : s.warp? w.id = some w) (l r : Nat) (x : Word) :
    (s.setWarp (w.putV l r x)).warp? w.id = some (w.putV l r x) :=
  State.find_setWarp (w := w.putV l r x) (by rw [show (w.putV l r x).id = w.id from rfl, hw]; simp)

/-! ### Errors in memory -/

theorem exec_uncorrectableError_memory (s : State) {k : Nat} (hk : k < 16 * 2 ^ 48) : exec (.uncorrectableError (.memory k)) s =
    .next (({ s with mem := s.spoilt s.mem (k / 128) } : State).reportHbm 0 (if s.taggedLine (k / 128) then 3 else 4) (k % 2 ^ 48)) := by
  have hdev : isDeviceKey k = true := decide_eq_true (by simpa only [spaceSize] using hk)
  show Host.Outcome.next (if isDeviceKey k then _ else s) = _
  rw [if_pos hdev]
  rfl

@[simp] theorem State.reportHbm_mem (s : State) (vf row addr : Nat) : (s.reportHbm vf row addr).mem = s.mem := rfl

theorem readLE_congr {f g : Nat → Byte} (n : Nat) {k : Nat} (h : ∀ j < n, f (k + j) = g (k + j)) : readLE f k n = readLE g k n := by
  induction n generalizing k with
  | zero => rfl
  | succ n ih =>
    have h0 : f k = g k := h 0 (by omega)
    rw [readLE, readLE, h0, ih fun j hj => by rw [Nat.add_assoc, Nat.add_comm 1 j]; exact h (j + 1) (by omega)]

theorem readLE_bytesLE {f : Nat → Byte} (n : Nat) {k v : Nat} (h : ∀ j < n, f (k + j) = (bytesLE v n).getD j 0) :
    readLE f k n = v % 256 ^ n := by
  induction n generalizing k v with
  | zero => simp [readLE, Nat.mod_one]
  | succ n ih =>
    have h0 : f k = BitVec.ofNat 8 v := h 0 (by omega)
    have hrest := ih (k := k + 1) (v := v / 256) fun j hj => by
      rw [Nat.add_assoc, Nat.add_comm 1 j, h (j + 1) (by omega), bytesLE, List.getD_cons_succ]
    rw [readLE, h0, hrest, BitVec.toNat_ofNat]
    exact ((congrArg (v % ·) Nat.pow_succ').trans Nat.mod_mul).symm

/-- A number reads back from where it was written. -/
theorem Mem.read_write_self (m : Mem) (k v n : Nat) : (m.write k (bytesLE v n)).read k n = v % 256 ^ n :=
  readLE_bytesLE n fun j hj => by rw [Mem.byte_write, if_pos (by simp; omega), Nat.add_sub_cancel_left]

theorem Mem.read_write_disjoint (m : Mem) {k a n : Nat} {bs : List Byte} (h : a + n ≤ k ∨ k + bs.length ≤ a) :
    (m.write k bs).read a n = m.read a n :=
  readLE_congr n fun j hj => by rw [Mem.byte_write, if_neg (by omega)]

@[simp] theorem Mem.read_setTag (m : Mem) (k : Nat) (t : Tag) (a n : Nat) : (m.setTag k t).read a n = m.read a n := rfl

/-- A word at an aligned address after POISON with origin 2 has been written at one. -/
theorem Mem.word_write_poison (m : Mem) {k a : Nat} (hk : k % 8 = 0) (ha : a % 8 = 0) :
    ((m.write k (bytesLE 2 8)).setTag k .poison).word a = if a = k then ⟨.poison, 2⟩ else m.word a := by
  rw [Mem.word, Mem.tag_setTag, Mem.read_setTag]
  split
  · next h =>
    have hak : a = k := by omega
    rw [if_pos hak, hak, Mem.read_write_self]
    rfl
  · next h =>
    rw [if_neg (by rintro rfl; exact h rfl), Mem.tag_write, Mem.read_write_disjoint _ (by simp; omega)]
    rfl

theorem Mem.word_poisonLine (m : Mem) (line : Nat) {i : Nat} (hi : i < 16) : (m.poisonLine line).word (line * 128 + 8 * i) = ⟨.poison, 2⟩ := by
  suffices h : ∀ (is : List Nat) (m : Mem),
      (is.foldl (fun m i => (m.write (line * 128 + 8 * i) (bytesLE 2 8)).setTag (line * 128 + 8 * i) .poison) m).word (line * 128 + 8 * i) =
        if i ∈ is then ⟨.poison, 2⟩ else m.word (line * 128 + 8 * i) from
    (h (List.range 16) m).trans (if_pos (List.mem_range.2 hi))
  intro is
  induction is with
  | nil => simp
  | cons j js ih =>
    intro m
    rw [List.foldl_cons, ih, Mem.word_write_poison _ (by omega) (by omega)]
    by_cases hj : i = j
    · rw [hj, if_pos rfl, if_pos List.mem_cons_self, ite_self]
    · simp only [List.mem_cons, hj, false_or, if_neg (show ¬line * 128 + 8 * i = line * 128 + 8 * j by omega)]

/-- An error in a line that holds tags leaves POISON in each of its words. -/
theorem State.word_spoilt_tagged {s : State} {line : Nat} (h : s.taggedLine line = true) (m : Mem) {i : Nat} (hi : i < 16) :
    (s.spoilt m line).word (line * 128 + 8 * i) = ⟨.poison, 2⟩ := by
  rw [State.spoilt, if_pos h, Mem.word_poisonLine m line hi]

theorem State.spoilt_raw {s : State} {line : Nat} (h : s.taggedLine line = false) (m : Mem) :
    s.spoilt m line = m.setMark (line * 128) true := if_neg (by simp [h])

/-! ### Errors in caches -/

theorem exec_uncorrectableError_cacheLine {s : State} {x : L1Line} (h : s.l1 = [x]) (hd : x.isDirty = false) :
    exec (.uncorrectableError (.cacheLine x.core x.line)) s = .next (({ s with l1 := [] } : State).reportError x.ctx 2 none) := by
  show Host.Outcome.next (s.spoilL1 x.core x.line) = _
  simp [State.spoilL1, h, hd]

theorem exec_uncorrectableError_l2Line {s : State} {line id : Nat} (h : Table.get 0 s.l2 line = id + 1) :
    exec (.uncorrectableError (.l2Line line)) s = .next (({ s with l2 := Table.put 0 s.l2 line 0 } : State).reportError id 2 none) := by
  show Host.Outcome.next (if Table.get 0 s.l2 line = 0 then s else _) = _
  rw [if_neg (by omega), h, Nat.add_sub_cancel]

theorem exec_uncorrectableError_firmware (s : State) : exec (.uncorrectableError .firmware) s = .next { s.resetDevice with
    dev := { s.resetDevice.dev with cxl := s.dev.cxl ++ [9], uecnt := 1, uewhere := 9, evwait := [⟨5, 0, 0, 0, 9, []⟩] } } := rfl

/-- A choice of two draws from the counter alone. -/
theorem State.choose_two (s : State) : (s.choose 2).2 = { s with tick := s.tick + 1 } := rfl

/-- An error met in the cache that holds a translation: it is discarded (row 2). -/
theorem exec_uncorrectableError_translation_dropped {s : State} {x : TlbEntry} (h : s.tlb = [x]) (hc : (s.choose 2).1 = 0) :
    exec (.uncorrectableError (.translation 0 false)) s = .next (({ s with tick := s.tick + 1, tlb := [] } : State).reportError x.ctx 2 none) := by
  show Host.Outcome.next (match s.tlb[0]? with | some e => if (s.choose 2).1 = 0 then _ else _ | none => _) = _
  simp [h, hc, State.choose_two]

/-- An error met in the entry of stage 1 itself: the translation is bad (row 6). -/
theorem exec_uncorrectableError_translation_bad {s : State} {x : TlbEntry} (h : s.tlb = [x]) (hc : (s.choose 2).1 ≠ 0) :
    exec (.uncorrectableError (.translation 0 false)) s =
      .next (({ s with tick := s.tick + 1, tlb := [{ x with bad := 1 }] } : State).reportError x.ctx 6 none) := by
  show Host.Outcome.next (match s.tlb[0]? with | some e => if (s.choose 2).1 = 0 then _ else _ | none => _) = _
  simp [h, hc, State.choose_two]

/-- An error met in the instruction cache: the line is discarded (row 2). -/
theorem exec_uncorrectableError_instrLine_dropped {s : State} {x : ILine} (h : s.icache = [x]) (hc : (s.choose 2).1 = 0) :
    exec (.uncorrectableError (.instrLine x.core x.line)) s = .next (({ s with tick := s.tick + 1, icache := [] } : State).reportError x.ctx 2 none) := by
  show Host.Outcome.next (match s.icache.find? _ with | some e => if (s.choose 2).1 = 0 then _ else _ | none => _) = _
  simp [h, hc, State.choose_two]

/-- An error met in the line itself: it is poisoned (row 7). -/
theorem exec_uncorrectableError_instrLine_poisoned {s : State} {x : ILine} (h : s.icache = [x]) (hc : (s.choose 2).1 ≠ 0) :
    exec (.uncorrectableError (.instrLine x.core x.line)) s =
      .next (({ s with tick := s.tick + 1, icache := [{ x with poisoned := true }] } : State).reportError x.ctx 7 none) := by
  show Host.Outcome.next (match s.icache.find? _ with | some e => if (s.choose 2).1 = 0 then _ else _ | none => _) = _
  simp [h, hc, State.choose_two]

/-! ### Power -/

theorem exec_blockWake_gated {s : State} {b : Nat} (h : b ∈ s.dev.gated) : exec (.blockWake b) s = .next { s with dev := { s.dev with
    gated := s.dev.gated.filter fun x => x != b, woke := Table.put 0 s.dev.woke b s.cycles } } :=
  congrArg _ (if_pos (List.contains_iff_mem.2 h))

theorem exec_blockWake_awake {s : State} {b : Nat} (h : b ∉ s.dev.gated) : exec (.blockWake b) s = .next s :=
  congrArg _ (if_neg (mt List.contains_iff_mem.1 h))

theorem exec_blockGating_refused {s : State} {b : Nat} (h : (∃ t ∈ s.tasks, t.core = b) ∨ b ∈ s.dev.gated) : exec (.blockGating b) s = .next s :=
  congrArg _ (if_pos (by simpa using h))

theorem exec_blockGating_idle {s : State} {b : Nat} (h : ∀ t ∈ s.tasks, t.core ≠ b) (hg : b ∉ s.dev.gated) : exec (.blockGating b) s =
    .next { s.l1WriteBack (fun l => l.core == b) with
      dev := { (s.l1WriteBack fun l => l.core == b).dev with gated := (s.l1WriteBack fun l => l.core == b).dev.gated ++ [b] } } :=
  congrArg _ (if_neg (by simpa using ⟨h, hg⟩))

/-- Stores that reach lines change what atomics in flight have seen there, and nothing else. -/
theorem State.unsee_eq (s : State) (lines : List Nat) : ∃ atoms, s.unsee lines = { s with atoms := atoms } := by
  unfold State.unsee
  dsimp only
  split
  · exact ⟨s.atoms, rfl⟩
  · exact ⟨_, rfl⟩

@[simp] theorem State.unsee_l1 (s : State) (lines : List Nat) : (s.unsee lines).l1 = s.l1 := by
  obtain ⟨_, h⟩ := s.unsee_eq lines
  rw [h]

/-- Lines written back change memory, the L1 and what atomics in flight have seen, and nothing else. -/
theorem State.l1WriteBack_eq (s : State) (p : L1Line → Bool) :
    ∃ atoms mem l1, s.l1WriteBack p = { s with atoms := atoms, mem := mem, l1 := l1 } := by
  unfold State.l1WriteBack
  dsimp only
  split
  · exact ⟨s.atoms, s.mem, s.l1, rfl⟩
  · obtain ⟨atoms, h⟩ := s.unsee_eq ((s.l1.filter fun l => p l && l.isDirty).map fun l => l.line)
    exact ⟨atoms, _, _, by rw [h]⟩

@[simp] theorem State.l1WriteBack_tasks (s : State) (p : L1Line → Bool) : (s.l1WriteBack p).tasks = s.tasks := by
  obtain ⟨_, _, _, h⟩ := s.l1WriteBack_eq p
  rw [h]

@[simp] theorem State.l1WriteBack_dev (s : State) (p : L1Line → Bool) : (s.l1WriteBack p).dev = s.dev := by
  obtain ⟨_, _, _, h⟩ := s.l1WriteBack_eq p
  rw [h]

/-- A core's lines written back are clean. -/
theorem State.l1WriteBack_core_clean (s : State) (b : Nat) {x : L1Line} (hx : x ∈ (s.l1WriteBack fun l => l.core == b).l1) (hc : x.core = b) :
    x.isDirty = false := by
  unfold State.l1WriteBack at hx
  dsimp only at hx
  split at hx
  · rename_i hnone
    simpa [hc] using List.filter_eq_nil_iff.1 hnone x hx
  · simp only [State.unsee_l1, List.mem_map] at hx
    obtain ⟨y, -, rfl⟩ := hx
    split at hc
    · rename_i hy
      simp [hy, L1Line.isDirty]
    · rename_i hy
      exact absurd hc (by simpa using hy)

end Sys2Proof.Machine
end

section
/-!
PROOFS. The two halves of O53: registers, resets, reports and images; errors and power.
-/
namespace Sys2Proof.Slice0

open Sys2Proof Sys2Proof.Machine

theorem registerAndResetEvents : RegisterAndResetEvents := by
  intro s r
  refine ⟨fun off v pl h => ?pfBelow, fun vf off v pl h => ?vfBelow, fun p v pl hp hl => ?partition, fun off pl h => s.readRegister_pf_below h off,
    fun vf v pl hv hl => ?function, ?reset, fun img => ⟨fun hh hv => ?accepted, fun h => ?rejected⟩, ?deviceReport, fun vf hv => ?functionReport,
    fun vf hv => exec_attestVfReport_unknown s hv, fun vf img h => exec_swienekTranslate_malformed s h,
    fun vf img hf hv => ⟨fun code debug mask used hs => ?known, fun hs => ⟨fun o ht => exec_swienekTranslate_failed s hf hv hs ht, fun c ht => ?new⟩⟩,
    fun k pl va e a i h hva ha hc => ⟨_, State.fetchWord_image pl h hva ha hc, rfl, _, rfl, rfl⟩, fun core line => ?refetch⟩
  case pfBelow => rw [exec_registerWrite, State.writeRegister_pf_below _ h]
  case vfBelow => rw [exec_registerWrite, State.writeRegister_vf_below _ h]
  case partition =>
    have hw : ∀ a off, off < 0x100 → a = 0x100000 + 0x100 * p + off →
        exec (.registerWrite none a v pl) s = .next (r.writePart p off v) := fun a off ho ha => by
      rw [exec_registerWrite, State.writeRegister_part _ hp hl ho ha]
    exact ⟨hw _ 0x10 (by omega) (by omega), hw _ 0x18 (by omega) (by omega), hw _ 0x28 (by omega) (by omega),
      hw _ 0x00 (by omega) (by omega), s.readRegister_part (off := 0x10) hp hl (by omega) (by omega),
      s.readRegister_part (off := 0x18) hp hl (by omega) (by omega)⟩
  case function =>
    have hw : ∀ off, exec (.registerWrite (some vf) off v pl) s = .next (r.writeVf vf off v pl) := fun off => by
      rw [exec_registerWrite, State.writeRegister_vf _ hv hl]
    refine ⟨hw 0x08, ?_, s.readRegister_vf hv hl 0x08, s.readRegister_vf hv hl 0x00, hw 0x18, ?_⟩
    · rw [hw, State.writeVf_vqcount, bits_low16, ← s.declared_eq_sum]
      rfl
    · rw [hw, State.writeVf_dropTlb]
      rfl
  case reset => exact ⟨_, exec_deviceReset s, rfl, fun k hk => s.resetDevice_byte_device hk, fun k hk => s.resetDevice_byte_outside hk⟩
  case accepted => rw [exec_firmwareImageLoad, if_pos (by rw [hh, imageVerifies_iff.2 hv]; rfl)]
  case rejected =>
    rw [exec_firmwareImageLoad, if_neg]
    rw [Bool.and_eq_true, imageVerifies_iff]
    rintro ⟨hh, hv⟩
    exact h.elim (fun h => by simp [h] at hh) (fun h => h hv)
  case deviceReport => exact ⟨_, exec_attestDeviceReport s, rfl, rfl, rfl, s.reportsImage_attest none⟩
  case functionReport => exact ⟨_, exec_attestVfReport s hv, rfl, rfl, rfl, s.reportsImage_attest (some vf)⟩
  case known =>
    refine ⟨_, exec_swienekTranslate_known s hf hv hs (entryFor_isFor ..), rfl, ?_⟩
    exact congrArg (fun e => [e]) (entryFor_show img code debug mask used hv s.nextId)
  case new =>
    obtain ⟨fs, ks, hcont, hwf, hkeeps⟩ := translateImage_ok ht
    exact ⟨_, exec_swienekTranslate_new s hf hv hs ht, rfl, rfl, rfl, fs, ks, hcont, hwf, hkeeps, SwCode.join_iff_marker hkeeps⟩
  case refetch =>
    refine ⟨_, exec_cleanLineRefetch core line s, rfl, by simp [State.l1Refresh], fun i x hx => ⟨_, s.getElem?_l1Refresh core line hx, ?_⟩⟩
    by_cases hl : x.core = core ∧ x.line = line
    · rw [if_pos hl]
      exact ⟨rfl, rfl, rfl, rfl, rfl, fun hne => hne.elim (absurd hl.1) (absurd hl.2)⟩
    · rw [if_neg hl]
      exact ⟨rfl, rfl, rfl, rfl, rfl, fun _ => rfl⟩

theorem errorAndPowerEvents : ErrorAndPowerEvents := by
  intro s
  refine ⟨fun w l r hw hl hr _ => ?register, fun k hk _ => ?memory,
    fun x hx hd => ⟨_, exec_uncorrectableError_cacheLine hx hd, rfl, rfl, rfl, rfl⟩,
    fun line id h => ⟨_, exec_uncorrectableError_l2Line h, Table.get_put_self 0 s.l2 line 0, rfl, rfl, rfl, rfl⟩,
    ⟨_, exec_deviceReset s, exec_uncorrectableError_firmware s⟩, fun x hx => ?translation, fun x hx => ?instrLine, rfl, rfl,
    fun b hb => exec_blockWake_gated hb, fun b hb => exec_blockWake_awake hb, fun b hb => exec_blockGating_refused hb,
    fun b hb hg => ⟨_, exec_blockGating_idle hb hg, ?gated, fun x hx hc => s.l1WriteBack_core_clean b hx hc, s.l1WriteBack_tasks _⟩,
    fun b f => rfl⟩
  case register =>
    exact ⟨_, _, exec_uncorrectableError_vreg hw hl hr, State.warp?_setWarp_putV hw l r _, Table.get_put_self .nil w.v _ (poisonWord 1),
      fun k hk => Table.get_put_ne .nil w.v (poisonWord 1) hk, rfl, rfl, rfl, _, rfl⟩
  case memory =>
    refine ⟨_, exec_uncorrectableError_memory s hk, rfl, rfl, rfl, fun ht i hi => State.word_spoilt_tagged ht s.mem hi, fun ht => ?_⟩
    rw [State.reportHbm_mem, State.spoilt_raw ht]
    exact ⟨by rw [Mem.marked_setMark, if_pos (by omega)], rfl, rfl⟩
  case translation =>
    by_cases hc : (s.choose 2).1 = 0
    · exact ⟨_, 2, exec_uncorrectableError_translation_dropped hx hc, rfl, rfl, rfl, .inl ⟨rfl, rfl⟩⟩
    · exact ⟨_, 6, exec_uncorrectableError_translation_bad hx hc, rfl, rfl, rfl, .inr ⟨rfl, rfl⟩⟩
  case instrLine =>
    by_cases hc : (s.choose 2).1 = 0
    · exact ⟨_, 2, exec_uncorrectableError_instrLine_dropped hx hc, rfl, rfl, rfl, .inl ⟨rfl, rfl⟩⟩
    · exact ⟨_, 7, exec_uncorrectableError_instrLine_poisoned hx hc, rfl, rfl, rfl, .inr ⟨rfl, rfl⟩⟩
  case gated => exact congrArg (fun d : Dev => d.gated ++ [b]) (s.l1WriteBack_dev _)

/-- Settles O53: register, reset, image, report, error and power events of the device. -/
theorem deviceEvents : Obligations.DeviceEvents := ⟨registerAndResetEvents, errorAndPowerEvents⟩

end Sys2Proof.Slice0
end
